-- ==== Sys2Proof/Word.lean ====
section
/-! DEFINITION. The data widths of 00_scope.md R6: a byte is 8 bits, a half 16, a word 32, a double 64. -/

namespace Sys2Proof

/-- 8 bits (R6). -/
abbrev Byte := BitVec 8
/-- 16 bits (R6). -/
abbrev Half := BitVec 16
/-- 32 bits (R6): a v or s register, and one slot of a register row. -/
abbrev Word := BitVec 32
/-- 64 bits (R6): an x register, a pair, an instruction word. -/
abbrev Dbl := BitVec 64
/-- 64 bytes: one compositor descriptor slot (R187). -/
abbrev Slot512 := BitVec 512

end Sys2Proof
end

