-- ==== Sys2Proof/Machine/Flags.lean ====
section
/-! DEFINITION. The status flags of ASTAT (Table 9.6). -/

namespace Sys2Proof.Machine

/-- ASTAT[0]: invalid operation. -/
def flagInv : Word := 1#32
/-- ASTAT[1]: division of a nonzero value by zero. -/
def flagDz : Word := 2#32
/-- ASTAT[2]: a result overflowed its format. -/
def flagOfl : Word := 4#32
/-- ASTAT[3]: a tiny result was inexact, or flushed. -/
def flagUfl : Word := 8#32
/-- ASTAT[4]: a rounded result differed from the exact one. -/
def flagInx : Word := 16#32
/-- ASTAT[5]: an integer or `.sat` result was clamped. -/
def flagSat : Word := 32#32

/-- A flag that is raised on a condition. -/
def flagIf (c : Bool) (f : Word) : Word := if c then f else 0#32

/-- Sticky flags: the OR of what was there and what a word raised (R175); bits [31:6] stay zero. -/
def raiseFlags (astat f : Word) : Word := astat ||| (f &&& 0x3F#32)

end Sys2Proof.Machine
end

