-- ==== Sys2Proof/Machine/Numbers.lean ====
section
/-! DEFINITION. The number formats of chapter 9 as exact values, and rounding, conversion and comparison (R163-R173). Formats
are named by their type codes (Table 13.7). -/

namespace Sys2Proof.Machine

/-- The exact value of an element: a NaN with its sign, an infinity, or (−1)^neg · m · 2^e. -/
inductive Val where
  | nan (signalling neg : Bool)
  | inf (neg : Bool)
  | fin (neg : Bool) (m : Nat) (e : Int)
  deriving DecidableEq, Repr

/-- A result code and the flags it raises. -/
abbrev Coded := Nat × Word

/-- Exponent bits, fraction bits and bias of FP32, FP16, BF16, E4M3 and E5M2 (Table 9.1). -/
def floatShape (t : Nat) : Nat × Nat × Int :=
  match t with
  | 0 => (8, 23, 127)
  | 1 => (5, 10, 15)
  | 2 => (8, 7, 127)
  | 3 => (4, 3, 7)
  | _ => (5, 2, 15)

/-- Bits of an element (Table 13.7). -/
def typeBits (t : Nat) : Nat :=
  match t with
  | 0 => 32 | 1 => 16 | 2 => 16 | 3 => 8 | 4 => 8 | 5 => 6 | 6 => 8 | 7 => 8 | 8 => 32 | 9 => 32 | 10 => 64
  | 11 => 8 | 12 => 16 | _ => 128

/-- Bytes of an element in memory (Table 13.7). -/
def typeBytes (t : Nat) : Nat :=
  match t with
  | 0 => 4 | 1 => 2 | 2 => 2 | 8 => 4 | 9 => 4 | 10 => 8 | 12 => 2 | 13 => 16 | _ => 1

/-- The canonical NaN (Table 9.2). -/
def canonicalNan (t : Nat) : Nat :=
  match t with
  | 0 => 0x7FC00000 | 1 => 0x7E00 | 2 => 0x7FC0 | 3 => 0x7F | 4 => 0x7E | _ => 0xFF

/-- The largest finite code (Table 9.2). -/
def largestFinite (t : Nat) : Nat :=
  match t with
  | 0 => 0x7F7FFFFF | 1 => 0x7BFF | 2 => 0x7F7F | 3 => 0x7E | _ => 0x7B

/-- L(F) of R165. -/
def lgStep (f : Nat) : Nat :=
  match f with
  | 0 => 0x400 | 1 => 0x4C2 | 2 => 0x5A8 | _ => 0x6BA

/-- Bits [n-1:0] of x as two's complement. -/
def sextNat (x n : Nat) : Int := if x % 2 ^ n < 2 ^ (n - 1) then (x % 2 ^ n : Nat) else (x % 2 ^ n : Nat) - (2 ^ n : Nat)

/-- An exact integer. -/
def valOfInt (x : Int) : Val := .fin (decide (x < 0)) x.natAbs 0

/-- The value of a code of FP32, FP16, BF16, E5M2 or E4M3 (R164); under `ftz` a subnormal reads as a zero of its sign (R172). -/
def decodeFloat (t : Nat) (code : Nat) (ftz : Bool) : Val :=
  let (eb, mb, bias) := floatShape t
  let neg := code >>> (eb + mb) % 2 == 1
  let e := (code >>> mb) % 2 ^ eb
  let f := code % 2 ^ mb
  if e = 2 ^ eb - 1 ∧ t = 3 ∧ f = 7 then .nan false neg
  else if e = 2 ^ eb - 1 ∧ t ≠ 3 then
    if f = 0 then .inf neg else .nan (decide (t ≤ 2) && decide (f < 2 ^ (mb - 1))) neg
  else if e = 0 then .fin neg (if ftz then 0 else f) (1 - bias - mb)
  else .fin neg (2 ^ mb + f) (e - bias - mb)

/-- The value of an element code of any type (R163-R166). -/
def decodeVal (t : Nat) (code : Nat) (ftz : Bool) : Val :=
  match t with
  | 0 | 1 | 2 | 3 | 4 => decodeFloat t code ftz
  | 5 =>
    let i := code / 4 % 8
    let f := code % 4
    .fin (code / 32 % 2 == 1) (if i = 0 ∧ f = 0 then 0 else lgStep f) ((i : Int) - 13)
  | 6 => if code % 256 = 255 then .nan false false else .fin false 1 ((code % 256 : Nat) - 127)
  | 9 | 11 | 12 | 13 => .fin false (code % 2 ^ typeBits t) 0
  | _ => valOfInt (sextNat code (typeBits t))

/-- floor(log2 m) + 1; 0 for 0. -/
def bitLen (m : Nat) : Nat := if m = 0 then 0 else Nat.log2 m + 1

/-- m · 2^-sh rounded to an integer by a mode of Table 9.4: the integer, and whether it differs. -/
def roundInt (mode : Nat) (neg : Bool) (m : Nat) (sh : Int) : Nat × Bool :=
  if sh ≤ 0 then (m <<< (-sh).toNat, false)
  else
    -- a value far below half a unit is replaced by one with the same outcome
    let far := decide (sh.toNat > bitLen m + 2)
    let m := if far then (if m = 0 then 0 else 1) else m
    let s := if far then 3 else sh.toNat
    let q := m >>> s
    let r := m % 2 ^ s
    let half := 2 ^ (s - 1)
    let up := match mode with
      | 0 => decide (r > half) || (r == half && q % 2 == 1)
      | 1 => false
      | 2 => neg && r != 0
      | _ => !neg && r != 0
    (if up then q + 1 else q, r != 0)

/-- Round of a finite nonzero magnitude to a floating format (R167, R168, R172): the unsigned code and flags; `none` for a
result that overflows with an unbounded exponent. -/
def roundMag (t mode : Nat) (ftz neg : Bool) (m : Nat) (e : Int) : Option Coded :=
  let (_, mb, bias) := floatShape t
  let emin : Int := 1 - bias
  let top : Int := e + (bitLen m : Nat) - 1
  let q := max top emin - mb
  let (r, inx) := roundInt mode neg m (q - e)
  let code : Int := (q + mb + bias - 1) * 2 ^ mb + r
  let unbounded := (roundInt mode neg m (top - mb - e)).1
  let tiny := decide (top < emin) && !(top == emin - 1 && unbounded == 2 ^ (mb + 1))
  if code > largestFinite t then none
  else if r < 2 ^ mb ∧ r ≠ 0 ∧ ftz then some (0, flagUfl ||| flagInx)
  else some (code.toNat, flagIf inx flagInx ||| flagIf (tiny && inx) flagUfl)

/-- The sign bit of a format. -/
def signBit (t : Nat) (neg : Bool) : Nat := if neg then 2 ^ (typeBits t - 1) else 0

/-- Round(x, fmt, mode, ftz) for FP32, FP16 and BF16 (R167, R172, R173). -/
def roundVal (t mode : Nat) (ftz : Bool) (v : Val) : Coded :=
  match v with
  | .nan sig _ => (canonicalNan t, flagIf sig flagInv)
  | .inf neg => (signBit t neg + largestFinite t + 1, 0#32)
  | .fin neg m e =>
    if m = 0 then (signBit t neg, 0#32)
    else match roundMag t mode ftz neg m e with
      | some (c, f) => (signBit t neg + c, f)
      | none =>
        let stay := mode == 1 || (mode == 2 && !neg) || (mode == 3 && neg)
        (signBit t neg + largestFinite t + (if stay then 0 else 1), flagOfl ||| flagInx)

/-- Conversion to E4M3 or E5M2 (R168, Table 9.5). -/
def toFp8 (t : Nat) (sat ftz : Bool) (v : Val) : Coded :=
  let past (neg : Bool) : Nat :=
    if sat then signBit t neg + largestFinite t else if t = 3 then 0x7F else signBit t neg + 0x7C
  match v with
  | .nan sig _ => (canonicalNan t, flagIf sig flagInv)
  | .inf neg => (past neg, flagIf (sat || t == 3) flagOfl)
  | .fin neg m e =>
    if m = 0 then (signBit t neg, 0#32)
    else match roundMag t 0 ftz neg m e with
      | some (c, f) => (signBit t neg + c, f)
      | none => (past neg, flagOfl ||| flagInx)

/-- The magnitudes of Table 9.3 in units of 2^-13, by code, and the extension step of R168 at 32. -/
def lgMag (c : Nat) : Nat := if c = 0 then 0 else lgStep (c % 4) * 2 ^ (c / 4)

/-- Nearest code to m · 2^sh units among 0..n, ties to the code with F even (R169). -/
def lgNearest (m : Nat) (sh : Int) : Nat → Nat
  | 0 => 0
  | n + 1 =>
    -- boundary between codes n and n+1, doubled: x at or above it takes n+1
    let mid := lgMag n + lgMag (n + 1)
    let x2 := if sh ≥ 0 then 2 * m <<< sh.toNat else 2 * m
    let mid' := if sh ≥ 0 then mid else mid <<< (-sh).toNat
    if x2 > mid' ∨ (x2 = mid' ∧ (n + 1) % 2 = 0) then n + 1 else lgNearest m sh n

/-- Conversion to LG6 (R168, R169, Table 9.5). -/
def toLg6 (v : Val) : Coded :=
  let s (neg : Bool) : Nat := if neg then 32 else 0
  match v with
  | .nan _ neg => (s neg + 31, flagInv)
  | .inf neg => (s neg + 31, flagOfl)
  | .fin neg m e =>
    if m = 0 then (s neg, 0#32)
    -- outside 2^-10 .. 2^6 the outcome is fixed
    else if e + (bitLen m : Nat) < -8 then (s neg, flagInx)
    else if e + (bitLen m : Nat) > 8 then (s neg + 31, flagOfl ||| flagInx)
    else
      let c := lgNearest m (e + 13) 32
      if c = 32 then (s neg + 31, flagOfl ||| flagInx)
      else (s neg + c, flagIf (if 0 ≤ e + 13 then m <<< (e + 13).toNat ≠ lgMag c else m ≠ lgMag c <<< (-(e + 13)).toNat) flagInx)

/-- Conversion to E8M0 (R170). -/
def toE8m0 (v : Val) : Coded :=
  match v with
  | .nan _ _ => (0xFF, flagInv)
  | .inf _ => (0xFF, flagInv)
  | .fin _ m e =>
    if m = 0 then (0, flagInx)
    else
      let c := e + (bitLen m : Nat) - 1 + 127
      let k := if c < 0 then 0 else if c > 254 then 254 else c.toNat
      (k, flagIf (m ≠ 2 ^ (bitLen m - 1) || c ≠ k) flagInx)

/-- The range of an integer type. -/
def intMin (t : Nat) : Int := if t = 9 then 0 else -(2 ^ (typeBits t - 1) : Nat)
def intMax (t : Nat) : Int := if t = 9 then (2 ^ 32 - 1 : Nat) else (2 ^ (typeBits t - 1) - 1 : Nat)

/-- An integer modulo 2^n. -/
def wrapNat (x : Int) (n : Nat) : Nat := (x % (2 ^ n : Nat)).toNat

/-- Clamp to the range of a type when `sat`, raising SAT, or keep the low bits (R170, R312). -/
def narrowInt (t : Nat) (sat : Bool) (x : Int) : Coded :=
  if sat ∧ x < intMin t then (wrapNat (intMin t) (typeBits t), flagSat)
  else if sat ∧ intMax t < x then (wrapNat (intMax t) (typeBits t), flagSat)
  else (wrapNat x (typeBits t), 0#32)

/-- Conversion of a floating value to an integer type by a mode of Table 9.4 (R170). -/
def toInt (t mode : Nat) (v : Val) : Coded :=
  let out (x : Int) (f : Word) : Coded := (wrapNat x (typeBits t), f)
  match v with
  | .nan _ _ => (0, flagInv)
  | .inf neg => out (if neg then intMin t else intMax t) flagInv
  | .fin neg m e =>
    -- beyond 2^65 the outcome is fixed
    if e + (bitLen m : Nat) > 66 ∧ m ≠ 0 then out (if neg then intMin t else intMax t) flagInv
    else
      let (n, inx) := roundInt mode neg m (-e)
      let x : Int := if neg then -(n : Int) else n
      if x < intMin t then out (intMin t) flagInv
      else if intMax t < x then out (intMax t) flagInv
      else out x (flagIf inx flagInx)

/-- `cvt` (R290, Table 14.10): RMODE as in the word. -/
def convert (dt st rmode : Nat) (sat : Bool) (code : Nat) : Coded :=
  let v := decodeVal st code false
  let (r, f) : Coded :=
    if dt = st ∧ dt ≤ 6 then
      -- the source unchanged, a NaN canonical
      match v with
      | .nan sig _ => (canonicalNan dt, flagIf sig flagInv)
      | _ => (code % 2 ^ typeBits dt, 0#32)
    else match dt with
      | 0 | 1 | 2 => roundVal dt rmode false v
      | 3 | 4 => toFp8 dt sat false v
      | 5 => toLg6 v
      | 6 => toE8m0 v
      | _ =>
        if st ≤ 6 then
          -- 0 RZ, 1 RN, 2 RM, 3 RP (Table 14.9)
          toInt dt (match rmode with | 0 => 1 | 1 => 0 | m => m) v
        else match v with
          | .fin neg m _ => narrowInt dt sat (if neg then -(m : Int) else m)
          | _ => (0, 0#32)
  (if dt = 7 then wrapNat (sextNat r 8) 32 else r, f)

/-- A code as FP32, exactly; NaN canonical, no flag (R171). -/
def widen (t : Nat) (code : Nat) : Nat := (roundVal 0 0 false (decodeVal t code false)).1

/-- Product of two values (R173): INV is carried as a flag beside it. -/
def mulVal (a b : Val) : Val × Word :=
  let sig (v : Val) : Bool := match v with | .nan s _ => s | _ => false
  let inv := flagIf (sig a || sig b) flagInv
  match a, b with
  | .nan _ _, _ => (.nan false false, inv)
  | _, .nan _ _ => (.nan false false, inv)
  | .inf s, .inf t => (.inf (s != t), 0#32)
  | .inf s, .fin t m _ => if m = 0 then (.nan false false, flagInv) else (.inf (s != t), 0#32)
  | .fin s m _, .inf t => if m = 0 then (.nan false false, flagInv) else (.inf (s != t), 0#32)
  | .fin s m e, .fin t n f => (.fin (s != t) (m * n) (e + f), 0#32)

/-- Σ of finite terms in units of 2^lo. -/
def sumAt (lo : Int) : List Val → Int
  | [] => 0
  | .fin neg m e :: r => (if neg then -((m <<< (e - lo).toNat : Nat) : Int) else (m <<< (e - lo).toNat : Nat)) + sumAt lo r
  | _ :: r => sumAt lo r

/-- Lowest exponent of the nonzero finite terms. -/
def lowestExp : List Val → Option Int
  | [] => none
  | .fin _ m e :: r =>
    match lowestExp r with
    | none => if m = 0 then none else some e
    | some l => if m = 0 then some l else some (min e l)
  | _ :: r => lowestExp r

/-- The exact sum of terms with the NaN, infinity and zero-sign rules of R173; RM is mode 2. -/
def sumVal (mode : Nat) (ts : List Val) : Val × Word :=
  let isNan (v : Val) : Bool := match v with | .nan _ _ => true | _ => false
  let isInf (s : Bool) (v : Val) : Bool := match v with | .inf t => s == t | _ => false
  let isZero (s : Bool) (v : Val) : Bool := match v with | .fin t m _ => m == 0 && s == t | _ => false
  let sig := ts.any fun v => match v with | .nan s _ => s | _ => false
  let opposed := ts.any (isInf true) && ts.any (isInf false)
  let inv := flagIf (sig || opposed) flagInv
  if ts.any isNan || opposed then (.nan false false, inv)
  else if ts.any (isInf true) then (.inf true, inv)
  else if ts.any (isInf false) then (.inf false, inv)
  else if ts.all (isZero true) then (.fin true 0 0, inv)
  else if ts.all (isZero false) then (.fin false 0 0, inv)
  else
    let lo := (lowestExp ts).getD 0
    let x := sumAt lo ts
    if x = 0 then (.fin (mode == 2) 0 0, inv) else (.fin (decide (x < 0)) x.natAbs lo, inv)

/-- The value with the opposite sign. -/
def negVal : Val → Val
  | .nan s n => .nan s !n
  | .inf n => .inf !n
  | .fin n m e => .fin (!n) m e

/-- Round of a sum of products and addends: each product is of two values. -/
def fused (t mode : Nat) (ftz : Bool) (products : List (Val × Val)) (addends : List Val) : Coded :=
  let ps := products.map fun (a, b) => mulVal a b
  let (v, f) := sumVal mode (ps.map (·.1) ++ addends)
  let (c, g) := roundVal t mode ftz v
  (c, ps.foldl (fun acc p => acc ||| p.2) (f ||| g))

/-- Arithmetic of Table 14.12 in a format `t` of codes 0-2 on element codes (R293, R310). -/
def floatAdd (t mode : Nat) (ftz : Bool) (a b : Nat) : Coded :=
  fused t mode ftz [] [decodeVal t a ftz, decodeVal t b ftz]
def floatSub (t mode : Nat) (ftz : Bool) (a b : Nat) : Coded :=
  fused t mode ftz [] [decodeVal t a ftz, negVal (decodeVal t b ftz)]
def floatMul (t mode : Nat) (ftz : Bool) (a b : Nat) : Coded :=
  let (v, f) := mulVal (decodeVal t a ftz) (decodeVal t b ftz)
  let (c, g) := roundVal t mode ftz v
  (c, f ||| g)
def floatFma (t mode : Nat) (ftz : Bool) (a b c : Nat) : Coded :=
  fused t mode ftz [(decodeVal t a ftz, decodeVal t b ftz)] [decodeVal t c ftz]

/-- `fscale` (Table 14.12). -/
def floatScale (mode : Nat) (ftz : Bool) (a : Nat) (n : Int) : Coded :=
  match decodeVal 0 a ftz with
  | .fin neg m e => roundVal 0 mode ftz (.fin neg m (e + n))
  | v => roundVal 0 mode ftz v

/-- `fround` (Table 14.12). -/
def floatRound (mode : Nat) (ftz : Bool) (a : Nat) : Coded :=
  match decodeVal 0 a ftz with
  | .fin neg m e =>
    if 0 ≤ e ∨ m = 0 then (roundVal 0 0 false (.fin neg m e)).1 |> (·, 0#32)
    else ((roundVal 0 0 false (.fin neg (roundInt mode neg m (-e)).1 0)).1, 0#32)
  | v => roundVal 0 mode ftz v

/-- A key that orders FP32 codes that are no NaN, −0 below +0 (R294). -/
def orderKey (code : Nat) : Int :=
  if code % 2 ^ 32 < 2 ^ 31 then (code % 2 ^ 32 : Nat) else -((code % 2 ^ 31 : Nat) : Int) - 1

/-- FP32 code with a subnormal flushed to a zero of its sign. -/
def flush32 (ftz : Bool) (code : Nat) : Nat :=
  if ftz ∧ code / 2 ^ 23 % 256 = 0 then code / 2 ^ 31 % 2 * 2 ^ 31 else code % 2 ^ 32

/-- Whether an FP32 code is a NaN, and a signalling one. -/
def isNan32 (code : Nat) : Bool := code % 2 ^ 31 > 0x7F800000
def isSnan32 (code : Nat) : Bool := isNan32 code && code / 2 ^ 22 % 2 == 0

/-- `fmin` and `fmax` (R294). -/
def floatMinMax (wantMax ftz : Bool) (a b : Nat) : Coded :=
  let a := flush32 ftz a
  let b := flush32 ftz b
  let f := flagIf (isSnan32 a || isSnan32 b) flagInv
  if isNan32 a ∧ isNan32 b then (canonicalNan 0, f)
  else if isNan32 a then (b, f)
  else if isNan32 b then (a, f)
  else if wantMax = decide (orderKey a ≥ orderKey b) then (a, f) else (b, f)

/-- `fcmp` (R296, Table 14.13). -/
def floatCmp (cond : Nat) (ftz : Bool) (a b : Nat) : Bool × Word :=
  let a := flush32 ftz a
  let b := flush32 ftz b
  let nan := isNan32 a || isNan32 b
  let key (x : Nat) : Int := if x = 2 ^ 31 then 0 else orderKey x
  let inv := flagIf (isSnan32 a || isSnan32 b || (nan && decide (2 ≤ cond ∧ cond ≤ 5))) flagInv
  let r := match cond with
    | 0 => !nan && key a == key b
    | 1 => nan || key a != key b
    | 2 => !nan && decide (key a < key b)
    | 3 => !nan && decide (key a ≤ key b)
    | 4 => !nan && decide (key a > key b)
    | 5 => !nan && decide (key a ≥ key b)
    | 6 => !nan
    | _ => nan
  (r, inv)

/-- `fclass` (R295). -/
def floatClass (a : Nat) : Nat :=
  let neg := a / 2 ^ 31 % 2 == 1
  let e := a / 2 ^ 23 % 256
  let f := a % 2 ^ 23
  if e = 255 ∧ f ≠ 0 then (if isSnan32 a then 1 else 2)
  else if e = 255 then (if neg then 4 else 512)
  else if e = 0 ∧ f = 0 then (if neg then 32 else 64)
  else if e = 0 then (if neg then 16 else 128)
  else (if neg then 8 else 256)

/-- Product of two LG6 codes by adding logarithms (R179). -/
def lgMul (a b : Nat) : Val :=
  let s := (a / 32 + b / 32) % 2 == 1
  if a % 32 = 0 ∨ b % 32 = 0 then .fin s 0 0
  else
    let t := a % 4 + b % 4
    .fin s (lgStep (t % 4)) (((a / 4 % 8 + b / 4 % 8 + t / 4 : Nat) : Int) - 16)

/-- R181: the codes of ±0. -/
def zeroCode (t code : Nat) : Bool :=
  match t with
  | 0 | 1 | 2 | 3 | 4 => code % 2 ^ (typeBits t - 1) == 0
  | 5 => code % 32 == 0
  | _ => code % 2 ^ typeBits t == 0

end Sys2Proof.Machine
end

