-- ==== Sys2Proof/Machine/Functions.lean ====
section
/-! DEFINITION. Division, roots and the elementary functions of R297 and R303, correctly rounded. A finite nonzero result is
formed as a binary fixed-point number with far more bits than FP32 has, its last bit set when the true value is not exactly
representable, and then rounded once (notes/assumptions/11.md). -/

namespace Sys2Proof.Machine

/-- num / den · 2^e with at least 40 bits of quotient and a sticky bit. -/
def ratio (neg : Bool) (num den : Nat) (e : Int) : Val :=
  let k := 40 + bitLen den
  let n := num <<< k
  .fin neg (2 * (n / den) + (if n % den = 0 then 0 else 1)) (e - k - 1)

/-- `fdiv` on values: IEEE 754 division (R297, R173). -/
def divVal (a b : Val) : Val × Word :=
  match a, b with
  | .nan s _, .nan t _ => (.nan false false, flagIf (s || t) flagInv)
  | .nan s _, _ => (.nan false false, flagIf s flagInv)
  | _, .nan s _ => (.nan false false, flagIf s flagInv)
  | .inf _, .inf _ => (.nan false false, flagInv)
  | .inf s, .fin t _ _ => (.inf (s != t), 0#32)
  | .fin s _ _, .inf t => (.fin (s != t) 0 0, 0#32)
  | .fin s m e, .fin t n f =>
    if m = 0 ∧ n = 0 then (.nan false false, flagInv)
    else if n = 0 then (.inf (s != t), flagDz)
    else if m = 0 then (.fin (s != t) 0 0, 0#32)
    else (ratio (s != t) m n (e - f), 0#32)

/-- Round a value and its flags to FP32. -/
def finish32 (mode : Nat) (ftz : Bool) (p : Val × Word) : Coded :=
  let (c, f) := roundVal 0 mode ftz p.1
  (c, f ||| p.2)

def floatDiv (mode : Nat) (ftz : Bool) (a b : Nat) : Coded :=
  finish32 mode ftz (divVal (decodeFloat 0 a ftz) (decodeFloat 0 b ftz))

/-- `frcp` (Table 14.14): 1 / A. -/
def floatRcp (mode : Nat) (ftz : Bool) (a : Nat) : Coded :=
  finish32 mode ftz (divVal (.fin false 1 0) (decodeFloat 0 a ftz))

/-- floor(√n), from its bit `k` down, above the part `r` already found. -/
def isqrtFrom (n : Nat) : Nat → Nat → Nat
  | 0, r => r
  | k + 1, r =>
    let t := r + 2 ^ k
    isqrtFrom n k (if t * t ≤ n then t else r)

/-- floor(√n). -/
def isqrt (n : Nat) : Nat := isqrtFrom n (bitLen n / 2 + 1) 0

/-- √(m · 2^e) with a sticky bit. -/
def rootVal (m : Nat) (e : Int) : Val :=
  let odd := (e % 2).toNat
  let n := m <<< (64 + odd)
  let r := isqrt n
  .fin false (2 * r + (if r * r = n then 0 else 1)) ((e - odd) / 2 - 32 - 1)

/-- 1/√(m · 2^e) with a sticky bit. -/
def rootRcpVal (m : Nat) (e : Int) : Val :=
  let odd := (e % 2).toNat
  let d := m <<< odd
  let n := 2 ^ (2 * (40 + bitLen d))
  let r := isqrt (n / d)
  .fin false (2 * r + (if r * r * d = n then 0 else 1)) (-((e - odd) / 2) - (40 + bitLen d : Nat) - 1)

/-- `fsqrt` (Table 14.14). -/
def floatSqrt (mode : Nat) (ftz : Bool) (a : Nat) : Coded :=
  match decodeFloat 0 a ftz with
  | .nan s _ => (canonicalNan 0, flagIf s flagInv)
  | .inf neg => if neg then (canonicalNan 0, flagInv) else (0x7F800000, 0#32)
  | .fin neg m e =>
    if m = 0 then (signBit 0 neg, 0#32)
    else if neg then (canonicalNan 0, flagInv)
    else roundVal 0 mode ftz (rootVal m e)

/-- `frsq` (Table 14.14). -/
def floatRsq (ftz : Bool) (a : Nat) : Coded :=
  match decodeFloat 0 a ftz with
  | .nan s _ => (canonicalNan 0, flagIf s flagInv)
  | .inf neg => if neg then (canonicalNan 0, flagInv) else (0, 0#32)
  | .fin neg m e =>
    if m = 0 then (signBit 0 neg + 0x7F800000, flagDz)
    else if neg then (canonicalNan 0, flagInv)
    else roundVal 0 0 ftz (rootRcpVal m e)

/-- Fixed-point numbers below have this many fraction bits. -/
def fixBits : Nat := 512
def fixOne : Nat := 2 ^ 512
def fixMul (x y : Nat) : Nat := (x * y) >>> 512

/-- Σ over k < n of x^(2k+1) / (2k+1): atanh x, `p` = x^(2k+1), q = x². -/
def atanhSum (q : Nat) : Nat → Nat → Nat → Nat
  | 0, _, _ => 0
  | n + 1, p, k => p / (2 * k + 1) + atanhSum q n (fixMul p q) (k + 1)

/-- Σ over k < n of (−1)^k x^(2k+1) / (2k+1): atan x. -/
def atanSum (q : Nat) : Nat → Nat → Nat → Int
  | 0, _, _ => 0
  | n + 1, p, k => (p / (2 * k + 1) : Nat) - atanSum q n (fixMul p q) (k + 1)

/-- ln 2 = 2 atanh(1/3), and π = 16 atan(1/5) − 4 atan(1/239) (Machin). -/
def fixLn2 : Nat := 2 * atanhSum (fixOne / 9) 165 (fixOne / 3) 0
def fixPi : Nat := (16 * atanSum (fixOne / 25) 115 (fixOne / 5) 0 - 4 * atanSum (fixOne / 57121) 40 (fixOne / 239) 0).toNat

/-- Σ of z^k / k!: the exponential of a fixed-point z below 1. -/
def expSum (z : Nat) : Nat → Nat → Nat → Nat
  | 0, _, _ => 0
  | n + 1, t, k => t + expSum z n (fixMul t z / (k + 1)) (k + 1)
def fixExp (z : Nat) : Nat := expSum z 100 fixOne 0

/-- Alternating sums of z^(2k) / (2k)! and z^(2k+1) / (2k+1)!, q = z². -/
def cosSum (q : Nat) : Nat → Nat → Nat → Int
  | 0, _, _ => 0
  | n + 1, t, k => (t : Int) - cosSum q n (fixMul t q / ((k + 1) * (k + 2))) (k + 2)
def fixCos (z : Nat) : Nat := (cosSum (fixMul z z) 52 fixOne 0).toNat
def fixSin (z : Nat) : Nat := (cosSum (fixMul z z) 52 z 1).toNat

/-- A value known to be x · 2^e for a fixed-point x, and never exactly representable in a format. -/
def inexactVal (neg : Bool) (x : Nat) (e : Int) : Val := .fin neg (2 * x + 1) (e - 513)

/-- `fexp2` of a finite nonzero argument. -/
def exp2Val (neg : Bool) (m : Nat) (e : Int) : Val :=
  if e + (bitLen m : Nat) > 9 then (if neg then inexactVal false 1 0 else .fin false 1 400)
  else
    -- x = n + f with f a fixed-point fraction
    let fx : Nat := if 0 ≤ e + 512 then m <<< (e + 512).toNat else m >>> (-(e + 512)).toNat
    let x : Int := if neg then -(fx : Int) else fx
    let n := x / (fixOne : Int)
    let f := (x % (fixOne : Int)).toNat
    if f = 0 then .fin false 1 n else inexactVal false (fixExp (fixMul f fixLn2)) n

/-- `fexp2` (Table 14.14). -/
def floatExp2 (ftz : Bool) (a : Nat) : Coded :=
  match decodeFloat 0 a ftz with
  | .nan s _ => (canonicalNan 0, flagIf s flagInv)
  | .inf neg => (if neg then 0 else 0x7F800000, 0#32)
  | .fin neg m e => if m = 0 then (0x3F800000, 0#32) else roundVal 0 0 ftz (exp2Val neg m e)

/-- log2 of m · 2^e: exact for powers of two, else k + ln(y)/ln 2 with 1 < y < 2. -/
def log2Val (m : Nat) (e : Int) : Val :=
  let k : Int := e + (bitLen m : Nat) - 1
  if m = 2 ^ (bitLen m - 1) then valOfInt k
  else
    let y := m <<< (512 - (bitLen m - 1))
    let r := ((y - fixOne) <<< 512) / (y + fixOne)
    let ln := 2 * atanhSum (fixMul r r) 165 r 0
    let l : Int := k * fixOne + ((ln <<< 512) / fixLn2 : Nat)
    inexactVal (decide (l < 0)) (if l < 0 then l.natAbs - 1 else l.natAbs) 0

/-- `flog2` (Table 14.14). -/
def floatLog2 (ftz : Bool) (a : Nat) : Coded :=
  match decodeFloat 0 a ftz with
  | .nan s _ => (canonicalNan 0, flagIf s flagInv)
  | .inf neg => if neg then (canonicalNan 0, flagInv) else (0x7F800000, 0#32)
  | .fin neg m e =>
    if m = 0 then (0xFF800000, flagDz)
    else if neg then (canonicalNan 0, flagInv)
    else roundVal 0 0 ftz (log2Val m e)

/-- The quadrant of m · 2^e and the rest of its reduction modulo π/2, a fixed-point number. -/
def reduceQuarter (m : Nat) (e : Int) : Nat × Nat :=
  let x := if 0 ≤ e + 512 then m <<< (e + 512).toNat else m >>> (-(e + 512)).toNat
  let h := fixPi / 2
  (x / h % 4, x % h)

/-- A value just below m · 2^e in magnitude: where f(x) = x(1 − δ) with 0 < δ < 2^-80. -/
def justBelow (neg : Bool) (m : Nat) (e : Int) : Val := .fin neg (2 * (m <<< 100) - 1) (e - 101)

/-- `fsin` and `fcos` of a finite nonzero argument. -/
def sinVal (neg : Bool) (m : Nat) (e : Int) : Val :=
  if e + (bitLen m : Nat) < -40 then justBelow neg m e
  else
    let (q, r) := reduceQuarter m e
    inexactVal (neg != decide (2 ≤ q)) (if q % 2 = 0 then fixSin r else fixCos r) 0
def cosVal (m : Nat) (e : Int) : Val :=
  if e + (bitLen m : Nat) < -40 then justBelow false 1 0
  else
    let (q, r) := reduceQuarter m e
    inexactVal (q == 1 || q == 2) (if q % 2 = 0 then fixCos r else fixSin r) 0

/-- `fsin`, `fcos` (Table 14.14). -/
def floatSin (ftz : Bool) (a : Nat) : Coded :=
  match decodeFloat 0 a ftz with
  | .nan s _ => (canonicalNan 0, flagIf s flagInv)
  | .inf _ => (canonicalNan 0, flagInv)
  | .fin neg m e => if m = 0 then (signBit 0 neg, 0#32) else roundVal 0 0 ftz (sinVal neg m e)
def floatCos (ftz : Bool) (a : Nat) : Coded :=
  match decodeFloat 0 a ftz with
  | .nan s _ => (canonicalNan 0, flagIf s flagInv)
  | .inf _ => (canonicalNan 0, flagInv)
  | .fin _ m e => if m = 0 then (0x3F800000, 0#32) else roundVal 0 0 ftz (cosVal m e)

/-- x^(2^k) in fixed point. -/
def fixPow2 (x : Nat) : Nat → Nat
  | 0 => x
  | k + 1 => fixPow2 (fixMul x x) k

/-- tanh of a finite nonzero argument: (1 − u) / (1 + u) with u = e^(−2|x|). -/
def tanhVal (neg : Bool) (m : Nat) (e : Int) : Val :=
  if e + (bitLen m : Nat) < -40 then justBelow neg m e
  else if e + (bitLen m : Nat) > 5 then justBelow neg 1 0
  else
    -- |x| < 32: z = 2|x| / 2^6 < 1
    let z := m <<< (e + 512 - 5).toNat
    let u := fixPow2 ((fixOne <<< 512) / fixExp z) 6
    inexactVal neg (((fixOne - u) <<< 512) / (fixOne + u)) 0

/-- `ftanh` (R303). -/
def floatTanh (ftz : Bool) (a : Nat) : Coded :=
  match decodeFloat 0 a ftz with
  | .nan s _ => (canonicalNan 0, flagIf s flagInv)
  | .inf neg => (signBit 0 neg + 0x3F800000, 0#32)
  | .fin neg m e => if m = 0 then (signBit 0 neg, 0#32) else roundVal 0 0 ftz (tanhVal neg m e)

end Sys2Proof.Machine
end

