-- ==== Sys2Proof/Syntax.lean ====
section
/-! DEFINITION. The instruction words of 13_encoding.md (Tables 13.2, 13.4, 13.5, 13.8) as structures of their fields,
and Instr: one constructor per row of spec/opcode_table.json, the words and the device, host and firmware events. -/

namespace Sys2Proof

/-- CLASS of a clause that is executed (Table 13.1): 0 vector, 1 compositor. -/
inductive Cls where
  | vector
  | compositor
  deriving DecidableEq, Repr

/-- The register form (Table 13.2), without its opcode. -/
structure RegWord where
  d : BitVec 8
  a : BitVec 8
  b : BitVec 8
  c : BitVec 8
  mod : BitVec 7
  gp : BitVec 3
  gn : BitVec 1
  sb : BitVec 3
  lu : BitVec 3
  ru : BitVec 3
  fmt : BitVec 4
  deriving DecidableEq, Repr

/-- The immediate layout (Table 13.4); `imm` is IMMH above IMML (R246). -/
structure ImmWord where
  d : BitVec 8
  a : BitVec 8
  imm : Word
  gp : BitVec 3
  gn : BitVec 1
  sb : BitVec 3
  lua : BitVec 1
  deriving DecidableEq, Repr

/-- The memory layout (Table 13.5). -/
structure MemWord where
  d : BitVec 8
  a : BitVec 8
  seg : BitVec 3
  off : BitVec 14
  mfmt : BitVec 4
  ord : BitVec 2
  gp : BitVec 3
  gn : BitVec 1
  sb : BitVec 3
  lua : BitVec 1
  lud : BitVec 1
  oen : BitVec 1
  osc : BitVec 3
  fmt : BitVec 4
  deriving DecidableEq, Repr

/-- One half of a paired word (Table 13.8). -/
structure HalfOp where
  hop : BitVec 6
  d : BitVec 6
  a : BitVec 6
  b : BitVec 6
  lu : BitVec 2
  hmod : BitVec 6
  deriving DecidableEq, Repr

/-- KIND of a task node (Table 3.2). -/
inductive NodeKind where
  | kernel | comp | copy | gather | coll | signal | nop
  deriving DecidableEq, Repr

/-- A place in a window of the host: BAR2 of the PF (R223), or BAR0 of a function (R224; 0 the PF, k virtual function k). -/
inductive Aperture where
  | bar2 (offset : Nat)
  | bar0 (fn offset : Nat)
  deriving DecidableEq, Repr

/-- Who writes a register of the privileged space (R224, R255, R368, Table 11.5). -/
inductive Writer where
  /-- a privileged context of the device -/
  | device
  /-- field firmware, and the PF through its windows (R224) -/
  | field
  /-- root firmware -/
  | root
  deriving DecidableEq, Repr

/-- What a peer package asks of this one through a view of its own (R118): a load of `n` bytes, a store, an atomic, a reduction. -/
inductive ViewOp where
  | load (n : Nat)
  | store (bytes : List Byte)
  | atom (opc fmt : BitVec 4) (b c : Dbl)
  | red (opc fmt : BitVec 4) (b : Dbl)
  deriving DecidableEq, Repr

/-- What a peer package asks of this one (R230): a load of `n` bytes, or an atomic or reduction of
operation OPC (Table 14.4), type code FMT and operands b, c. Through a slot of its own that holds a remote view (R118): an access
at an offset, with the slot's descriptor when it is the first request for it, and the order to drop the copy of a descriptor. -/
inductive PeerOp where
  | load (n : Nat)
  | atom (opc fmt : BitVec 4) (b c : Dbl)
  | red (opc fmt : BitVec 4) (b : Dbl)
  | view (slot off : Nat) (desc : Option (List Dbl)) (op : ViewOp)
  | dropView (slot : Nat)
  deriving DecidableEq, Repr

/-- What root and field firmware write at bring-up (R234 steps 3 and 5): their choice, an input of the model. -/
structure BringUp where
  ilv : Dbl
  peerSelf : Dbl
  peerDom : Dbl
  /-- (cluster, bank, mode code) -/
  modes : List (Nat × Nat × Nat)
  fast : List Nat
  cap : List Nat
  chtbl : Dbl
  fdtBase : Dbl
  /-- chain number and the doubles BASE and CTL of its control block (Table 3.6) -/
  chains : List (Nat × Dbl × Dbl)
  vquota : List (Nat × Word)
  ptroot : List (Nat × Dbl)
  deriving DecidableEq, Repr

/-- One constructor per row of spec/opcode_table.json, in the table's order. -/
inductive Instr where
  /-- AND (R269). -/
  | and (w : RegWord)
  /-- AND_IMM (R256). -/
  | andImm (w : ImmWord)
  /-- ATOM (R272). -/
  | atom (w : RegWord)
  /-- BALLOT (R274). -/
  | ballot (w : RegWord)
  /-- BARV (R275). -/
  | barv (w : RegWord)
  /-- BINIT (R275). -/
  | binit (w : RegWord)
  /-- BTEST (R275). -/
  | btest (w : RegWord)
  /-- BWAIT (R275). -/
  | bwait (w : RegWord)
  /-- BEXP (R277). -/
  | bexp (w : RegWord)
  /-- BFE (R269). -/
  | bfe (w : RegWord)
  /-- BFI (R269). -/
  | bfi (w : RegWord)
  /-- BREV (R269). -/
  | brev (w : RegWord)
  /-- CLZ (R269). -/
  | clz (w : RegWord)
  /-- CTZ (R269). -/
  | ctz (w : RegWord)
  /-- BMODE (R278). -/
  | bmode (w : RegWord)
  /-- BRA (R279). -/
  | bra (w : ImmWord)
  /-- BRX (R280). -/
  | brx (w : RegWord)
  /-- CALL (R281). -/
  | call (w : ImmWord)
  /-- EXIT (R282). -/
  | exit (w : RegWord)
  /-- CHAPP (R283). -/
  | chapp (w : RegWord)
  /-- CHSQ (R284). -/
  | chsq (w : RegWord)
  /-- CINV (R285). -/
  | cinv (w : RegWord)
  /-- CWB (R285). -/
  | cwb (w : RegWord)
  /-- CPY (R286). -/
  | cpy (w : RegWord)
  /-- CPYT (R288). -/
  | cpyt (w : RegWord)
  /-- CVT (R290). -/
  | cvt (w : RegWord)
  /-- DLD (R291). -/
  | dld (w : RegWord)
  /-- DSV (R291). -/
  | dsv (w : RegWord)
  /-- FADD (R293). -/
  | fadd (w : RegWord)
  /-- FADD_IMM (R256). -/
  | faddImm (w : ImmWord)
  /-- FSUB (R293). -/
  | fsub (w : RegWord)
  /-- FMUL (R293). -/
  | fmul (w : RegWord)
  /-- FMUL_IMM (R256). -/
  | fmulImm (w : ImmWord)
  /-- FFMA (R293). -/
  | ffma (w : RegWord)
  /-- FSCALE (R293). -/
  | fscale (w : RegWord)
  /-- FROUND (R293). -/
  | fround (w : RegWord)
  /-- FMIN (R294). -/
  | fmin (w : RegWord)
  /-- FMIN_IMM (R256). -/
  | fminImm (w : ImmWord)
  /-- FMAX (R294). -/
  | fmax (w : RegWord)
  /-- FMAX_IMM (R256). -/
  | fmaxImm (w : ImmWord)
  /-- FCLASS (R295). -/
  | fclass (w : RegWord)
  /-- FCMP (R296). -/
  | fcmp (w : RegWord)
  /-- FDIV (R297). -/
  | fdiv (w : RegWord)
  /-- FRCP (R297). -/
  | frcp (w : RegWord)
  /-- FRSQ (R297). -/
  | frsq (w : RegWord)
  /-- FSQRT (R297). -/
  | fsqrt (w : RegWord)
  /-- FEXP2 (R297). -/
  | fexp2 (w : RegWord)
  /-- FLOG2 (R297). -/
  | flog2 (w : RegWord)
  /-- FSIN (R297). -/
  | fsin (w : RegWord)
  /-- FCOS (R297). -/
  | fcos (w : RegWord)
  /-- FTANH (R303). -/
  | ftanh (w : RegWord)
  /-- FDOT2 (R298). -/
  | fdot2 (w : RegWord)
  /-- FDOT4 (R298). -/
  | fdot4 (w : RegWord)
  /-- LGDOT4 (R327). -/
  | lgdot4 (w : RegWord)
  /-- FENCE (R300). -/
  | fence (w : RegWord)
  /-- FRZ (R301). -/
  | frz (w : RegWord)
  /-- GANG (R305). -/
  | gang (w : RegWord)
  /-- GBAR (R306). -/
  | gbar (w : RegWord)
  /-- GATH (R308). -/
  | gath (w : RegWord)
  /-- HADD2 (R310). -/
  | hadd2 (w : RegWord)
  /-- HMUL2 (R310). -/
  | hmul2 (w : RegWord)
  /-- HFMA2 (R310). -/
  | hfma2 (w : RegWord)
  /-- HALT (R311). -/
  | halt (w : RegWord)
  /-- IADD (R312). -/
  | iadd (w : RegWord)
  /-- IADD_IMM (R256). -/
  | iaddImm (w : ImmWord)
  /-- ISUB (R312). -/
  | isub (w : RegWord)
  /-- ISUB_IMM (R256). -/
  | isubImm (w : ImmWord)
  /-- IADD3 (R312). -/
  | iadd3 (w : RegWord)
  /-- IMUL (R312). -/
  | imul (w : RegWord)
  /-- IMUL_IMM (R256). -/
  | imulImm (w : ImmWord)
  /-- IMULHI (R312). -/
  | imulhi (w : RegWord)
  /-- IMAD (R312). -/
  | imad (w : RegWord)
  /-- IMADW (R312). -/
  | imadw (w : RegWord)
  /-- IABS (R312). -/
  | iabs (w : RegWord)
  /-- IMIN (R312). -/
  | imin (w : RegWord)
  /-- IMIN_IMM (R256). -/
  | iminImm (w : ImmWord)
  /-- IMAX (R312). -/
  | imax (w : RegWord)
  /-- IMAX_IMM (R256). -/
  | imaxImm (w : ImmWord)
  /-- IDIV (R313). -/
  | idiv (w : RegWord)
  /-- IREM (R313). -/
  | irem (w : RegWord)
  /-- ICMP (R316). -/
  | icmp (w : RegWord)
  /-- ICMP_IMM (R256). -/
  | icmpImm (w : ImmWord)
  /-- IDX (R318). -/
  | idx (w : ImmWord)
  /-- ISECT (R319). -/
  | isect (w : RegWord)
  /-- JOIN (R320). -/
  | join (w : RegWord)
  /-- LD (R322). -/
  | ld (w : MemWord)
  /-- LDM (R325). -/
  | ldm (w : MemWord)
  /-- LEA (R326). -/
  | lea (w : RegWord)
  /-- LOP3 (R328). -/
  | lop3 (w : RegWord)
  /-- MARK (R330). -/
  | mark (w : ImmWord)
  /-- MATCH (R331). -/
  | matchEq (w : RegWord)
  /-- MMA (R332). -/
  | mma (w : RegWord)
  /-- MMAB (R332). -/
  | mmab (w : RegWord)
  /-- MMAS (R332). -/
  | mmas (w : RegWord)
  /-- MZERO (R334). -/
  | mzero (w : RegWord)
  /-- MWAIT (R335). -/
  | mwait (w : RegWord)
  /-- MPROG (R336). -/
  | mprog (w : RegWord)
  /-- MOV (R337). -/
  | mov (w : RegWord)
  /-- MOVI (R338). -/
  | movi (w : ImmWord)
  /-- MOVHI (R338). -/
  | movhi (w : ImmWord)
  /-- NBAR (R340). -/
  | nbar (w : RegWord)
  /-- NOP (R342). -/
  | nop (w : RegWord)
  /-- NOT (R343). -/
  | not (w : RegWord)
  /-- OR (R343). -/
  | or (w : RegWord)
  /-- OR_IMM (R256). -/
  | orImm (w : ImmWord)
  /-- XOR (R343). -/
  | xor (w : RegWord)
  /-- XOR_IMM (R256). -/
  | xorImm (w : ImmWord)
  /-- POPC (R343). -/
  | popc (w : RegWord)
  /-- SHL (R343). -/
  | shl (w : RegWord)
  /-- SHL_IMM (R256). -/
  | shlImm (w : ImmWord)
  /-- SHR (R343). -/
  | shr (w : RegWord)
  /-- SHR_IMM (R256). -/
  | shrImm (w : ImmWord)
  /-- SAR (R343). -/
  | sar (w : RegWord)
  /-- SAR_IMM (R256). -/
  | sarImm (w : ImmWord)
  /-- SHF (R343). -/
  | shf (w : RegWord)
  /-- PRMT (R343). -/
  | prmt (w : RegWord)
  /-- SEL (R343). -/
  | sel (w : RegWord)
  /-- PACK (R345). -/
  | pack (w : RegWord)
  /-- UNPACK (R346). -/
  | unpack (w : RegWord)
  /-- PAND (R347). -/
  | pand (w : RegWord)
  /-- PMOV (R347). -/
  | pmov (w : RegWord)
  /-- PGATTR (R348). -/
  | pgattr (w : RegWord)
  /-- PREF (R349). -/
  | pref (w : MemWord)
  /-- PSHARE (R350). -/
  | pshare (w : RegWord)
  /-- PREL (R351). -/
  | prel (w : RegWord)
  /-- PSEL (R352). -/
  | psel (w : RegWord)
  /-- PSIG (R353). -/
  | psig (w : RegWord)
  /-- RDSR (R354). -/
  | rdsr (w : RegWord)
  /-- RDWP (R356). -/
  | rdwp (w : RegWord)
  /-- RED (R357). -/
  | red (w : RegWord)
  /-- REDUX (R358). -/
  | redux (w : RegWord)
  /-- RET (R359). -/
  | ret (w : RegWord)
  /-- RGROW (R360). -/
  | rgrow (w : RegWord)
  /-- RSHRINK (R361). -/
  | rshrink (w : RegWord)
  /-- SCAN (R362). -/
  | scan (w : RegWord)
  /-- SCAT (R363). -/
  | scat (w : RegWord)
  /-- SEGLD (R364). -/
  | segld (w : RegWord)
  /-- SEGRD (R364). -/
  | segrd (w : RegWord)
  /-- SHFL (R365). -/
  | shfl (w : RegWord)
  /-- SQWAIT (R366). -/
  | sqwait (w : RegWord)
  /-- SRD (R367). -/
  | srd (w : RegWord)
  /-- SRW (R368). -/
  | srw (w : RegWord)
  /-- ST (R370). -/
  | st (w : MemWord)
  /-- STM (R372). -/
  | stm (w : MemWord)
  /-- TAIL (R373). -/
  | tail (w : RegWord)
  /-- TLBI (R374). -/
  | tlbi (w : RegWord)
  /-- TRAP (R376). -/
  | trap (w : ImmWord)
  /-- TRAP_SET (R376). -/
  | trapSet (w : ImmWord)
  /-- TRET (R377). -/
  | tret (w : RegWord)
  /-- TSUB (R378). -/
  | tsub (w : RegWord)
  /-- VSET (R379). -/
  | vset (w : RegWord)
  /-- VCLR (R379). -/
  | vclr (w : RegWord)
  /-- VINFO (R380). -/
  | vinfo (w : RegWord)
  /-- VOTE (R381). -/
  | vote (w : RegWord)
  /-- YIELD (R382). -/
  | yield (w : RegWord)
  /-- PAIRED_WORD (R250). -/
  | pairedWord (l r : HalfOp)
  /-- ISSUE_OPPORTUNITY (R57). -/
  | issueOpportunity (cluster lane : Nat)
  /-- CODE_SCAN (R258). -/
  | codeScan (frame : Nat)
  /-- VARIABLE_LATENCY_COMMIT (R240). -/
  | variableLatencyCommit (ctx serial : Nat)
  /-- LOG_REPLAY (R151). -/
  | logReplay (ctx entry : Nat)
  /-- CAPRES_RESOLVE (R154). -/
  | capresResolve (fault : Nat)
  /-- ZERO_FILL_RESOLVE (R154). -/
  | zeroFillResolve (fault : Nat)
  /-- COWF_RESOLVE (R159). -/
  | cowfResolve (fault : Nat)
  /-- FQ_HEAD_WRITE (R228). -/
  | fqHeadWrite (value : Dbl)
  /-- MERGE_DRAIN (R80). -/
  | mergeDrain (core index : Nat)
  /-- MERGE_DRAIN_TIMEOUT (R124). -/
  | mergeDrainTimeout (core index : Nat)
  /-- VIEW_LINE_REQUEST (R107). -/
  | viewLineRequest (cluster tenant : Nat) (va : Dbl)
  /-- REMOTE_VIEW_REQUEST (R118). -/
  | remoteViewRequest (cluster tenant : Nat) (va : Dbl)
  /-- PEER_WRITE_ACCEPT (R230). -/
  | peerWriteAccept (package pa : Nat) (bytes : List Byte)
  /-- RDMA_WRITE (R233). -/
  | rdmaWrite (pa : Nat) (bytes : List Byte)
  /-- PEER_LINK_TIMEOUT (R231). -/
  | peerLinkTimeout (package : Nat)
  /-- WARP_RETIRE (R42). -/
  | warpRetire (ctx : Nat)
  /-- TRACKER_DRAIN (R42). -/
  | trackerDrain (cluster entry : Nat)
  /-- LEVEL_RELEASE (R41). -/
  | levelRelease (node level box : Nat)
  /-- LIMB_LOAD (R30). -/
  | limbLoad (cluster : Nat)
  /-- JOIN_TIMEOUT (R31). -/
  | joinTimeout (ctx : Nat)
  /-- LEAF_RELOAD (R34). -/
  | leafReload (index : Nat)
  /-- COPY_UNIT_WRITE (R287). -/
  | copyUnitWrite (cluster channel : Nat)
  /-- GATHER_UNIT_WRITE (R200). -/
  | gatherUnitWrite (cluster unit : Nat)
  /-- GATHER_DONE (R200). -/
  | gatherDone (cluster : Nat)
  /-- PSEL_RUN (R204). -/
  | pselRun (cluster : Nat)
  /-- COLL_RUN (R232). -/
  | collRun (hub : Nat)
  /-- MATRIX_OP_START (R192). -/
  | matrixOpStart (cluster : Nat)
  /-- MATRIX_PASS (R192). -/
  | matrixPass (cluster : Nat)
  /-- MATRIX_OP_COMPLETE (R193). -/
  | matrixOpComplete (cluster : Nat)
  /-- CHN_TAIL (R55). -/
  | chnTail (fn chain : Nat) (value : Dbl)
  /-- CHN_STAT_WRITE (R66). -/
  | chnStatWrite (fn chain : Nat) (value : Dbl)
  /-- CHAIN_ACCEPT (R53). -/
  | chainAccept (chain : Nat)
  /-- NODE_DISPATCH (R50). -/
  | nodeDispatch (kind : NodeKind)
  /-- READY_AGING (R49). -/
  | readyAging (node : Nat)
  /-- KERNEL_PASSED_OVER (R50). -/
  | kernelPassedOver (node : Nat)
  /-- NODE_COMPLETE (R46). -/
  | nodeComplete (node : Nat)
  /-- PREEMPT_REQUEST (R58). -/
  | preemptRequest (node group : Nat)
  /-- PREEMPT_TIMEOUT (R59). -/
  | preemptTimeout (node group : Nat)
  /-- UNIT_SAVE (R60). -/
  | unitSave (node group : Nat)
  /-- UNIT_RESUME (R62). -/
  | unitResume (index : Nat)
  /-- GROWTH_DEADLOCK (R62). -/
  | growthDeadlock (cluster : Nat)
  /-- RGROW_GRANT (R61). -/
  | rgrowGrant (cluster lane : Nat)
  /-- BANK_DRAIN_DONE (R70). -/
  | bankDrainDone (cluster bank : Nat)
  /-- BANK_FILL_DONE (R70). -/
  | bankFillDone (cluster bank : Nat)
  /-- CLS_BANKMODE_WRITE (R69). -/
  | clsBankmodeWrite (cluster bank : Nat) (value : Word)
  /-- FPOOL_FAST_ADD (R229). -/
  | fpoolFastAdd (pa : Dbl)
  /-- FPOOL_CAP_ADD (R229). -/
  | fpoolCapAdd (pa : Dbl)
  /-- PWR_LIMIT_WRITE (R235). -/
  | pwrLimitWrite (value : Dbl)
  /-- HOT_SKIP_CLEAR (R158). -/
  | hotSkipClear (hub : Nat) (value : Word)
  /-- REGISTER_WRITE (R368). -/
  | registerWrite (by_ : Writer) (address : Word) (wide : Bool) (value : Dbl)
  /-- BAR2_ACCESS (R223), and the like access through BAR0 (R224). -/
  | bar2Access (place : Aperture) (count : Nat) (data : Option (List Byte))
  /-- INFO (R227). -/
  | mbxInfo (fn : Nat)
  /-- READ (R227). -/
  | mbxRead (fn arg : Nat)
  /-- ACK (R227). -/
  | mbxAck (fn : Nat)
  /-- MBX_COMMAND_DONE (R227). -/
  | mbxCommandDone (fn : Nat)
  /-- EPOCH_END (R158). -/
  | epochEnd (hub : Nat)
  /-- GANG_KILL (R208). -/
  | gangKill (node group : Nat)
  /-- DETECT (R206). -/
  | detect (domain detector : Nat)
  /-- DETECT_WINDOW_END (R206). -/
  | detectWindowEnd (domain : Nat)
  /-- DIE_DROP (R211). -/
  | dieDrop (die : Nat)
  /-- HUB_DROP (R213). -/
  | hubDrop (hub : Nat)
  /-- FATAL_EVENT (R216). -/
  | fatalEvent (cause recorder : Nat)
  /-- FREEZE (R216). -/
  | freeze (recorder : Nat)
  /-- PROOF_CUT (R218). -/
  | proofCut
  /-- FULL_FREEZE (R221). -/
  | fullFreeze
  /-- THERMAL_GATE (R235). -/
  | thermalGate (watts celsius : Nat)
  /-- COLD_RESET (R234). -/
  | coldReset (b : BringUp)
  /-- WARM_RESET (R234). -/
  | warmReset (b : BringUp)
  /-- TEMPERATURE_BACK_BELOW_100 (R235). -/
  | temperatureBackBelow100 (celsius : Nat)
  /-- PEER_READ_REQUEST (R230). -/
  | peerReadRequest (package pa : Nat) (op : PeerOp)
  /-- ATTESTATION (R222). -/
  | attestation (request : Nat)
  deriving DecidableEq, Repr

end Sys2Proof
end

