-- ==== Sys2Proof/WellFormed.lean ====
section
/-! DEFINITION. The acceptance rules of words and headers (R237-R259 and each entry's own fields): for every word its
opcode, latency, classes, operand kinds, and the first check of R259 that it breaks; for every event its operand ranges. -/

namespace Sys2Proof

/-- What an operand position of a word holds (R243, Table 13.3). `n` counts 32-bit registers; in CLASS 1 every register
position is one x code. -/
inductive Opd where
  /-- not used: zero (R242) -/
  | none
  /-- v or s source of n registers, a multiple of n -/
  | src (n : Nat)
  /-- v source only -/
  | srcV
  /-- s source only -/
  | srcS
  /-- predicate source; code 7 is true -/
  | pred
  /-- descriptor slot dk, read -/
  | slot
  /-- destination under the rule of R243 for s registers -/
  | dst (n : Nat)
  /-- destination whose entry names an s destination -/
  | dstAny (n : Nat)
  /-- v destination only -/
  | dstV (n : Nat)
  /-- predicate destination; code 7 discards -/
  | predDst
  /-- descriptor slot written -/
  | slotDst
  /-- a number that is no operand code; the entry's own check judges it -/
  | raw
  deriving DecidableEq, Repr

/-- The rules of one word: opcode (Table 13.10), CLASSes (R254), latency (R240), clause end (R239), privilege (R255), guard,
operand kinds, and whether FMT and MOD (or IMM) hold values its entry accepts in CLASS 0 and in CLASS 1. -/
structure Spec where
  op : BitVec 8
  c0 : Bool
  c1 : Bool
  var : Bool := false
  ends : Bool := false
  priv : Bool := false
  guard : Bool := true
  d : Opd := .none
  a : Opd := .none
  b : Opd := .none
  c : Opd := .none
  f0 : Bool := true
  f1 : Bool := true
  m : Bool := true
  deriving DecidableEq, Repr

/-- A word of CLASS 0 clauses only. -/
def Spec.vec (op : BitVec 8) : Spec := { op := op, c0 := true, c1 := false }
/-- A word of both classes. -/
def Spec.both (op : BitVec 8) : Spec := { op := op, c0 := true, c1 := true }
/-- A word of CLASS 1 clauses only. -/
def Spec.comp (op : BitVec 8) : Spec := { op := op, c0 := false, c1 := true }

/-- FMT is one of these codes (Table 13.7). -/
def RegWord.fmtIn (w : RegWord) (l : List Nat) : Bool := l.contains w.fmt.toNat
/-- MOD has no bit outside the mask. -/
def RegWord.modIn (w : RegWord) (mask : BitVec 7) : Bool := w.mod &&& ~~~mask == 0#7
/-- Registers of an operand whose type FMT names: 2 for INT64. -/
def RegWord.wid (w : RegWord) : Nat := if w.fmt == 0xA#4 then 2 else 1
/-- The field of `n` bits of MOD whose lowest bit is word bit `lo`. -/
def RegWord.modAt (w : RegWord) (lo n : Nat) : Nat := (w.mod.toNat >>> (lo - 17)) % 2 ^ n

/-- One result of one or two registers, integer types, INT64 in CLASS 1 (R312, R314). -/
def Spec.int (op : BitVec 8) (w : RegWord) (fmts : List Nat) (mask : BitVec 7) : Spec :=
  { Spec.both op with d := .dst w.wid, a := .src w.wid, b := .src w.wid, f0 := w.fmtIn fmts, f1 := w.fmtIn [10], m := w.modIn mask }

/-- An FP32 word with the MOD map of Table 14.11: `.ftz`, and RMODE where `rm`. -/
def Spec.fp (op : BitVec 8) (w : RegWord) (fmts : List Nat) (rm : Bool) : Spec :=
  { Spec.vec op with d := .dst 1, a := .src 1, f0 := w.fmtIn fmts, m := w.modIn (if rm then 0b0000111#7 else 0b0000100#7) }

/-- A word of CLASS 0 that has FMT 0 and the MOD bits of `mask`. -/
def Spec.plain (op : BitVec 8) (w : RegWord) (mask : BitVec 7) : Spec :=
  { Spec.vec op with f0 := w.fmtIn [0], m := w.modIn mask }

/-- Types that an atomic operation accepts (Table 14.4). -/
def atomTypes (opc : Nat) : List Nat :=
  if opc ≤ 2 then [0, 8, 9, 10] else if opc ≤ 5 then [8, 9, 10] else if opc ≤ 7 then [0, 8, 9, 10] else if opc ≤ 9 then [9] else []

/-- The type pairs (MFMT, FMT) of ld and st (Tables 15.7, 16.15). -/
def memPairs : List (Nat × Nat) :=
  [(0, 0), (8, 8), (9, 9), (10, 10), (1, 1), (2, 2), (1, 0), (2, 0), (3, 0), (4, 0)] ++
  [(5, 0), (6, 0), (3, 3), (4, 4), (5, 5), (6, 6), (7, 8), (11, 9), (12, 9), (13, 9)]

/-- Registers that D of a `ld` or `st` names (R248). -/
def MemWord.wid (w : MemWord) : Nat := if w.mfmt == 0xD#4 then 4 else if w.fmt == 0xA#4 then 2 else 1

/-- The type rules of ld and st in CLASS 0 and CLASS 1 (R323, R371), and SEG (R247). -/
def MemWord.types0 (w : MemWord) : Bool := memPairs.contains (w.mfmt.toNat, w.fmt.toNat) && decide (w.seg.toNat ≤ 5)
def MemWord.types1 (w : MemWord) : Bool :=
  w.fmt == 0xA#4 && [7, 8, 9, 10, 11, 12].contains w.mfmt.toNat && [0, 1, 4].contains w.seg.toNat
/-- Without OEN the order fields are zero; with it a load takes acq or sc, a store rel or sc (R247; Table 7.3). -/
def MemWord.orderOk (w : MemWord) (load : Bool) : Bool :=
  if w.oen == 0#1 then w.ord == 0#2 && w.osc == 0#3 else w.ord == 3#2 || w.ord == (if load then 0#2 else 1#2)
/-- No order, SEG 0 (R325, R349, R372). -/
def MemWord.bare (w : MemWord) (t : BitVec 4) : Bool :=
  w.seg == 0#3 && w.oen == 0#1 && w.ord == 0#2 && w.osc == 0#3 && w.mfmt == t && w.fmt == t

/-- Special registers that CLASS 1 reads, and those of 64 bits (Table 16.8). -/
def rdsrComp : List Nat := [0x04, 0x10, 0x12, 0x13, 0x14, 0x15, 0x16, 0x17, 0x18, 0x19, 0x1B, 0x1C]
def rdsrWide : List Nat := [0x10, 0x14, 0x16, 0x17, 0x1A, 0x1B, 0x1C]

/-- The integer conversion types of `cvt`: codes 0x7-0xA. -/
def cvtOk (w : RegWord) : Bool :=
  let s := w.modAt 20 4
  let t := w.fmt.toNat
  decide (s ≤ 10) && decide (t ≤ 10)
    && (w.modAt 17 1 == 0 || t == 3 || t == 4 || (decide (7 ≤ t) && decide (7 ≤ s)))
    && (w.modAt 18 2 == 0 || decide (t ≤ 2) || (decide (7 ≤ t) && decide (s ≤ 6)))

/-- The constraints of `pack` (Table 16.4). -/
def packOk (w : RegWord) : Bool :=
  let t := w.fmt.toNat
  w.modIn 0b0011111#7 && (w.modAt 21 1 == 0 || [3, 4, 7].contains t) && (w.modAt 20 1 == 0 || !([1, 2].contains t))
    && (w.modAt 19 1 == 0 || t != 7) && (w.modAt 17 2 == 0 || [1, 2].contains t)

/-- Types of `scan` and `redux` (Table 16.10). -/
def reduxTypes (opc : Nat) : List Nat :=
  if opc ≤ 2 then [0, 8, 9, 10] else if opc ≤ 5 then [8, 9, 10] else [8, 9]

/-- `scN` only with SC (Table 14.11). -/
def dotMod (w : RegWord) : Bool := w.modIn 0b1110111#7 && (w.modAt 21 1 == 1 || w.modAt 22 2 == 0)

/-- C of `fdot4` and `lgdot4`: the FP32 addend, or the scale register, one v register (R176, R298). -/
def dotC (w : RegWord) : Opd := if w.modAt 21 1 == 1 then .srcV else .src 1

/-- The immediate forms 0xC0-0xCB of both classes (Table 13.11). -/
def Spec.immBoth (op : BitVec 8) : Spec := { Spec.both op with d := .dst 1, a := .src 1 }

/-- What the entries of chapters 14-16 fix of each word; none for paired words and events. -/
def Instr.spec : Instr → Option Spec
  | .and w => some (Spec.int 0x10#8 w [9, 10] 0#7)
  | .andImm _ => some (Spec.immBoth 0xC5#8)
  | .atom w => some { Spec.vec 0x62#8 with
      var := true, d := .dst w.wid, a := .src (if w.modAt 21 2 == 0 then 2 else 1), b := .src w.wid,
      c := if w.modAt 17 4 == 7 then .src w.wid else .none, f0 := (atomTypes (w.modAt 17 4)).contains w.fmt.toNat,
      m := w.modIn 0b0111111#7 && decide (w.modAt 21 2 ≤ 2) && decide (w.modAt 17 4 ≤ 9) }
  | .ballot w => some { Spec.vec 0x51#8 with d := .dst 1, a := .pred, f0 := w.fmtIn [9], m := w.modIn 0#7 }
  | .barv w => some { Spec.both 0x75#8 with a := .src 1, b := .src 1, f0 := w.fmtIn [0] && w.modIn 1#7, f1 := w.fmtIn [0] && w.modIn 0#7 }
  | .binit w => some { Spec.both 0x74#8 with a := .src 1, b := .src 1, f0 := w.fmtIn [0] && w.modIn 1#7, f1 := w.fmtIn [0] && w.modIn 0#7 }
  | .btest w => some { Spec.both 0x77#8 with
      d := .dst 1, a := .src 1, b := .src 1, f0 := w.fmtIn [0] && w.modIn 1#7, f1 := w.fmtIn [0] && w.modIn 0#7 }
  | .bwait w => some { Spec.both 0x76#8 with
      ends := true, d := .dst 1, a := .src 1, b := .src 1, f0 := w.fmtIn [0] && w.modIn 1#7, f1 := w.fmtIn [0] && w.modIn 0#7 }
  | .bexp w => some (Spec.fp 0x57#8 w [3, 4, 5] false)
  | .bfe w => some { Spec.vec 0x19#8 with d := .dst 1, a := .src 1, b := .src 1, f0 := w.fmtIn [8, 9], m := w.modIn 0#7 }
  | .bfi w => some { Spec.vec 0x1A#8 with d := .dst 1, a := .src 1, b := .src 1, c := .src 1, f0 := w.fmtIn [9], m := w.modIn 0#7 }
  | .brev w => some { Spec.vec 0x1B#8 with d := .dst w.wid, a := .src w.wid, f0 := w.fmtIn [9, 10], m := w.modIn 0#7 }
  | .clz w => some { Spec.both 0x1C#8 with d := .dst 1, a := .src w.wid, f0 := w.fmtIn [9, 10], f1 := w.fmtIn [10], m := w.modIn 0#7 }
  | .ctz w => some { Spec.both 0x1D#8 with d := .dst 1, a := .src w.wid, f0 := w.fmtIn [9, 10], f1 := w.fmtIn [10], m := w.modIn 0#7 }
  | .bmode w => some { Spec.vec 0xB0#8 with priv := true, d := .dst 1, a := .src 1, b := .src 1, f0 := w.fmtIn [9], m := w.modIn 0#7 }
  | .bra _ => some { Spec.both 0x80#8 with ends := true }
  | .brx w => some { Spec.plain 0x81#8 w 0#7 with ends := true, a := .src 2 }
  | .call _ => some { Spec.both 0x82#8 with ends := true }
  | .exit w => some { Spec.plain 0x85#8 w 0#7 with ends := true }
  | .chapp w => some { Spec.vec 0x90#8 with var := true, d := .dst 4, a := .src 1, f0 := w.fmtIn [9], m := w.modIn 0#7 }
  | .chsq w => some { Spec.vec 0x92#8 with var := true, d := .dst 2, a := .src 1, f0 := w.fmtIn [10], m := w.modIn 0#7 }
  | .cinv w => some { Spec.plain 0x69#8 w 0#7 with a := .src 2 }
  | .cwb w => some { Spec.plain 0x6A#8 w 0#7 with a := .src 2 }
  | .cpy w => some { Spec.plain 0x70#8 w 0b0011111#7 with
      d := .src (if w.modAt 17 1 == 0 then 2 else 1), a := .src (if w.modAt 18 1 == 0 then 2 else 1), b := .src 1, c := .src 1 }
  | .cpyt w => some { Spec.plain 0x71#8 w 0b0001100#7 with a := .src 2 }
  | .cvt w => some { Spec.vec 0x28#8 with d := .dst w.wid, a := .src (if w.modAt 20 4 == 10 then 2 else 1), m := cvtOk w }
  | .dld w => some { Spec.comp 0xA0#8 with var := true, d := .slotDst, a := .src 1, f1 := w.fmtIn [0], m := w.modIn 1#7 }
  | .dsv w => some { Spec.comp 0xA1#8 with var := true, a := .src 1, b := .slot, f1 := w.fmtIn [0], m := w.modIn 1#7 }
  | .fadd w => some { Spec.fp 0x30#8 w [0] true with b := .src 1 }
  | .faddImm _ => some { Spec.vec 0xCC#8 with d := .dst 1, a := .src 1 }
  | .fsub w => some { Spec.fp 0x31#8 w [0] true with b := .src 1 }
  | .fmul w => some { Spec.fp 0x32#8 w [0] true with b := .src 1 }
  | .fmulImm _ => some { Spec.vec 0xCD#8 with d := .dst 1, a := .src 1 }
  | .ffma w => some { Spec.fp 0x33#8 w [0] true with b := .src 1, c := .src 1 }
  | .fscale w => some { Spec.fp 0x39#8 w [0] true with b := .src 1 }
  | .fround w => some (Spec.fp 0x38#8 w [0] true)
  | .fmin w => some { Spec.fp 0x34#8 w [0] false with b := .src 1 }
  | .fminImm _ => some { Spec.vec 0xCE#8 with d := .dst 1, a := .src 1 }
  | .fmax w => some { Spec.fp 0x35#8 w [0] false with b := .src 1 }
  | .fmaxImm _ => some { Spec.vec 0xCF#8 with d := .dst 1, a := .src 1 }
  | .fclass w => some { Spec.plain 0x37#8 w 0#7 with d := .dst 1, a := .src 1 }
  | .fcmp w => some { Spec.plain 0x36#8 w 0b0001111#7 with d := .predDst, a := .src 1, b := .src 1 }
  | .fdiv w => some { Spec.fp 0x40#8 w [0] true with var := true, b := .src 1 }
  | .frcp w => some { Spec.fp 0x41#8 w [0] true with var := true }
  | .frsq w => some { Spec.fp 0x42#8 w [0] false with var := true }
  | .fsqrt w => some { Spec.fp 0x43#8 w [0] true with var := true }
  | .fexp2 w => some { Spec.fp 0x44#8 w [0] false with var := true }
  | .flog2 w => some { Spec.fp 0x45#8 w [0] false with var := true }
  | .fsin w => some { Spec.fp 0x46#8 w [0] false with var := true }
  | .fcos w => some { Spec.fp 0x47#8 w [0] false with var := true }
  | .ftanh w => some { Spec.fp 0x48#8 w [0] false with var := true }
  | .fdot2 w => some { Spec.fp 0x3A#8 w [1, 2] true with b := .src 1, c := .src 1 }
  | .fdot4 w => some { Spec.vec 0x3B#8 with d := .dst 1, a := .src 1, b := .src 1, c := dotC w, f0 := w.fmtIn [3, 4], m := dotMod w }
  | .lgdot4 w => some { Spec.vec 0x3C#8 with d := .dst 1, a := .src 1, b := .src 1, c := dotC w, f0 := w.fmtIn [5], m := dotMod w }
  | .fence w => some { Spec.both 0x68#8 with guard := false, f0 := w.fmtIn [0], f1 := w.fmtIn [0], m := w.modIn 0b0011111#7 }
  | .frz w => some { Spec.plain 0xB5#8 w 0#7 with priv := true }
  | .gang w => some { Spec.vec 0x8C#8 with guard := false, d := .dstAny 1, f0 := w.fmtIn [9], m := w.modIn 0#7 }
  | .gbar w => some { Spec.plain 0x78#8 w 1#7 with ends := true, guard := false, a := if w.modAt 17 1 == 1 then .src 1 else .none }
  | .gath w => some { Spec.plain 0x72#8 w 0#7 with a := .src 2 }
  | .hadd2 w => some { Spec.fp 0x3D#8 w [1, 2] true with b := .src 1 }
  | .hmul2 w => some { Spec.fp 0x3E#8 w [1, 2] true with b := .src 1 }
  | .hfma2 w => some { Spec.fp 0x3F#8 w [1, 2] true with b := .src 1, c := .src 1 }
  | .halt w => some { Spec.both 0xA8#8 with priv := true, ends := true, guard := false, f0 := w.fmtIn [0], f1 := w.fmtIn [0], m := w.modIn 0#7 }
  | .iadd w => some (Spec.int 0x04#8 w [8, 9, 10] 1#7)
  | .iaddImm _ => some (Spec.immBoth 0xC0#8)
  | .isub w => some (Spec.int 0x05#8 w [8, 9, 10] 1#7)
  | .isubImm _ => some (Spec.immBoth 0xC1#8)
  | .iadd3 w => some { Spec.int 0x06#8 w [8, 9, 10] 1#7 with c := .src w.wid }
  | .imul w => some (Spec.int 0x07#8 w [8, 9, 10] 1#7)
  | .imulImm _ => some (Spec.immBoth 0xC2#8)
  | .imulhi w => some (Spec.int 0x08#8 w [8, 9, 10] 0#7)
  | .imad w => some { Spec.int 0x09#8 w [8, 9, 10] 1#7 with c := .src w.wid }
  | .imadw w => some { Spec.vec 0x0A#8 with d := .dst 2, a := .src 1, b := .src 1, c := .src 2, f0 := w.fmtIn [8, 9], m := w.modIn 0#7 }
  | .iabs w => some { Spec.vec 0x0B#8 with d := .dst w.wid, a := .src w.wid, f0 := w.fmtIn [8, 10], m := w.modIn 1#7 }
  | .imin w => some (Spec.int 0x0C#8 w [8, 9, 10] 0#7)
  | .iminImm _ => some (Spec.immBoth 0xC3#8)
  | .imax w => some (Spec.int 0x0D#8 w [8, 9, 10] 0#7)
  | .imaxImm _ => some (Spec.immBoth 0xC4#8)
  | .idiv w => some { Spec.int 0x0E#8 w [8, 9, 10] 1#7 with c1 := false, var := true }
  | .irem w => some { Spec.int 0x0F#8 w [8, 9, 10] 0#7 with c1 := false, var := true }
  | .icmp w => some { Spec.both 0x20#8 with
      d := .predDst, a := .src w.wid, b := .src w.wid, f0 := w.fmtIn [8, 9, 10], f1 := w.fmtIn [9, 10],
      m := w.modIn 0b0000111#7 && decide (w.modAt 17 3 ≤ 5) }
  | .icmpImm w => some { Spec.both 0xCB#8 with d := .raw, a := .src 1, m := w.d.getLsbD 7 == false && decide (w.d.toNat / 8 % 8 ≤ 5) }
  | .idx w => some { Spec.vec 0x23#8 with d := .dstV 1, m := decide (w.imm.toNat ≤ 3) }
  | .isect w => some { Spec.vec 0x56#8 with d := .dstV 1, a := .srcV, b := .srcV, c := .srcS, f0 := w.fmtIn [9], m := w.modIn 0#7 }
  | .join w => some { Spec.plain 0x84#8 w 0#7 with guard := false }
  | .ld w => some { Spec.both 0x60#8 with
      var := true, d := .dst w.wid, a := .src (if w.seg == 0#3 then 2 else 1), f0 := w.types0, f1 := w.types1,
      m := w.orderOk true && w.lud == 0#1 }
  | .ldm w => some { Spec.vec 0x66#8 with var := true, d := .dst 1, a := .src 2, m := w.bare 9#4 && w.lud == 0#1 }
  | .lea w => some { Spec.both 0x22#8 with
      d := .dst w.wid, a := .src w.wid, b := .src 1, f0 := w.fmtIn [9, 10], f1 := w.fmtIn [10],
      m := w.fmt == 0xA#4 || w.modIn 0b0011111#7 }
  | .lop3 w => some { Spec.vec 0x14#8 with d := .dst 1, a := .src 1, b := .src 1, c := .src 1, m := w.modIn 0b0001111#7 }
  | .mark w => some { Spec.both 0x8A#8 with a := if w.imm.getLsbD 8 then .src 2 else .none, m := w.imm &&& ~~~0x13F#32 == 0#32 }
  | .matchEq w => some { Spec.vec 0x55#8 with d := .dst 1, a := .src w.wid, f0 := w.fmtIn [9, 10], m := w.modIn 0#7 }
  | .mma w => some { Spec.comp 0xA2#8 with d := .slot, a := .slot, b := .slot, f1 := w.fmtIn [0], m := w.modIn 0#7 }
  | .mmab w => some { Spec.comp 0xA3#8 with d := .slot, a := .slot, b := .slot, f1 := w.fmtIn [0], m := w.modIn 0#7 }
  | .mmas w => some { Spec.comp 0xA4#8 with d := .slot, a := .slot, b := .slot, f1 := w.fmtIn [0], m := w.modIn 0#7 }
  | .mzero w => some { Spec.comp 0xA7#8 with d := .slot, f1 := w.fmtIn [0], m := w.modIn 0#7 }
  | .mwait w => some { Spec.comp 0xA5#8 with ends := true, f1 := w.fmtIn [0], m := w.modIn 0b0000011#7 }
  | .mprog w => some { Spec.comp 0xA6#8 with var := true, d := .dst 1, f1 := w.fmtIn [0], m := w.modIn 0#7 }
  | .mov w => some { Spec.both 0x01#8 with
      d := if w.modAt 22 2 == 2 then .dstV 1 else .dst w.wid, a := if w.modAt 22 2 == 1 then .srcV else .src w.wid,
      c := if w.modAt 22 2 == 0 then .none else .srcS, f0 := if w.modAt 22 2 == 0 then w.fmtIn [9, 10] else w.fmtIn [9],
      f1 := w.fmtIn [10] && w.modIn 0#7, m := w.modIn 0b1100000#7 && w.modAt 22 2 != 3 }
  | .movi _ => some { Spec.both 0x02#8 with d := .dst 1 }
  | .movhi _ => some { Spec.both 0x03#8 with d := .dst 2, a := .src 1 }
  | .nbar w => some { Spec.plain 0x79#8 w 1#7 with ends := true, a := .src 1, b := .src 1 }
  | .nop w => some { Spec.both 0x00#8 with guard := false, f0 := w.fmtIn [0], f1 := w.fmtIn [0], m := w.modIn 0#7 }
  | .not w => some { Spec.both 0x13#8 with d := .dst w.wid, a := .src w.wid, f0 := w.fmtIn [9, 10], f1 := w.fmtIn [10], m := w.modIn 0#7 }
  | .or w => some (Spec.int 0x11#8 w [9, 10] 0#7)
  | .orImm _ => some (Spec.immBoth 0xC6#8)
  | .xor w => some (Spec.int 0x12#8 w [9, 10] 0#7)
  | .xorImm _ => some (Spec.immBoth 0xC7#8)
  | .popc w => some { Spec.both 0x1E#8 with d := .dst w.wid, a := .src w.wid, f0 := w.fmtIn [9, 10], f1 := w.fmtIn [10], m := w.modIn 0#7 }
  | .shl w => some { Spec.int 0x15#8 w [9, 10] 0#7 with b := .src 1 }
  | .shlImm w => some { Spec.immBoth 0xC8#8 with m := decide (w.imm.toNat < 32) }
  | .shr w => some { Spec.int 0x16#8 w [9, 10] 0#7 with b := .src 1 }
  | .shrImm w => some { Spec.immBoth 0xC9#8 with m := decide (w.imm.toNat < 32) }
  | .sar w => some { Spec.int 0x17#8 w [9, 10] 0#7 with b := .src 1 }
  | .sarImm w => some { Spec.immBoth 0xCA#8 with m := decide (w.imm.toNat < 32) }
  | .shf w => some { Spec.vec 0x18#8 with d := .dst 1, a := .src 1, b := .src 1, c := .src 1, f0 := w.fmtIn [9], m := w.modIn 1#7 }
  | .prmt w => some { Spec.vec 0x1F#8 with d := .dst 1, a := .src 1, b := .src 1, c := .src 1, f0 := w.fmtIn [9], m := w.modIn 0#7 }
  | .sel w => some { Spec.int 0x21#8 w [9, 10] 0#7 with c := .pred }
  | .pack w => some { Spec.vec 0x24#8 with d := .dst 1, a := .src 1, b := .src 1, f0 := w.fmtIn [1, 2, 3, 4, 5, 7], m := packOk w }
  | .unpack w => some { Spec.vec 0x25#8 with
      d := .dst 1, a := .src 1, f0 := w.fmtIn [1, 2, 3, 4, 5, 6, 7], m := w.modIn 3#7 && (!(w.fmtIn [1, 2]) || decide (w.modAt 17 2 ≤ 1)) }
  | .pand w => some { Spec.plain 0x26#8 w 0b0001111#7 with
      d := .predDst, a := .pred, b := .pred, f0 := w.fmtIn [0], m := w.modIn 0b0001111#7 && decide (w.modAt 17 2 ≤ 2) }
  | .pmov w => some { Spec.vec 0x27#8 with
      d := if w.fmt == 0#4 then .dstV 1 else .none, a := if w.fmt == 0#4 then .none else .src 1, f0 := w.fmtIn [0, 1] }
  | .pgattr w => some { Spec.plain 0xB2#8 w 0b0001111#7 with priv := true, d := .dst 1, a := .src 2, b := .src 2, c := .src 1 }
  | .pref w => some { Spec.vec 0x65#8 with a := .src 2, m := w.bare 0#4 && w.lud == 0#1 }
  | .pshare w => some { Spec.plain 0x97#8 w 0#7 with d := .dst 1, a := .src 2, b := .src 2 }
  | .prel w => some { Spec.plain 0x98#8 w 0#7 with d := .dst 1, a := .src 2 }
  | .psel w => some { Spec.plain 0x73#8 w 0#7 with a := .src 2 }
  | .psig w => some { Spec.plain 0x8B#8 w 0#7 with ends := true, guard := false, a := .src 1, b := .src 1 }
  | .rdsr w => some { Spec.both 0x29#8 with
      d := if w.a == 0#8 || w.a == 0x1A#8 then .dstV (if rdsrWide.contains w.a.toNat then 2 else 1)
        else .dstAny (if rdsrWide.contains w.a.toNat then 2 else 1),
      a := .raw, f0 := w.fmtIn [if rdsrWide.contains w.a.toNat then 10 else 9],
      f1 := w.fmtIn [10] && rdsrComp.contains w.a.toNat,
      m := decide (w.a.toNat ≤ 0x1C) && w.modIn (if w.a == 0x11#8 then 1#7 else 0#7) }
  | .rdwp w => some { Spec.vec 0x2B#8 with var := true, d := .dst 2, f0 := w.fmtIn [10], m := w.modIn 3#7 }
  | .red w => some { Spec.vec 0x63#8 with
      var := true, a := .src (if w.modAt 21 2 == 0 then 2 else 1), b := .src w.wid,
      f0 := (atomTypes (w.modAt 17 4)).contains w.fmt.toNat,
      m := w.modIn 0b0111111#7 && decide (w.modAt 21 2 ≤ 2) && decide (w.modAt 17 4 ≤ 5) }
  | .redux w => some { Spec.vec 0x54#8 with
      d := .dstAny (if 6 ≤ w.modAt 17 4 then 2 else w.wid), a := .src w.wid, c := .pred,
      f0 := (reduxTypes (w.modAt 17 4)).contains w.fmt.toNat || (w.modAt 17 4 ≤ 2 && w.fmt == 0#4),
      m := w.modIn 0b0001111#7 && decide (w.modAt 17 4 ≤ 7) }
  | .ret w => some { Spec.both 0x83#8 with ends := true, f0 := w.fmtIn [0], f1 := w.fmtIn [0], m := w.modIn 0#7 }
  | .rgrow w => some { Spec.plain 0x99#8 w 0#7 with ends := true, guard := false, d := .dst 1, a := .src 1 }
  | .rshrink w => some { Spec.plain 0x9A#8 w 0#7 with guard := false, d := .dst 1, a := .src 1 }
  | .scan w => some { Spec.vec 0x53#8 with
      d := .dstV w.wid, a := .src w.wid, c := if w.modAt 21 1 == 1 then .pred else .none,
      f0 := (reduxTypes (w.modAt 17 3)).contains w.fmt.toNat, m := w.modIn 0b0011111#7 && decide (w.modAt 17 3 ≤ 5) }
  | .scat w => some { Spec.vec 0x64#8 with
      var := true, a := .src 2, b := .src w.wid, f0 := (atomTypes (w.modAt 17 4)).contains w.fmt.toNat,
      m := w.modIn 0b0001111#7 && decide (w.modAt 17 4 ≤ 5) }
  | .segld w => some { Spec.vec 0xB1#8 with priv := true, a := .src 4, f0 := w.fmtIn [9], m := w.modIn 7#7 && decide (w.modAt 17 3 ≤ 5) }
  | .segrd w => some { Spec.vec 0x2A#8 with d := .dstAny 4, f0 := w.fmtIn [9], m := w.modIn 7#7 && decide (w.modAt 17 3 ≤ 5) }
  | .shfl w => some { Spec.vec 0x52#8 with d := .dst 1, a := .src 1, b := .src 1, f0 := w.fmtIn [9], m := w.modIn 3#7 }
  | .sqwait w => some { Spec.vec 0x93#8 with ends := true, d := .dst 2, a := .src 1, b := .src 2, f0 := w.fmtIn [10], m := w.modIn 0#7 }
  | .srd w => some { Spec.vec 0x9B#8 with var := true, d := .dst w.wid, a := .src 1, f0 := w.fmtIn [9, 10], m := w.modIn 0#7 }
  | .srw w => some { Spec.vec 0xB4#8 with priv := true, a := .src 1, b := .src w.wid, f0 := w.fmtIn [9, 10], m := w.modIn 0#7 }
  | .st w => some { Spec.both 0x61#8 with
      var := true, d := .src w.wid, a := .src (if w.seg == 0#3 then 2 else 1), f0 := w.types0, f1 := w.types1, m := w.orderOk false }
  | .stm w => some { Spec.vec 0x67#8 with var := true, d := .src 1, a := .src 2, m := w.bare 9#4 }
  | .tail w => some { Spec.plain 0x86#8 w 0#7 with ends := true }
  | .tlbi w => some { Spec.plain 0xB3#8 w 0b0111111#7 with
      priv := true, a := if w.modAt 21 2 == 0 then .src 2 else .none,
      m := w.modIn 0b0111111#7 && decide (w.modAt 21 2 ≤ 2) && (w.modAt 21 2 != 2 || w.modAt 17 4 == 0) }
  | .trap w => some { Spec.both 0x88#8 with ends := true, d := .raw, m := w.d == 0#8 }
  | .trapSet w => some { Spec.both 0x88#8 with ends := true, d := .raw, a := .src 2, m := w.d == 1#8 && w.imm == 0#32 }
  | .tret w => some { Spec.both 0x89#8 with ends := true, guard := false, f0 := w.fmtIn [0], f1 := w.fmtIn [0], m := w.modIn 1#7 }
  | .tsub w => some { Spec.vec 0x91#8 with d := .dst 2, a := .src 1, b := .src 2, f0 := w.fmtIn [10], m := w.modIn 0#7 }
  | .vset w => some { Spec.plain 0x94#8 w 0#7 with d := .dst 1, a := .src 1, b := .src 2 }
  | .vclr w => some { Spec.plain 0x95#8 w 0#7 with d := .dst 1, a := .src 1 }
  | .vinfo w => some { Spec.plain 0x96#8 w 0#7 with var := true, a := .src 2, b := .src 1 }
  | .vote w => some { Spec.plain 0x50#8 w 3#7 with d := .predDst, a := .pred, m := w.modIn 3#7 && decide (w.modAt 17 2 ≤ 2) }
  | .yield w => some { Spec.plain 0x87#8 w 0#7 with ends := true, guard := false }
  | .pairedWord _ _ => none
  | .issueOpportunity .. | .codeScan .. | .variableLatencyCommit .. | .logReplay .. | .capresResolve .. | .zeroFillResolve ..
  | .cowfResolve .. | .fqHeadWrite .. | .mergeDrain .. | .mergeDrainTimeout .. | .viewLineRequest .. | .remoteViewRequest ..
  | .peerWriteAccept .. | .rdmaWrite .. | .peerLinkTimeout .. | .warpRetire .. | .trackerDrain .. | .levelRelease .. | .limbLoad ..
  | .joinTimeout .. | .leafReload .. | .copyUnitWrite .. | .gatherUnitWrite .. | .gatherDone .. | .pselRun .. | .collRun ..
  | .matrixOpStart .. | .matrixPass .. | .matrixOpComplete .. | .chnTail .. | .chnStatWrite .. | .chainAccept .. | .nodeDispatch ..
  | .readyAging .. | .kernelPassedOver .. | .nodeComplete .. | .preemptRequest .. | .preemptTimeout .. | .unitSave .. | .unitResume ..
  | .growthDeadlock .. | .rgrowGrant .. | .bankDrainDone .. | .bankFillDone .. | .clsBankmodeWrite .. | .fpoolFastAdd ..
  | .fpoolCapAdd .. | .pwrLimitWrite .. | .hotSkipClear .. | .registerWrite .. | .bar2Access .. | .mbxInfo .. | .mbxRead .. | .mbxAck ..
  | .mbxCommandDone .. | .epochEnd .. | .gangKill .. | .detect .. | .detectWindowEnd .. | .dieDrop .. | .hubDrop .. | .fatalEvent ..
  | .freeze .. | .proofCut .. | .fullFreeze .. | .thermalGate .. | .coldReset .. | .warmReset .. | .temperatureBackBelow100 ..
  | .peerReadRequest .. | .attestation .. => none

/-- The layout of a word with its fields (Tables 13.2, 13.4, 13.5, 13.8). -/
inductive Layout where
  | reg (w : RegWord)
  | imm (w : ImmWord)
  | mem (w : MemWord)
  | pair (l r : HalfOp)
  | event
  deriving DecidableEq, Repr

/-- The fields of a word. -/
def Instr.layout : Instr → Layout
  | .and w | .atom w | .ballot w | .barv w | .binit w | .btest w | .bwait w | .bexp w | .bfe w | .bfi w | .brev w | .clz w | .ctz w
  | .bmode w | .brx w | .exit w | .chapp w | .chsq w | .cinv w | .cwb w | .cpy w | .cpyt w | .cvt w | .dld w | .dsv w | .fadd w
  | .fsub w | .fmul w | .ffma w | .fscale w | .fround w | .fmin w | .fmax w | .fclass w | .fcmp w | .fdiv w | .frcp w | .frsq w
  | .fsqrt w | .fexp2 w | .flog2 w | .fsin w | .fcos w | .ftanh w | .fdot2 w | .fdot4 w | .lgdot4 w | .fence w | .frz w | .gang w
  | .gbar w | .gath w | .hadd2 w | .hmul2 w | .hfma2 w | .halt w | .iadd w | .isub w | .iadd3 w | .imul w | .imulhi w | .imad w
  | .imadw w | .iabs w | .imin w | .imax w | .idiv w | .irem w | .icmp w | .isect w | .join w | .lea w | .lop3 w | .matchEq w | .mma w
  | .mmab w | .mmas w | .mzero w | .mwait w | .mprog w | .mov w | .nbar w | .nop w | .not w | .or w | .xor w | .popc w | .shl w | .shr w
  | .sar w | .shf w | .prmt w | .sel w | .pack w | .unpack w | .pand w | .pmov w | .pgattr w | .pshare w | .prel w | .psel w | .psig w
  | .rdsr w | .rdwp w | .red w | .redux w | .ret w | .rgrow w | .rshrink w | .scan w | .scat w | .segld w | .segrd w | .shfl w | .sqwait w
  | .srd w | .srw w | .tail w | .tlbi w | .tret w | .tsub w | .vset w | .vclr w | .vinfo w | .vote w | .yield w => .reg w
  | .andImm w | .bra w | .call w | .faddImm w | .fmulImm w | .fminImm w | .fmaxImm w | .iaddImm w | .isubImm w | .imulImm w | .iminImm w
  | .imaxImm w | .icmpImm w | .idx w | .mark w | .movi w | .movhi w | .orImm w | .xorImm w | .shlImm w | .shrImm w | .sarImm w | .trap w
  | .trapSet w => .imm w
  | .ld w | .ldm w | .pref w | .st w | .stm w => .mem w
  | .pairedWord l r => .pair l r
  | .issueOpportunity .. | .codeScan .. | .variableLatencyCommit .. | .logReplay .. | .capresResolve .. | .zeroFillResolve ..
  | .cowfResolve .. | .fqHeadWrite .. | .mergeDrain .. | .mergeDrainTimeout .. | .viewLineRequest .. | .remoteViewRequest ..
  | .peerWriteAccept .. | .rdmaWrite .. | .peerLinkTimeout .. | .warpRetire .. | .trackerDrain .. | .levelRelease .. | .limbLoad ..
  | .joinTimeout .. | .leafReload .. | .copyUnitWrite .. | .gatherUnitWrite .. | .gatherDone .. | .pselRun .. | .collRun ..
  | .matrixOpStart .. | .matrixPass .. | .matrixOpComplete .. | .chnTail .. | .chnStatWrite .. | .chainAccept .. | .nodeDispatch ..
  | .readyAging .. | .kernelPassedOver .. | .nodeComplete .. | .preemptRequest .. | .preemptTimeout .. | .unitSave .. | .unitResume ..
  | .growthDeadlock .. | .rgrowGrant .. | .bankDrainDone .. | .bankFillDone .. | .clsBankmodeWrite .. | .fpoolFastAdd ..
  | .fpoolCapAdd .. | .pwrLimitWrite .. | .hotSkipClear .. | .registerWrite .. | .bar2Access .. | .mbxInfo .. | .mbxRead .. | .mbxAck ..
  | .mbxCommandDone .. | .epochEnd .. | .gangKill .. | .detect .. | .detectWindowEnd .. | .dieDrop .. | .hubDrop .. | .fatalEvent ..
  | .freeze .. | .proofCut .. | .fullFreeze .. | .thermalGate .. | .coldReset .. | .warmReset .. | .temperatureBackBelow100 ..
  | .peerReadRequest .. | .attestation .. => .event

/-- What a word of a clause breaks (R259). -/
inductive BadWord where
  /-- the opcode is not accepted in this CLASS (R254) -/
  | cls
  /-- an operand field holds a code that is not valid for its position, or an unused field is not zero (R242, R243) -/
  | operand
  /-- an s destination of a word that is not uniform (R243) -/
  | uniform
  /-- MOD, a D-field condition or an immediate holds a value the entry does not accept -/
  | modifier
  /-- FMT or MFMT is not accepted -/
  | format
  /-- GP = 7 with GN = 1, or a guard on a word that takes none (R244) -/
  | guard
  /-- SB is 6, or not 7 on a fixed-latency word (R240) -/
  | scoreboard
  /-- a last-use or reuse bit on a position that is no v-register read (R245) -/
  | lastUse
  /-- a paired word breaks R250 or R251 -/
  | pair
  /-- an event's operand is out of range -/
  | range
  deriving DecidableEq, Repr

/-- Operand code `x` is valid for its position in the CLASS. -/
def Opd.ok (k : Cls) (o : Opd) (x : BitVec 8) : Bool :=
  match o with
  | .none => x == 0#8
  | .pred | .predDst => decide (x.toNat ≤ 7)
  | .raw => true
  | .slot | .slotDst => k == .compositor && decide (0x20 ≤ x.toNat ∧ x.toNat ≤ 0x2F)
  | .src n | .dst n | .dstAny n =>
    match k with
    | .vector => x.toNat % n == 0
    | .compositor => decide (x.toNat < 0x20)
  | .dstV n => k == .vector && decide (x.toNat < 0xC0) && x.toNat % n == 0
  | .srcV => k == .vector && decide (x.toNat < 0xC0)
  | .srcS => k == .vector && decide (0xC0 ≤ x.toNat)

/-- The position is read as a v register: where last-use and reuse bits may stand (R245). -/
def Opd.readsV (k : Cls) (o : Opd) (x : BitVec 8) : Bool :=
  match o with
  | .src _ | .srcV => k == .vector && decide (x.toNat < 0xC0)
  | _ => false

/-- A source that lets a uniform word write an s register: an s code, or no source (R243). -/
def Opd.uniform (o : Opd) (x : BitVec 8) : Bool :=
  match o with
  | .src _ | .srcV => decide (0xC0 ≤ x.toNat)
  | .pred => false
  | _ => true

/-- R243: a CLASS 0 word writes an s register only where its entry names one, or as a uniform word without a guard. -/
def sDestOk (k : Cls) (o : Opd) (d : BitVec 8) (gp : BitVec 3) (uniform : Bool) : Bool :=
  match o with
  | .dst _ => k == .compositor || decide (d.toNat < 0xC0) || (gp == 7#3 && uniform)
  | _ => true

/-- Guard and scoreboard rules common to the layouts. -/
def guardBad (sp : Spec) (gp : BitVec 3) (gn : BitVec 1) : Bool :=
  gp == 7#3 && gn == 1#1 || (!sp.guard && gp != 7#3)
def sbBad (sp : Spec) (sb : BitVec 3) : Bool := sb == 6#3 || (!sp.var && sb != 7#3)

/-- Distinct members. -/
def distinct : List Nat → List Nat
  | [] => []
  | a :: r => if r.contains a then distinct r else a :: distinct r

/-- HMOD bits that a half-opcode defines (Table 13.9). -/
def hmodMask (hop : Nat) : BitVec 6 :=
  if hop ≤ 1 then 1#6 else if hop = 9 ∨ hop = 10 then 1#6 else if 0x0C ≤ hop ∧ hop ≤ 0x0E then 7#6
  else if hop = 0x0F ∨ hop = 0x10 then 4#6 else if hop = 0x11 ∨ hop = 0x12 ∨ hop = 0x14 then 15#6
  else if hop = 0x13 then 7#6 else 0#6

/-- One half is well formed: assigned, HMOD defined, B and its last-use bit zero in `mov` (R250). -/
def HalfOp.ok (h : HalfOp) : Bool :=
  decide (h.hop.toNat ≤ 0x14) && h.hmod &&& ~~~(hmodMask h.hop.toNat) == 0#6
    && (h.hop != 0x0B#6 || (h.b == 0#6 && h.lu &&& 1#2 == 0#2))

/-- Source registers of a half, the addend of an accumulating half not counted (R251). -/
def HalfOp.reads (h : HalfOp) : List Nat := if h.hop == 0x0B#6 then [h.a.toNat] else [h.a.toNat, h.b.toNat]

/-- R251. -/
def pairOk (l r : HalfOp) : Bool :=
  let srcs := distinct (l.reads ++ r.reads)
  l.ok && r.ok && (l.d.toNat + r.d.toNat) % 2 == 1 && decide (srcs.length ≤ 3)
    && decide ((srcs.filter (· % 2 == 0)).length ≤ 2) && decide ((srcs.filter (· % 2 == 1)).length ≤ 2)

/-- A word's check against its rules: operands are (kind, code) for D, A, B, C; `marks` says, for A, B and C, whether a
last-use or reuse bit stands there. -/
def Spec.bad (k : Cls) (sp : Spec) (d a b c : BitVec 8) (gp : BitVec 3) (gn : BitVec 1) (sb : BitVec 3) (ma mb mc : Bool) :
    Option BadWord :=
  if !(if k = .vector then sp.c0 else sp.c1) then some .cls
  else if !(sp.d.ok k d && sp.a.ok k a && sp.b.ok k b && sp.c.ok k c) then some .operand
  else if !(sDestOk k sp.d d gp (sp.a.uniform a && sp.b.uniform b && sp.c.uniform c)) then some .uniform
  else if !sp.m then some .modifier
  else if !(if k = .vector then sp.f0 else sp.f1) then some .format
  else if guardBad sp gp gn then some .guard
  else if sbBad sp sb then some .scoreboard
  else if (ma && !sp.a.readsV k a) || (mb && !sp.b.readsV k b) || (mc && !sp.c.readsV k c) then some .lastUse
  else none

/-- Ranges of clusters, lanes, chains and the like in the operands of events (R11, R12, R52, R225, R159). -/
def Instr.eventOk : Instr → Bool
  | .issueOpportunity c l | .rgrowGrant c l => decide (c < 128 ∧ l ≤ 512)
  | .codeScan f => decide (f < 0x2900000)
  | .viewLineRequest c t va | .remoteViewRequest c t va => decide (c < 128 ∧ t < 16) && va &&& ~~~0x1FFFFFFFFFFFFFF#64 == 0#64
  | .mergeDrain core _ | .mergeDrainTimeout core _ => decide (core < 1152)
  | .peerWriteAccept p pa b => decide (p < 512 ∧ pa + b.length ≤ 0x29000000000)
  | .rdmaWrite pa b => decide (pa + b.length ≤ 0x29000000000)
  | .peerReadRequest p pa _ => decide (p < 512 ∧ pa < 0x29000000000)
  | .peerLinkTimeout p => decide (p < 512)
  | .trackerDrain c e => decide (c < 128 ∧ e < 16)
  | .limbLoad c | .gatherDone c | .pselRun c | .matrixOpStart c | .matrixPass c | .matrixOpComplete c | .growthDeadlock c => decide (c < 128)
  | .gatherUnitWrite c _ => decide (c < 128)
  | .copyUnitWrite c ch => decide (c < 128 ∧ ch < 4)
  | .collRun h | .epochEnd h | .hubDrop h => decide (h < 4)
  | .hotSkipClear h _ => decide (h < 4)
  | .chnTail f c _ | .chnStatWrite f c _ => decide (f ≤ 16 ∧ c < 256)
  | .chainAccept c => decide (c < 256)
  | .bankDrainDone c b | .bankFillDone c b => decide (c < 128 ∧ b < 512)
  | .clsBankmodeWrite c b _ => decide (c < 128 ∧ b < 512)
  | .mbxInfo f | .mbxRead f _ | .mbxAck f | .mbxCommandDone f => decide (f ≤ 16)
  | .bar2Access _ n d => (match d with | some b => b.length == n | none => true)
  | .dieDrop d => decide (d < 16)
  | .fatalEvent c r => decide (1 ≤ c ∧ c ≤ 7 ∧ r < 1156)
  | .freeze r => decide (r < 1156)
  | .and .. | .andImm .. | .atom .. | .ballot .. | .barv .. | .binit .. | .btest .. | .bwait .. | .bexp .. | .bfe .. | .bfi ..
  | .brev .. | .clz .. | .ctz .. | .bmode .. | .bra .. | .brx .. | .call .. | .exit .. | .chapp .. | .chsq .. | .cinv .. | .cwb ..
  | .cpy .. | .cpyt .. | .cvt .. | .dld .. | .dsv .. | .fadd .. | .faddImm .. | .fsub .. | .fmul .. | .fmulImm .. | .ffma ..
  | .fscale .. | .fround .. | .fmin .. | .fminImm .. | .fmax .. | .fmaxImm .. | .fclass .. | .fcmp .. | .fdiv .. | .frcp .. | .frsq ..
  | .fsqrt .. | .fexp2 .. | .flog2 .. | .fsin .. | .fcos .. | .ftanh .. | .fdot2 .. | .fdot4 .. | .lgdot4 .. | .fence .. | .frz ..
  | .gang .. | .gbar .. | .gath .. | .hadd2 .. | .hmul2 .. | .hfma2 .. | .halt .. | .iadd .. | .iaddImm .. | .isub .. | .isubImm ..
  | .iadd3 .. | .imul .. | .imulImm .. | .imulhi .. | .imad .. | .imadw .. | .iabs .. | .imin .. | .iminImm .. | .imax .. | .imaxImm ..
  | .idiv .. | .irem .. | .icmp .. | .icmpImm .. | .idx .. | .isect .. | .join .. | .ld .. | .ldm .. | .lea .. | .lop3 .. | .mark ..
  | .matchEq .. | .mma .. | .mmab .. | .mmas .. | .mzero .. | .mwait .. | .mprog .. | .mov .. | .movi .. | .movhi .. | .nbar .. | .nop ..
  | .not .. | .or .. | .orImm .. | .xor .. | .xorImm .. | .popc .. | .shl .. | .shlImm .. | .shr .. | .shrImm .. | .sar .. | .sarImm ..
  | .shf .. | .prmt .. | .sel .. | .pack .. | .unpack .. | .pand .. | .pmov .. | .pgattr .. | .pref .. | .pshare .. | .prel .. | .psel ..
  | .psig .. | .rdsr .. | .rdwp .. | .red .. | .redux .. | .ret .. | .rgrow .. | .rshrink .. | .scan .. | .scat .. | .segld .. | .segrd ..
  | .shfl .. | .sqwait .. | .srd .. | .srw .. | .st .. | .stm .. | .tail .. | .tlbi .. | .trap .. | .trapSet .. | .tret .. | .tsub ..
  | .vset .. | .vclr .. | .vinfo .. | .vote .. | .yield .. | .pairedWord .. => false
  | .variableLatencyCommit .. | .logReplay .. | .capresResolve .. | .zeroFillResolve .. | .cowfResolve .. | .fqHeadWrite ..
  | .warpRetire .. | .levelRelease .. | .joinTimeout .. | .leafReload .. | .nodeDispatch .. | .readyAging .. | .kernelPassedOver ..
  | .nodeComplete .. | .preemptRequest .. | .preemptTimeout .. | .unitSave .. | .unitResume .. | .fpoolFastAdd .. | .fpoolCapAdd ..
  | .pwrLimitWrite .. | .registerWrite .. | .gangKill .. | .detect .. | .detectWindowEnd .. | .proofCut | .fullFreeze
  | .thermalGate .. | .coldReset .. | .warmReset .. | .temperatureBackBelow100 .. | .attestation .. => true

/-- The first rule that a word breaks in a clause of CLASS `k`, or an event by its ranges; none: well formed. -/
def Instr.bad (k : Cls) (i : Instr) : Option BadWord :=
  match i.layout, i.spec with
  | .reg w, some sp =>
    sp.bad k w.d w.a w.b w.c w.gp w.gn w.sb (w.lu.getLsbD 2 || w.ru.getLsbD 2) (w.lu.getLsbD 1 || w.ru.getLsbD 1)
      (w.lu.getLsbD 0 || w.ru.getLsbD 0)
  | .imm w, some sp => sp.bad k w.d w.a 0#8 0#8 w.gp w.gn w.sb (w.lua == 1#1) false false
  | .mem w, some sp =>
    if w.lud == 1#1 && !(sp.d.readsV k w.d) then some .lastUse
    else sp.bad k w.d w.a 0#8 0#8 w.gp w.gn w.sb (w.lua == 1#1) false false
  | .pair l r, _ => if k = .vector then (if pairOk l r then none else some .pair) else some .cls
  | _, _ => if i.eventOk then none else some .range

/-- Well formed in a clause of CLASS `k`. -/
def Instr.wf (k : Cls) (i : Instr) : Bool := (i.bad k).isNone

/-- Clause header (Table 13.1). -/
structure Header where
  cls : BitVec 2
  count : BitVec 4
  pairmap : Half
  wait : BitVec 6
  join : Bool
  yield : Bool
  stall : BitVec 30
  deriving DecidableEq, Repr

/-- Body words of a clause (Table 13.1). -/
def Header.n (h : Header) : Nat := if h.cls == 2#2 then h.count.toNat else h.count.toNat + 1

/-- The header checks of R258 and R259. -/
def Header.ok (h : Header) : Bool :=
  if h.cls == 3#2 then false
  else if h.cls == 2#2 then h.pairmap == 0#16 && h.wait == 0#6 && !h.join && !h.yield && h.stall == 0#30
  else h.pairmap.toNat / 2 ^ h.n == 0 && h.stall.toNat / 4 ^ (h.n - 1) == 0
    && !(h.cls == 1#2 && (h.pairmap != 0#16 || h.join))

/-- A word stands in place `j` of `n` in its clause (R239): clause-ending words last, `join` first where JOIN asks for it. -/
def placeOk (h : Header) (j : Nat) (i : Instr) : Bool :=
  let ends := match i.spec with | some sp => sp.ends | none => false
  let isJoin := match i with | .join _ => true | _ => false
  (!ends || j == h.n) && (isJoin == (h.cls == 0#2 && h.join && j == 1))

end Sys2Proof
end

