-- ==== Sys2Proof/Machine/Alu.lean ====
section
/-! DEFINITION. What each word without memory or cross-slot effect computes from its operands: one pure function per word, used by
warps, by the compositor and by trunks and limbs with U sources (R268-R270, R289-R298, R310-R317, R326-R328, R337, R338,
R343-R347). -/

namespace Sys2Proof

/-- The width W that FMT names: 64 for 0xA. -/
def RegWord.width (w : RegWord) : Nat := if w.fmt == 0xA#4 then 64 else 32
/-- The width of an immediate form (R256). -/
def Cls.width (k : Cls) : Nat := match k with | .vector => 32 | .compositor => 64
/-- IMM as a signed number. -/
def ImmWord.int (w : ImmWord) : Int := w.imm.toInt
def RegWord.sat (w : RegWord) : Bool := w.modAt 17 1 == 1
def RegWord.rmode (w : RegWord) : Nat := w.modAt 17 2
def RegWord.ftz (w : RegWord) : Bool := w.modAt 19 1 == 1
/-- D of the immediate form: unsigned bit, condition, predicate (Table 13.11). -/
def ImmWord.cmpUnsigned (w : ImmWord) : Bool := w.d.getLsbD 6
def ImmWord.cmpCond (w : ImmWord) : Nat := w.d.toNat / 8 % 8
def ImmWord.cmpPred (w : ImmWord) : Nat := w.d.toNat % 8
/-- IMM as a pattern: sign-extended to 64 bits in CLASS 1 (R270, R344). -/
def ImmWord.pattern (w : ImmWord) (k : Cls) : Dbl :=
  match k with
  | .vector => w.imm.setWidth 64
  | .compositor => w.imm.signExtend 64

/-! Half-ops of a paired word (Tables 13.8, 13.9) -/

/-- The register word that a half-op stands for; the accumulating halves name D as C. -/
def HalfOp.word (h : HalfOp) (fmt : BitVec 4) (mod : BitVec 7) : RegWord :=
  { d := h.d.setWidth 8, a := h.a.setWidth 8, b := h.b.setWidth 8, c := h.d.setWidth 8, mod := mod, gp := 7#3, gn := 0#1, sb := 7#3,
    lu := 0#3, ru := 0#3, fmt := fmt }

/-- HMOD[2:0] as the MOD field of a floating word. -/
def HalfOp.fmod (h : HalfOp) : BitVec 7 := h.hmod.setWidth 3 |>.setWidth 7

/-- The instruction of a half-op; none for an unassigned half-opcode. -/
def HalfOp.instr (h : HalfOp) : Option Instr :=
  let f16 : BitVec 4 := if h.hmod.getLsbD 3 then 2#4 else 1#4
  let i32 : BitVec 4 := if h.hmod.getLsbD 0 then 9#4 else 8#4
  match h.hop.toNat with
  | 0x00 => some (.iadd (h.word 8#4 (h.hmod.setWidth 7)))
  | 0x01 => some (.isub (h.word 8#4 (h.hmod.setWidth 7)))
  | 0x02 => some (.imul (h.word 8#4 0#7))
  | 0x03 => some (.and (h.word 9#4 0#7))
  | 0x04 => some (.or (h.word 9#4 0#7))
  | 0x05 => some (.xor (h.word 9#4 0#7))
  | 0x06 => some (.shl (h.word 9#4 0#7))
  | 0x07 => some (.shr (h.word 9#4 0#7))
  | 0x08 => some (.sar (h.word 9#4 0#7))
  | 0x09 => some (.imin (h.word i32 0#7))
  | 0x0A => some (.imax (h.word i32 0#7))
  | 0x0B => some (.mov (h.word 9#4 0#7))
  | 0x0C => some (.fadd (h.word 0#4 h.fmod))
  | 0x0D => some (.fsub (h.word 0#4 h.fmod))
  | 0x0E => some (.fmul (h.word 0#4 h.fmod))
  | 0x0F => some (.fmin (h.word 0#4 h.fmod))
  | 0x10 => some (.fmax (h.word 0#4 h.fmod))
  | 0x11 => some (.hadd2 (h.word f16 h.fmod))
  | 0x12 => some (.hmul2 (h.word f16 h.fmod))
  | 0x13 => some (.ffma (h.word 0#4 h.fmod))
  | 0x14 => some (.hfma2 (h.word f16 h.fmod))
  | _ => none

end Sys2Proof

namespace Sys2Proof.Machine

/-- The operands of a word at one slot: the CLASS of its clause, A, B, C and the prior value of D. -/
structure Args where
  cls : Cls
  a : Dbl
  b : Dbl
  c : Dbl
  d : Dbl
  deriving DecidableEq, Repr

/-- A result (bit 0 for a predicate) and the flags raised. -/
structure Res where
  val : Dbl
  flags : Word
  deriving DecidableEq, Repr

def Res.ok (x : Nat) : Res := { val := BitVec.ofNat 64 x, flags := 0#32 }
def Res.of (c : Coded) : Res := { val := BitVec.ofNat 64 c.1, flags := c.2 }
def Res.bool (b : Bool) : Res := Res.ok (if b then 1 else 0)


/-- An operand read in an integer type. -/
def asInt (t : Nat) (x : Dbl) : Int := if t = 9 then ((x.toNat % 2 ^ 32 : Nat) : Int) else sextNat x.toNat (typeBits t)
/-- The type of an immediate form: INT32, or INT64 in CLASS 1 (R256, R314). -/
def immType (k : Cls) : Nat := match k with | .vector => 8 | .compositor => 10

/-! Integer arithmetic (R312-R314) -/

def iaddOp (w : RegWord) (x : Args) : Res :=
  let t := w.fmt.toNat
  Res.of (narrowInt t w.sat (asInt t x.a + asInt t x.b))
def iaddImmOp (w : ImmWord) (x : Args) : Res := Res.of (narrowInt (immType x.cls) false (asInt (immType x.cls) x.a + w.int))
def isubOp (w : RegWord) (x : Args) : Res :=
  let t := w.fmt.toNat
  Res.of (narrowInt t w.sat (asInt t x.a - asInt t x.b))
def isubImmOp (w : ImmWord) (x : Args) : Res := Res.of (narrowInt (immType x.cls) false (asInt (immType x.cls) x.a - w.int))
def iadd3Op (w : RegWord) (x : Args) : Res :=
  let t := w.fmt.toNat
  Res.of (narrowInt t w.sat (asInt t x.a + asInt t x.b + asInt t x.c))
def imulOp (w : RegWord) (x : Args) : Res :=
  let t := w.fmt.toNat
  Res.of (narrowInt t w.sat (asInt t x.a * asInt t x.b))
def imulImmOp (w : ImmWord) (x : Args) : Res := Res.of (narrowInt (immType x.cls) false (asInt (immType x.cls) x.a * w.int))
def imulhiOp (w : RegWord) (x : Args) : Res :=
  let t := w.fmt.toNat
  Res.ok (wrapNat (asInt t x.a * asInt t x.b / (2 ^ w.width : Nat)) w.width)
def imadOp (w : RegWord) (x : Args) : Res :=
  let t := w.fmt.toNat
  Res.of (narrowInt t w.sat (asInt t x.a * asInt t x.b + asInt t x.c))
def imadwOp (w : RegWord) (x : Args) : Res :=
  let t := w.fmt.toNat
  Res.ok (wrapNat (asInt t x.a * asInt t x.b + asInt 10 x.c) 64)
def iabsOp (w : RegWord) (x : Args) : Res :=
  let t := w.fmt.toNat
  Res.of (narrowInt t w.sat ((asInt t x.a).natAbs : Int))
def iminOp (w : RegWord) (x : Args) : Res :=
  let t := w.fmt.toNat
  Res.ok (wrapNat (min (asInt t x.a) (asInt t x.b)) w.width)
def iminImmOp (w : ImmWord) (x : Args) : Res := Res.ok (wrapNat (min (asInt (immType x.cls) x.a) w.int) x.cls.width)
def imaxOp (w : RegWord) (x : Args) : Res :=
  let t := w.fmt.toNat
  Res.ok (wrapNat (max (asInt t x.a) (asInt t x.b)) w.width)
def imaxImmOp (w : ImmWord) (x : Args) : Res := Res.ok (wrapNat (max (asInt (immType x.cls) x.a) w.int) x.cls.width)

/-- Division by zero (Table 15.5): DZ for a nonzero dividend, INV for 0 / 0. -/
def divFlag (a : Int) : Word := if a = 0 then flagInv else flagDz
def idivOp (w : RegWord) (x : Args) : Res :=
  let t := w.fmt.toNat
  let a := asInt t x.a
  let b := asInt t x.b
  if b = 0 then { val := BitVec.ofNat 64 (2 ^ w.width - 1), flags := divFlag a } else Res.of (narrowInt t w.sat (a.tdiv b))
def iremOp (w : RegWord) (x : Args) : Res :=
  let t := w.fmt.toNat
  let a := asInt t x.a
  let b := asInt t x.b
  if b = 0 then { val := BitVec.ofNat 64 (wrapNat a w.width), flags := divFlag a } else Res.ok (wrapNat (a.tmod b) w.width)

/-- The conditions of Table 15.6. -/
def intCond (cond : Nat) (a b : Int) : Bool :=
  match cond with
  | 0 => a == b
  | 1 => a != b
  | 2 => decide (a < b)
  | 3 => decide (a ≤ b)
  | 4 => decide (a > b)
  | _ => decide (a ≥ b)

/-- The value that `icmp` compares: signed or unsigned by the type; in CLASS 1 the whole x register (R317). -/
def cmpInt (k : Cls) (unsigned : Bool) (fmt : Nat) (x : Dbl) : Int :=
  match k with
  | .compositor => if unsigned then (x.toNat : Int) else x.toInt
  | .vector => if unsigned then ((x.toNat % 2 ^ 32 : Nat) : Int) else sextNat x.toNat (typeBits fmt)

def icmpOp (w : RegWord) (x : Args) : Res :=
  let t := w.fmt.toNat
  Res.bool (intCond (w.modAt 17 3) (cmpInt x.cls (t == 9) t x.a) (cmpInt x.cls (t == 9) t x.b))
def icmpImmOp (w : ImmWord) (x : Args) : Res :=
  let imm : Int := if w.cmpUnsigned then (w.imm.toNat : Int) else w.int
  Res.bool (intCond w.cmpCond (cmpInt x.cls w.cmpUnsigned 8 x.a) imm)

def leaOp (w : RegWord) (x : Args) : Res :=
  let sh := w.modAt 17 6
  if w.fmt == 0xA#4 then
    let b : Int := if w.modAt 23 1 = 1 then sextNat x.b.toNat 32 else ((x.b.toNat % 2 ^ 32 : Nat) : Int)
    Res.ok (wrapNat ((x.a.toNat : Int) + b * (2 ^ sh : Nat)) 64)
  else Res.ok ((x.a.toNat + x.b.toNat * 2 ^ sh) % 2 ^ 32)

/-! Bits, logic and shifts (R269, R270, R328, R343, R344) -/

/-- A result of W bits. -/
def Res.bits (n : Nat) (x : Dbl) : Res := Res.ok (x.toNat % 2 ^ n)
def andOp (w : RegWord) (x : Args) : Res := Res.bits w.width (x.a &&& x.b)
def andImmOp (w : ImmWord) (x : Args) : Res := Res.bits x.cls.width (x.a &&& w.pattern x.cls)
def orOp (w : RegWord) (x : Args) : Res := Res.bits w.width (x.a ||| x.b)
def orImmOp (w : ImmWord) (x : Args) : Res := Res.bits x.cls.width (x.a ||| w.pattern x.cls)
def xorOp (w : RegWord) (x : Args) : Res := Res.bits w.width (x.a ^^^ x.b)
def xorImmOp (w : ImmWord) (x : Args) : Res := Res.bits x.cls.width (x.a ^^^ w.pattern x.cls)
def notOp (w : RegWord) (x : Args) : Res := Res.bits w.width (~~~x.a)
/-- Bit positions of a value below `n` that hold 1. -/
def onesOf (x : Dbl) (n : Nat) : List Nat := (List.range n).filter fun i => x.getLsbD i
def popcOp (w : RegWord) (x : Args) : Res := Res.ok (onesOf x.a w.width).length
def clzOp (w : RegWord) (x : Args) : Res := Res.ok (w.width - bitLen (x.a.toNat % 2 ^ w.width))
def ctzOp (w : RegWord) (x : Args) : Res := Res.ok ((onesOf x.a w.width).headD w.width)
def brevOp (w : RegWord) (x : Args) : Res :=
  Res.ok ((onesOf x.a w.width).foldl (fun r i => r + 2 ^ (w.width - 1 - i)) 0)

/-- pos and len of a control operand (Table 14.2). -/
def fieldPos (c : Dbl) : Nat := c.toNat % 256
def fieldLen (c : Dbl) : Nat := if fieldPos c < 32 then min (c.toNat / 256 % 256) (32 - fieldPos c) else 0
def bfeOp (w : RegWord) (x : Args) : Res :=
  let n := fieldLen x.b
  let f := x.a.toNat / 2 ^ fieldPos x.b % 2 ^ n
  if n = 0 then Res.ok 0 else if w.fmt == 8#4 then Res.ok (wrapNat (sextNat f n) 32) else Res.ok f
def bfiOp (_w : RegWord) (x : Args) : Res :=
  let n := fieldLen x.c
  let p := fieldPos x.c
  if n = 0 then Res.bits 32 x.a
  else
    let mask : Dbl := BitVec.ofNat 64 ((2 ^ n - 1) * 2 ^ p)
    Res.bits 32 ((x.a &&& ~~~mask) ||| (BitVec.ofNat 64 (x.b.toNat * 2 ^ p) &&& mask))

/-- Shifts of a width-n value by m, every m from 0 on (Table 16.3). -/
def shlBits (n : Nat) (a : Dbl) (m : Nat) : Nat := if n ≤ m then 0 else a.toNat * 2 ^ m % 2 ^ n
def shrBits (n : Nat) (a : Dbl) (m : Nat) : Nat := if n ≤ m then 0 else a.toNat % 2 ^ n / 2 ^ m
def sarBits (n : Nat) (a : Dbl) (m : Nat) : Nat := wrapNat (sextNat a.toNat n / (2 ^ min m n : Nat)) n
/-- A shift amount: the low 32 bits of B. -/
def amount (b : Dbl) : Nat := b.toNat % 2 ^ 32
def shlOp (w : RegWord) (x : Args) : Res := Res.ok (shlBits w.width x.a (amount x.b))
def shlImmOp (w : ImmWord) (x : Args) : Res := Res.ok (shlBits x.cls.width x.a (w.imm.toNat % 32))
def shrOp (w : RegWord) (x : Args) : Res := Res.ok (shrBits w.width x.a (amount x.b))
def shrImmOp (w : ImmWord) (x : Args) : Res := Res.ok (shrBits x.cls.width x.a (w.imm.toNat % 32))
def sarOp (w : RegWord) (x : Args) : Res := Res.ok (sarBits w.width x.a (amount x.b))
def sarImmOp (w : ImmWord) (x : Args) : Res := Res.ok (sarBits x.cls.width x.a (w.imm.toNat % 32))
def shfOp (w : RegWord) (x : Args) : Res :=
  let v := x.b.toNat % 2 ^ 32 * 2 ^ 32 + x.a.toNat % 2 ^ 32
  let n := x.c.toNat % 32
  if w.modAt 17 1 = 0 then Res.ok (v * 2 ^ n / 2 ^ 32 % 2 ^ 32) else Res.ok (v / 2 ^ n % 2 ^ 32)
def lop3Op (w : RegWord) (x : Args) : Res :=
  let lut := w.modAt 17 4 * 16 + w.fmt.toNat
  Res.ok ((List.range 32).foldl (fun r i =>
    let k := (x.a.getLsbD i).toNat + 2 * (x.b.getLsbD i).toNat + 4 * (x.c.getLsbD i).toNat
    r + lut / 2 ^ k % 2 * 2 ^ i) 0)
/-- Byte `i` of `prmt`. -/
def prmtByte (src c : Nat) (i : Nat) : Nat :=
  let b := src / 256 ^ (c / 2 ^ (3 * i) % 8) % 256
  if c / 2 ^ (12 + i) % 2 = 1 then 0 else if c / 2 ^ (16 + i) % 2 = 1 then (if 128 ≤ b then 255 else 0) else b
def prmtOp (_w : RegWord) (x : Args) : Res :=
  let src := x.a.toNat % 2 ^ 32 + x.b.toNat % 2 ^ 32 * 2 ^ 32
  Res.ok ((List.range 4).foldl (fun r i => r + prmtByte src x.c.toNat i * 256 ^ i) 0)
def selOp (w : RegWord) (x : Args) : Res := Res.bits w.width (if x.c.getLsbD 0 then x.a else x.b)
def pandOp (w : RegWord) (x : Args) : Res :=
  let a := x.a.getLsbD 0 != (w.modAt 19 1 == 1)
  let b := x.b.getLsbD 0 != (w.modAt 20 1 == 1)
  Res.bool (match w.modAt 17 2 with | 0 => a && b | 1 => a || b | _ => a != b)

/-! Moves (R337, R338) -/

def movOp (_w : RegWord) (x : Args) : Res := { val := x.a, flags := 0#32 }
def moviOp (w : ImmWord) (x : Args) : Res := { val := w.pattern x.cls, flags := 0#32 }
def movhiOp (w : ImmWord) (x : Args) : Res := Res.ok (w.imm.toNat * 2 ^ 32 + x.a.toNat % 2 ^ 32)
def nopOp (_w : RegWord) (_x : Args) : Res := Res.ok 0

/-! Floating point (R292-R298, R303, R310, R327) -/

def faddOp (w : RegWord) (x : Args) : Res := Res.of (floatAdd 0 w.rmode w.ftz x.a.toNat x.b.toNat)
def faddImmOp (w : ImmWord) (x : Args) : Res := Res.of (floatAdd 0 0 false x.a.toNat w.imm.toNat)
def fsubOp (w : RegWord) (x : Args) : Res := Res.of (floatSub 0 w.rmode w.ftz x.a.toNat x.b.toNat)
def fmulOp (w : RegWord) (x : Args) : Res := Res.of (floatMul 0 w.rmode w.ftz x.a.toNat x.b.toNat)
def fmulImmOp (w : ImmWord) (x : Args) : Res := Res.of (floatMul 0 0 false x.a.toNat w.imm.toNat)
def ffmaOp (w : RegWord) (x : Args) : Res := Res.of (floatFma 0 w.rmode w.ftz x.a.toNat x.b.toNat x.c.toNat)
def fscaleOp (w : RegWord) (x : Args) : Res := Res.of (floatScale w.rmode w.ftz x.a.toNat (sextNat x.b.toNat 32))
def froundOp (w : RegWord) (x : Args) : Res := Res.of (floatRound w.rmode w.ftz x.a.toNat)
def fminOp (w : RegWord) (x : Args) : Res := Res.of (floatMinMax false w.ftz x.a.toNat x.b.toNat)
def fminImmOp (w : ImmWord) (x : Args) : Res := Res.of (floatMinMax false false x.a.toNat w.imm.toNat)
def fmaxOp (w : RegWord) (x : Args) : Res := Res.of (floatMinMax true w.ftz x.a.toNat x.b.toNat)
def fmaxImmOp (w : ImmWord) (x : Args) : Res := Res.of (floatMinMax true false x.a.toNat w.imm.toNat)
def fclassOp (_w : RegWord) (x : Args) : Res := Res.ok (floatClass x.a.toNat)
def fcmpOp (w : RegWord) (x : Args) : Res :=
  let (r, f) := floatCmp (w.modAt 17 3) (w.modAt 20 1 == 1) x.a.toNat x.b.toNat
  { val := if r then 1#64 else 0#64, flags := f }
def fdivOp (w : RegWord) (x : Args) : Res := Res.of (floatDiv w.rmode w.ftz x.a.toNat x.b.toNat)
def frcpOp (w : RegWord) (x : Args) : Res := Res.of (floatRcp w.rmode w.ftz x.a.toNat)
def frsqOp (w : RegWord) (x : Args) : Res := Res.of (floatRsq w.ftz x.a.toNat)
def fsqrtOp (w : RegWord) (x : Args) : Res := Res.of (floatSqrt w.rmode w.ftz x.a.toNat)
def fexp2Op (w : RegWord) (x : Args) : Res := Res.of (floatExp2 w.ftz x.a.toNat)
def flog2Op (w : RegWord) (x : Args) : Res := Res.of (floatLog2 w.ftz x.a.toNat)
def fsinOp (w : RegWord) (x : Args) : Res := Res.of (floatSin w.ftz x.a.toNat)
def fcosOp (w : RegWord) (x : Args) : Res := Res.of (floatCos w.ftz x.a.toNat)
def ftanhOp (w : RegWord) (x : Args) : Res := Res.of (floatTanh w.ftz x.a.toNat)

/-- Element `j` of a register whose elements take `n` bits. -/
def elemAt (x : Dbl) (n j : Nat) : Nat := x.toNat / 2 ^ (n * j) % 2 ^ n

/-- A value times 2^k. -/
def scaleVal (k : Int) : Val → Val
  | .fin s m e => .fin s m (e + k)
  | v => v

/-- `fdot2` and `fdot4`: the sum of `n` products of elements of type `t`, each times 2^k, and an FP32 addend (R298). -/
def dotRes (t n mode : Nat) (ftz : Bool) (k : Int) (a b addend : Dbl) : Res :=
  Res.of (fused 0 mode ftz
    ((List.range n).map fun j =>
      (scaleVal k (decodeVal t (elemAt a (32 / n) j) ftz), decodeVal t (elemAt b (32 / n) j) ftz))
    [decodeVal 0 addend.toNat ftz])

/-- `lgdot4`: products by adding logarithms (R179, R327). -/
def lgDotRes (mode : Nat) (ftz : Bool) (k : Int) (a b addend : Dbl) : Res :=
  let ps := (List.range 4).map fun j => scaleVal k (lgMul (elemAt a 8 j % 64) (elemAt b 8 j % 64))
  let (v, f) := sumVal mode (ps ++ [decodeVal 0 addend.toNat ftz])
  let (c, g) := roundVal 0 mode ftz v
  Res.of (c, f ||| g)

/-- The scaled forms: eA and eB from the scale register, the addend in D; a scale of 0xFF gives NaN with INV (R177). -/
def scaledRes (eA eB : Nat) (r : Int → Res) : Res :=
  if eA = 255 ∨ eB = 255 then Res.of (canonicalNan 0, flagInv) else r ((eA : Int) + eB - 254)

def fdot2Op (w : RegWord) (x : Args) : Res := dotRes w.fmt.toNat 2 w.rmode w.ftz 0 x.a x.b x.c
def fdot4Op (w : RegWord) (x : Args) : Res := dotRes w.fmt.toNat 4 w.rmode w.ftz 0 x.a x.b x.c
def lgdot4Op (w : RegWord) (x : Args) : Res := lgDotRes w.rmode w.ftz 0 x.a x.b x.c

/-- Two halves of a packed word (R310). -/
def halves (f : Nat → Coded) : Res :=
  let r0 := f 0
  let r1 := f 1
  Res.of (r0.1 + r1.1 * 2 ^ 16, r0.2 ||| r1.2)
def hadd2Op (w : RegWord) (x : Args) : Res :=
  halves fun j => floatAdd w.fmt.toNat w.rmode w.ftz (elemAt x.a 16 j) (elemAt x.b 16 j)
def hmul2Op (w : RegWord) (x : Args) : Res :=
  halves fun j => floatMul w.fmt.toNat w.rmode w.ftz (elemAt x.a 16 j) (elemAt x.b 16 j)
def hfma2Op (w : RegWord) (x : Args) : Res :=
  halves fun j => floatFma w.fmt.toNat w.rmode w.ftz (elemAt x.a 16 j) (elemAt x.b 16 j) (elemAt x.c 16 j)

/-! Conversions (R289, R290, R345, R346) -/

def cvtOp (w : RegWord) (x : Args) : Res :=
  Res.of (convert w.fmt.toNat (w.modAt 20 4) (w.modAt 18 2) w.sat x.a.toNat)
/-- One element of `pack`. -/
def packElem (w : RegWord) (x : Dbl) : Coded :=
  let ftz := w.ftz
  match w.fmt.toNat with
  | 7 => narrowInt 7 (w.modAt 21 1 == 1) (sextNat x.toNat 32)
  | 5 => toLg6 (decodeVal 0 x.toNat ftz)
  | 3 => toFp8 3 (w.modAt 21 1 == 1) ftz (decodeVal 0 x.toNat ftz)
  | 4 => toFp8 4 (w.modAt 21 1 == 1) ftz (decodeVal 0 x.toNat ftz)
  | t => roundVal t w.rmode ftz (decodeVal 0 x.toNat ftz)
def packOp (w : RegWord) (x : Args) : Res :=
  let p := packElem w x.a
  let q := packElem w x.b
  if w.fmt == 1#4 || w.fmt == 2#4 then Res.of (p.1 + q.1 * 2 ^ 16, p.2 ||| q.2)
  else
    let sh := 16 * w.modAt 20 1
    let kept := x.d.toNat % 2 ^ 32 - x.d.toNat / 2 ^ sh % 2 ^ 16 * 2 ^ sh
    Res.of (kept + (p.1 + q.1 * 256) * 2 ^ sh, p.2 ||| q.2)
def unpackOp (w : RegWord) (x : Args) : Res :=
  let t := w.fmt.toNat
  let n := if t ≤ 2 then 16 else 8
  let e := elemAt x.a n (w.modAt 17 2)
  if t = 7 then Res.ok (wrapNat (sextNat e 8) 32) else Res.of (roundVal 0 0 false (decodeVal t e false))

end Sys2Proof.Machine
end

