-- ==== Sys2Proof/Config.lean ====
section
/-! DEFINITION. What the spec leaves to one module or to a party outside it, as constants without a body: nothing can be
proved of their values (notes/assumptions/10.md). -/

namespace Sys2Proof

/-- Where the tags of SEND and RECV records begin (R215 fixes only that a tag is not used again within 2^24 messages). -/
opaque Config.tagBase : Word
/-- The code of a message kind in a SEND or RECV record (Table 11.6 names the kinds and gives no codes). -/
opaque Config.messageKind : Nat → Byte
/-- Byte `i` of the module's SERIAL in a Proof header (Table 11.7). -/
opaque Config.serialByte : Nat → Byte
/-- Byte `i` of the Ed448 signature of a digest (Table 11.7, R219, R222): the key lies in fuses. -/
opaque Config.signByte : (digest : List Byte) → (i : Nat) → Byte
/-- What the answer to attestation request `r` holds beside the module's measurements of its configuration, in the format of SPDM (R222):
the bytes to be hashed, from the measured ones. -/
opaque Config.attestText : (r : Nat) → (measured : List Byte) → List Byte
/-- The switch of the first level that a package of the domain hangs from (R232, Table 1.4: two levels). -/
opaque Config.leafSwitch : Nat → Nat
/-- The package whose data a broadcast to a multicast group delivers (R232 names the group and no root). -/
opaque Config.castRoot : (group : Nat) → Nat
/-- The packages that a multicast group holds (R232 names the group and no members). -/
opaque Config.inGroup : (group package : Nat) → Bool
/-- Free byte number `n`, drawn where another package supplies data (R232) and where the spec states no byte. -/
opaque Config.farByte : Nat → Byte

end Sys2Proof
end

