-- ==== Sys2Proof/Decode.lean ====
section
/-! DEFINITION. From bytes to words of a clause, rejecting by name, and back: the layouts of Tables 13.1, 13.2, 13.4, 13.5 and
13.8, the opcode map (Table 13.10) and little-endian words (R237). -/

namespace Sys2Proof

/-- `n` bits of a word from bit `lo`. -/
def bitsAt (w : Dbl) (lo n : Nat) : BitVec n := w.extractLsb' lo n

/-- Register form (Table 13.2). -/
def parseReg (w : Dbl) : RegWord :=
  { d := bitsAt w 48 8, a := bitsAt w 40 8, b := bitsAt w 32 8, c := bitsAt w 24 8, mod := bitsAt w 17 7, gp := bitsAt w 14 3,
    gn := bitsAt w 13 1, sb := bitsAt w 10 3, lu := bitsAt w 7 3, ru := bitsAt w 4 3, fmt := bitsAt w 0 4 }

/-- Immediate layout (Table 13.4): IMM is bits [39:17] above bits [8:0] (R246). -/
def parseImm (w : Dbl) : ImmWord :=
  { d := bitsAt w 48 8, a := bitsAt w 40 8, imm := (bitsAt w 17 23 ++ bitsAt w 0 9).setWidth 32, gp := bitsAt w 14 3,
    gn := bitsAt w 13 1, sb := bitsAt w 10 3, lua := bitsAt w 9 1 }

/-- Memory layout (Table 13.5). -/
def parseMem (w : Dbl) : MemWord :=
  { d := bitsAt w 48 8, a := bitsAt w 40 8, seg := bitsAt w 37 3, off := bitsAt w 23 14, mfmt := bitsAt w 19 4, ord := bitsAt w 17 2,
    gp := bitsAt w 14 3, gn := bitsAt w 13 1, sb := bitsAt w 10 3, lua := bitsAt w 9 1, lud := bitsAt w 8 1, oen := bitsAt w 7 1,
    osc := bitsAt w 4 3, fmt := bitsAt w 0 4 }

/-- One half whose lowest bit is `lo` (Table 13.8). -/
def parseHalf (w : Dbl) (lo : Nat) : HalfOp :=
  { hop := bitsAt w (lo + 26) 6, d := bitsAt w (lo + 20) 6, a := bitsAt w (lo + 14) 6, b := bitsAt w (lo + 8) 6,
    lu := bitsAt w (lo + 6) 2, hmod := bitsAt w lo 6 }

/-- Clause header (Table 13.1); none when MARK is not 0xF. -/
def parseHeader (w : Dbl) : Option Header :=
  if bitsAt w 60 4 == 0xF#4 then
    some { cls := bitsAt w 58 2, count := bitsAt w 54 4, pairmap := bitsAt w 38 16, wait := bitsAt w 32 6,
           join := w.getLsbD 31, yield := w.getLsbD 30, stall := bitsAt w 0 30 }
  else none

/-- The opcodes that use the register form (Table 13.10). -/
def regOp (op : Nat) : Option (RegWord → Instr) :=
  match op with
  | 0x00 => some .nop
  | 0x01 => some .mov
  | 0x04 => some .iadd
  | 0x05 => some .isub
  | 0x06 => some .iadd3
  | 0x07 => some .imul
  | 0x08 => some .imulhi
  | 0x09 => some .imad
  | 0x0A => some .imadw
  | 0x0B => some .iabs
  | 0x0C => some .imin
  | 0x0D => some .imax
  | 0x0E => some .idiv
  | 0x0F => some .irem
  | 0x10 => some .and
  | 0x11 => some .or
  | 0x12 => some .xor
  | 0x13 => some .not
  | 0x14 => some .lop3
  | 0x15 => some .shl
  | 0x16 => some .shr
  | 0x17 => some .sar
  | 0x18 => some .shf
  | 0x19 => some .bfe
  | 0x1A => some .bfi
  | 0x1B => some .brev
  | 0x1C => some .clz
  | 0x1D => some .ctz
  | 0x1E => some .popc
  | 0x1F => some .prmt
  | 0x20 => some .icmp
  | 0x21 => some .sel
  | 0x22 => some .lea
  | 0x24 => some .pack
  | 0x25 => some .unpack
  | 0x26 => some .pand
  | 0x27 => some .pmov
  | 0x28 => some .cvt
  | 0x29 => some .rdsr
  | 0x2A => some .segrd
  | 0x2B => some .rdwp
  | 0x30 => some .fadd
  | 0x31 => some .fsub
  | 0x32 => some .fmul
  | 0x33 => some .ffma
  | 0x34 => some .fmin
  | 0x35 => some .fmax
  | 0x36 => some .fcmp
  | 0x37 => some .fclass
  | 0x38 => some .fround
  | 0x39 => some .fscale
  | 0x3A => some .fdot2
  | 0x3B => some .fdot4
  | 0x3C => some .lgdot4
  | 0x3D => some .hadd2
  | 0x3E => some .hmul2
  | 0x3F => some .hfma2
  | 0x40 => some .fdiv
  | 0x41 => some .frcp
  | 0x42 => some .frsq
  | 0x43 => some .fsqrt
  | 0x44 => some .fexp2
  | 0x45 => some .flog2
  | 0x46 => some .fsin
  | 0x47 => some .fcos
  | 0x48 => some .ftanh
  | 0x50 => some .vote
  | 0x51 => some .ballot
  | 0x52 => some .shfl
  | 0x53 => some .scan
  | 0x54 => some .redux
  | 0x55 => some .matchEq
  | 0x56 => some .isect
  | 0x57 => some .bexp
  | 0x62 => some .atom
  | 0x63 => some .red
  | 0x64 => some .scat
  | 0x68 => some .fence
  | 0x69 => some .cinv
  | 0x6A => some .cwb
  | 0x70 => some .cpy
  | 0x71 => some .cpyt
  | 0x72 => some .gath
  | 0x73 => some .psel
  | 0x74 => some .binit
  | 0x75 => some .barv
  | 0x76 => some .bwait
  | 0x77 => some .btest
  | 0x78 => some .gbar
  | 0x79 => some .nbar
  | 0x81 => some .brx
  | 0x83 => some .ret
  | 0x84 => some .join
  | 0x85 => some .exit
  | 0x86 => some .tail
  | 0x87 => some .yield
  | 0x89 => some .tret
  | 0x8B => some .psig
  | 0x8C => some .gang
  | 0x90 => some .chapp
  | 0x91 => some .tsub
  | 0x92 => some .chsq
  | 0x93 => some .sqwait
  | 0x94 => some .vset
  | 0x95 => some .vclr
  | 0x96 => some .vinfo
  | 0x97 => some .pshare
  | 0x98 => some .prel
  | 0x99 => some .rgrow
  | 0x9A => some .rshrink
  | 0x9B => some .srd
  | 0xA0 => some .dld
  | 0xA1 => some .dsv
  | 0xA2 => some .mma
  | 0xA3 => some .mmab
  | 0xA4 => some .mmas
  | 0xA5 => some .mwait
  | 0xA6 => some .mprog
  | 0xA7 => some .mzero
  | 0xA8 => some .halt
  | 0xB0 => some .bmode
  | 0xB1 => some .segld
  | 0xB2 => some .pgattr
  | 0xB3 => some .tlbi
  | 0xB4 => some .srw
  | 0xB5 => some .frz
  | _ => none

/-- The opcodes marked † that use the immediate layout; 0x88 is split by SET (R376). -/
def immOp (op : Nat) : Option (ImmWord → Instr) :=
  match op with
  | 0x02 => some .movi
  | 0x03 => some .movhi
  | 0x23 => some .idx
  | 0x80 => some .bra
  | 0x82 => some .call
  | 0x88 => some .trap
  | 0x8A => some .mark
  | 0xC0 => some .iaddImm
  | 0xC1 => some .isubImm
  | 0xC2 => some .imulImm
  | 0xC3 => some .iminImm
  | 0xC4 => some .imaxImm
  | 0xC5 => some .andImm
  | 0xC6 => some .orImm
  | 0xC7 => some .xorImm
  | 0xC8 => some .shlImm
  | 0xC9 => some .shrImm
  | 0xCA => some .sarImm
  | 0xCB => some .icmpImm
  | 0xCC => some .faddImm
  | 0xCD => some .fmulImm
  | 0xCE => some .fminImm
  | 0xCF => some .fmaxImm
  | _ => none

/-- The opcodes marked ‡ that use the memory layout. -/
def memOp (op : Nat) : Option (MemWord → Instr) :=
  match op with
  | 0x60 => some .ld
  | 0x61 => some .st
  | 0x65 => some .pref
  | 0x66 => some .ldm
  | 0x67 => some .stm
  | _ => none
/-- Why a word of a clause is not accepted (R253, R259). -/
inductive DecodeError where
  /-- the opcode is unassigned (R253) -/
  | unassigned (op : BitVec 8)
  /-- 0xF0-0xFF begins a header and is no opcode (R253) -/
  | headerCode
  /-- the word breaks a check of R259 -/
  | bad (b : BadWord)
  /-- fewer than eight bytes -/
  | short
  deriving DecidableEq, Repr

/-- The instruction that an opcode and the fields of its layout name, before the checks. -/
def rawDecode (w : Dbl) : Except DecodeError Instr :=
  let op := bitsAt w 56 8
  match regOp op.toNat with
  | some f => .ok (f (parseReg w))
  | none =>
    match immOp op.toNat with
    | some f => .ok (if op == 0x88#8 && (parseImm w).d == 1#8 then .trapSet (parseImm w) else f (parseImm w))
    | none =>
      match memOp op.toNat with
      | some f => .ok (f (parseMem w))
      | none => if 0xF0 ≤ op.toNat then .error .headerCode else .error (.unassigned op)

/-- A body word of a clause of CLASS `k`; `paired` is its PAIRMAP bit. -/
def decode (k : Cls) (paired : Bool) (w : Dbl) : Except DecodeError Instr :=
  match (if paired then .ok (.pairedWord (parseHalf w 32) (parseHalf w 0)) else rawDecode w) with
  | .error e => .error e
  | .ok i =>
    match i.bad k with
    | none => .ok i
    | some b => .error (.bad b)

/-- Eight bytes as a little-endian word (R6). -/
def wordOfBytes : List Byte → Option (Dbl × List Byte)
  | b0 :: b1 :: b2 :: b3 :: b4 :: b5 :: b6 :: b7 :: r => some ((b7 ++ b6 ++ b5 ++ b4 ++ b3 ++ b2 ++ b1 ++ b0 : BitVec 64), r)
  | _ => none

/-- A body word from bytes in ascending addresses, and the bytes after it. -/
def decodeBytes (k : Cls) (paired : Bool) (bytes : List Byte) : Except DecodeError (Instr × List Byte) :=
  match wordOfBytes bytes with
  | none => .error .short
  | some (w, r) =>
    match decode k paired w with
    | .error e => .error e
    | .ok i => .ok (i, r)

/-- The low `n` bytes of a word, lowest first. -/
def bytesOf (n : Nat) (x : Nat) : List Byte :=
  match n with
  | 0 => []
  | m + 1 => BitVec.ofNat 8 x :: bytesOf m (x / 256)

/-- The word of a register form. -/
def packReg (op : BitVec 8) (w : RegWord) : Dbl :=
  op ++ w.d ++ w.a ++ w.b ++ w.c ++ w.mod ++ w.gp ++ w.gn ++ w.sb ++ w.lu ++ w.ru ++ w.fmt
/-- The word of an immediate layout. -/
def packImm (op : BitVec 8) (w : ImmWord) : Dbl :=
  op ++ w.d ++ w.a ++ w.imm.extractLsb' 9 23 ++ w.gp ++ w.gn ++ w.sb ++ w.lua ++ w.imm.extractLsb' 0 9
/-- The word of a memory layout. -/
def packMem (op : BitVec 8) (w : MemWord) : Dbl :=
  op ++ w.d ++ w.a ++ w.seg ++ w.off ++ w.mfmt ++ w.ord ++ w.gp ++ w.gn ++ w.sb ++ w.lua ++ w.lud ++ w.oen ++ w.osc ++ w.fmt
/-- One half of a paired word. -/
def packHalf (h : HalfOp) : Word := h.hop ++ h.d ++ h.a ++ h.b ++ h.lu ++ h.hmod
/-- The header word. -/
def packHeader (h : Header) : Dbl :=
  0xF#4 ++ h.cls ++ h.count ++ h.pairmap ++ h.wait ++ BitVec.ofBool h.join ++ BitVec.ofBool h.yield ++ h.stall

/-- The word of an instruction; none for an event, which has no encoding. -/
def encode (i : Instr) : Option Dbl :=
  match i.layout, i.spec with
  | .reg w, some sp => some (packReg sp.op w)
  | .imm w, some sp => some (packImm sp.op w)
  | .mem w, some sp => some (packMem sp.op w)
  | .pair l r, _ => some (packHalf l ++ packHalf r)
  | _, _ => none

/-- The CLASS in which a word is stored for a single fetch: vector, and compositor for words that only CLASS 1 accepts. -/
def tableClass (w : Dbl) : Cls :=
  match decode .vector false w with
  | .ok _ => .vector
  | .error _ => .compositor

/-- The clause that stands for a table word: the word alone in a clause of its CLASS, or, when the low 64 bits are a clause
header, that clause with the next 64 bits as body word 1. -/
def tableClause (w : Nat) : Header × Dbl :=
  let lo := BitVec.ofNat 64 w
  match parseHeader lo with
  | some h => (h, BitVec.ofNat 64 (w >>> 64))
  | none =>
    let k := tableClass lo
    ({ cls := if k = .vector then 0#2 else 1#2, count := 0#4, pairmap := 0#16, wait := 0#6,
       join := bitsAt lo 56 8 == 0x84#8, yield := false, stall := 0#30 }, lo)

/-- The executed CLASS of a header. -/
def Header.klass (h : Header) : Option Cls :=
  if h.cls == 0#2 then some .vector else if h.cls == 1#2 then some .compositor else none

/-- The PAIRMAP bit of body word `j` (from 1). -/
def Header.paired (h : Header) (j : Nat) : Bool := h.pairmap.getLsbD (j - 1)

/-- The instruction of a table word, laid out little-endian and read back by the decoder. Bits above `nbits` are zero. -/
def decodeTableWord (nbits w : Nat) : Option Instr :=
  let (h, x) := tableClause (w % 2 ^ (max nbits 64))
  match h.klass with
  | none => none
  | some k =>
    match decodeBytes k (h.paired 1) (bytesOf 8 x.toNat) with
    | .ok (i, _) => some i
    | .error _ => none

end Sys2Proof
end

