-- ==== Sys2Proof/Machine/State.lean ====
section
/-! DEFINITION. The state of the package as plain data: memories, hub registers, node table, contexts on bindings, engines,
recorders, host side. Sparse tables are lists of (number, entry) with rising numbers. -/

namespace Sys2Proof.Machine

/-- A sparse table: (key, entry), keys strictly rising; an absent key has the table's default. -/
abbrev Table (α : Type) := List (Nat × α)

/-- Bytes by address in one canonical form (Host.Cell): addresses strictly rising, no entry equal to 0, which is what an
unlisted address reads as (notes/assumptions/2.md). -/
abbrev Memory := List Host.Cell

/-- The canonical form of a memory. -/
def Memory.wf (m : Memory) : Bool :=
  match m with
  | [] => true
  | [c] => decide (c.2 ≠ 0#8)
  | c :: d :: r => decide (c.2 ≠ 0#8) && decide (c.1 < d.1) && Memory.wf (d :: r)

/-- Four numbers, one per dimension of an index space (R23). -/
structure Quad where
  d0 : Nat
  d1 : Nat
  d2 : Nat
  d3 : Nat
  deriving DecidableEq, Repr

/-- A box of items, bounds inclusive (R24). -/
structure Box where
  lo : Quad
  hi : Quad
  deriving DecidableEq, Repr

/-- A register form (R25): b + c0·i0 + c1·i1 + c2·i2 + c3·i3; form U when every coefficient is zero. -/
structure Form where
  b : Dbl
  c0 : Dbl
  c1 : Dbl
  c2 : Dbl
  c3 : Dbl
  deriving DecidableEq, Repr

/-- One row of a trunk or limb (R25): a form, or the mark of a pair's high half with the pair's form, which the row keeps when the even
register takes another. -/
inductive FormCell where
  | form (f : Form)
  | high (f : Form)
  deriving DecidableEq, Repr

/-- A predicate of a trunk or limb (R28). -/
inductive SPred where
  | uni (b : Bool)
  | range (axis lo hi : Nat) (out : Bool)
  deriving DecidableEq, Repr

/-- A segment register (R75, Table 4.4). -/
structure Seg where
  base : Dbl
  limit : Word
  en : Bool
  deriving DecidableEq, Repr

/-- Trap state (Table 8.5) and TRRET (R375). `whole`: the trap was precise in a trunk or limb, whose clause runs again from its first
word whatever the context has become since (R241). `start` and `skip`: of the path at a clause boundary whose clause is one that it
resumes (R241). -/
structure TrapState where
  code : BitVec 8
  pc : Dbl
  word : BitVec 5
  addr : Dbl
  bva : Dbl
  mask : Word
  log : BitVec 4
  ret : Dbl
  whole : Bool := false
  start : Nat := 0
  skip : Nat := 0
  deriving DecidableEq, Repr

/-- What a path waits for at a clause boundary. -/
inductive Wait where
  | none
  /-- `gbar`: generation of the group barrier (R306) -/
  | groupBar (gen : Word)
  /-- `gbar.gang`: token (R306) -/
  | gangBar (gen : Word)
  /-- `nbar.sync` (R340) -/
  | named (id : Nat) (gen : Word)
  /-- `bwait`: store key of the object, awaited parity, scope gang, destination and slots (R275) -/
  | object (key : Nat) (phase : Bool) (gangScope : Bool) (dst : BitVec 8) (slots : Word)
  /-- `sqwait` (R366) -/
  | chain (chain : Nat) (q : Nat) (dst : BitVec 8) (slots : Word)
  /-- `rgrow` (R360) -/
  | grow (granules : Nat) (dst : BitVec 8) (slots : Word) (since : Nat)
  /-- `mwait` (R335): operations that may remain -/
  | matrix (n : Nat)
  /-- CLASS 1 `halt` (R311) -/
  | halting
  /-- a limb at a join point (R31) -/
  | joining
  /-- a fetch is parked: until a frame is scanned (R162), or at a fault unit (R237) -/
  | fetching (scan : Option Nat)
  /-- after `psig`, until the save (R353) -/
  | saving
  deriving DecidableEq, Repr

/-- A path of a warp (R39). -/
structure Path where
  id : Nat
  mask : Word
  pc : Dbl
  age : Nat
  /-- header of the clause that it ended last (R261) -/
  came : Dbl
  /-- body word at which the clause at pc is resumed, WAIT not tested again (R241); 0 ordinarily -/
  start : Nat
  /-- body word that the resumed clause passes over (`tret.skip` of a trap in a trunk or limb, R241); 0 ordinarily -/
  skip : Nat := 0
  /-- return stack, top first (R281) -/
  stack : List Dbl
  /-- clause counter (R240) -/
  ctr : Nat
  wait : Wait
  /-- a fault of a fetch that waits to be delivered (R237, R261) -/
  deliver : Option TrapState
  /-- a trap of the matrix unit to be delivered at the next clause boundary (R194) -/
  msparse : Option TrapState := none
  /-- the pc was reached as an ENTRY or handler entry that no handler can receive a failure of (R261) -/
  entry : Bool
  deriving DecidableEq, Repr

/-- One register write of a word, staged (R37). -/
inductive RegWrite where
  | v (slot n : Nat) (x : Word)
  | s (n : Nat) (x : Word)
  | p (slot k : Nat) (b : Bool)
  | x (n : Nat) (x : Dbl)
  | d (n : Nat) (x : Slot512)
  /-- MPROG of the cluster as it stands at the commit, to x register n (R336) -/
  | mprog (n : Nat)
  /-- a row of a trunk or limb: register, pair, form (R25) -/
  | form (n : Nat) (pair : Bool) (f : Form)
  | spred (k : Nat) (p : SPred)
  deriving DecidableEq, Repr

/-- A variable-latency word whose results are not committed (R240). -/
structure Inflight where
  serial : Nat
  /-- 0-5, or 7 for the clause counter -/
  sb : Nat
  path : Nat
  writes : List RegWrite
  flags : Word
  /-- physical sector of poisoned data it would commit (R207); a store word counts as sector 0 (Table 11.1) -/
  poison : Option Nat
  deriving DecidableEq, Repr

/-- Where one byte of an access lies. -/
inductive Loc where
  | phys (pa : Nat)
  | store (key : Nat)
  /-- a byte of another package: package·2^48 + PA -/
  | peer (key : Nat)
  /-- every unfailed replica of a byte (R160), the descriptor's PA, and the one a load reads -/
  | replicas (desc off : Nat) (keys : List Nat)
  /-- an out-of-bounds element under OOB = ZERO (R96) -/
  | zero
  deriving DecidableEq, Repr

/-- Where an access goes: for each byte its location and the coherence state of its page (3 for a byte of no page of this package),
the leaf entries to be marked dirty, and the shadow address it names. -/
structure Target where
  bytes : List Loc
  csts : List Nat
  leaves : List Nat
  shadow : Option Nat
  deriving DecidableEq, Repr

/-- The captured operands of one slot of a memory word, and in the operand log its translated addresses where the slot did not fault
(R149, R240). -/
structure Req where
  slot : Nat
  addr : Int
  a : Dbl
  b : Dbl
  c : Dbl
  data : BitVec 128
  /-- the bytes of the data written to memory that come from poisoned register words (R207) -/
  bads : List Bool := []
  got : Option Target := none
  deriving DecidableEq, Repr

/-- State of an operand-log entry. -/
inductive LogState where
  /-- at a fault unit or in the driver's queue -/
  | parked
  /-- resolved, to be replayed (R151) -/
  | resolved
  /-- reached software, to be delivered at a clause boundary of its path (R148) -/
  | toDeliver
  /-- held for a handler (R150) -/
  | held
  deriving DecidableEq, Repr

/-- Operand-log entry (R149). -/
structure LogEntry where
  serial : Nat
  word : Instr
  reqs : List Req
  path : Nat
  pc : Dbl
  pos : Nat
  sb : Nat
  state : LogState
  code : BitVec 8
  addr : Dbl
  bva : Dbl
  mask : Word
  /-- active mask and guard mask at issue (R149) -/
  active : Word
  guarded : Word
  /-- page (VA over 65,536) that stays resident until the replay has translated (R151) -/
  kept : Option Nat := none
  /-- the lowest register that `rshrink` has freed since the word issued: its writes from there on are dropped (R361) -/
  limit : Option Nat := none
  deriving DecidableEq, Repr

/-- Kinds of context (Table 2.5), and the compositor program. -/
inductive CtxKind where
  | trunk | limb | warp | leaf | comp
  deriving DecidableEq, Repr

/-- Where a context stands in pre-emption (R59). -/
inductive PreState where
  | none
  | handler
  | declared (k j : Nat)
  deriving DecidableEq, Repr

/-- A context on a binding: trunk, limb, warp, leaf warp (R24), or a compositor program (R184, lane 512). -/
structure Ctx where
  /-- a number no other context of the run has -/
  uid : Nat
  kind : CtxKind
  node : Nat
  cluster : Nat
  lane : Nat
  bind : Nat
  tenant : Nat
  priv : Bool
  box : Box
  /-- number, in packing order of `box`, of the item of slot 0 (R33) -/
  base : Nat
  launched : Word
  exited : Word
  warpNo : Nat
  /-- key of its group in the group table, for warps and leaf warps -/
  group : Option Nat
  /-- granule map (R71) -/
  map : List Nat
  s : Table Word
  /-- p0-p6: one bit per slot -/
  p : Table Word
  forms : Table FormCell
  sp : Table SPred
  x : Table Dbl
  d : Table Slot512
  /-- segments G S W D K F (Table 4.4) -/
  segs : List Seg
  paths : List Path
  /-- sb0-sb5 -/
  sb : List Nat
  inflight : List Inflight
  /-- operand log: entry number 0-7 -/
  log : Table LogEntry
  astat : Word
  thand : Dbl
  trap : Option TrapState
  /-- slots of each register that a last-use bit freed (R73) -/
  dead : Table Word
  /-- by pc: a-cycle of the first arrival at each join point that it has reached and not passed (R31) -/
  joinAt : Table Nat
  /-- the join point it has passed, so that its clause runs (R320) -/
  joined : Option Dbl
  /-- it goes on alone (R31) -/
  alone : Bool
  /-- it materialises at its next clause (R32, R59) -/
  must : Bool
  /-- a part of a materialised limb: the number of its group (R33); `rest` is its first item without a warp -/
  part : Option Nat
  rest : Option Nat
  pre : PreState
  /-- the path of the slot that a leaf warp runs until it exits or waits (R34) -/
  running : Option Nat := none
  /-- serial numbers of the logged words that replay before it issues again after a save (R152) -/
  owed : List Nat := []
  /-- stopped by a kill or by the end of its launch -/
  stopped : Bool
  deriving DecidableEq, Repr

/-- What a clause of a trunk or limb has staged (R29): rows and predicates that changed, flags raised, registers freed. -/
structure Stage where
  forms : Table FormCell
  sp : Table SPred
  s : Table Word
  flags : Word
  dead : List Nat
  deriving DecidableEq, Repr

/-- The clause in progress on a lane: header and body as fetched (R237), the next word, the staging of a trunk. -/
structure Clause where
  bind : Nat
  path : Nat
  pc : Dbl
  header : Dbl
  words : List Dbl
  pos : Nat
  stage : Option Stage
  /-- the word at `pos` stands in the operand log and holds the path until its entry has replayed (R379) -/
  await : Bool := false
  deriving DecidableEq, Repr

/-- An entry of a lane's reuse latch: binding, path and register (R74). -/
structure Latch where
  bind : Nat
  path : Nat
  reg : Nat
  deriving DecidableEq, Repr

/-- A lane (R57), or the compositor of a cluster (lane 512). -/
structure Lane where
  last : Nat
  yielded : Bool
  run : Nat
  clause : Option Clause
  latch : List Latch
  deriving DecidableEq, Repr

/-- A named barrier (R340). -/
structure Named where
  exp : Nat
  cnt : Nat
  gen : Word
  deriving DecidableEq, Repr

/-- A placed group (R41, R77, R304); for a compositor program, an entry that holds its scratch alone (R185). -/
structure Group where
  node : Nat
  number : Nat
  box : Box
  cluster : Nat
  /-- scratch allocation: store address and KiB; size 0 holds none -/
  base : Nat
  kib : Nat
  gang : Option Nat
  gen : Word
  /-- linear numbers of the items that arrived in `gen` -/
  arrived : List Nat
  named : Table Named
  nextWarp : Nat
  age : Nat
  freed : Bool
  /-- it is in its launch's save area, with its scratch: it holds no bank (R60) -/
  saved : Bool
  deriving DecidableEq, Repr

/-- A placed gang (R50, R304); `relaunchable` by R209. For a group of no gang this entry serves it alone. -/
structure Gang where
  node : Nat
  number : Nat
  box : Box
  members : List Nat
  gen : Word
  arrived : List Nat
  relaunchable : Bool
  deriving DecidableEq, Repr

/-- Where a node stands. -/
inductive NodeState where
  | waiting | ready | running | finished
  deriving DecidableEq, Repr

/-- One footprint range in base or peer space (R44, R103). -/
structure Foot where
  lo : Nat
  hi : Nat
  write : Bool
  deriving DecidableEq, Repr

/-- An entry of the node table (R43, R47). -/
structure Node where
  chain : Nat
  seq : Nat
  tenant : Nat
  priv : Bool
  kind : NodeKind
  prio : Nat
  rscope : Nat
  payloadVa : Dbl
  /-- VA of its completion record; none for a node whose acceptance found no address that can be written (R45) -/
  crec : Option Dbl
  waitEn : Bool
  waitChan : Nat
  waitSeq : Dbl
  phandler : Dbl
  place : BitVec 128
  feet : List Foot
  /-- owned view slots that its footprints name (R91 check 9) -/
  slots : List Nat
  /-- its payload as copied at acceptance, in doubles -/
  payload : List Dbl
  state : NodeState
  accept : Nat
  /-- accept numbers of its predecessors that are not complete -/
  preds : List Nat
  predFailed : Bool
  readyAt : Nat
  /-- f-cycle since which it has been passed over (R50) -/
  passedAt : Option Nat
  blocking : Bool
  code : BitVec 8
  detail : BitVec 48
  /-- code and DETAIL of the first engine operation of a kernel that failed, unless the node fails otherwise (R152, R201) -/
  engineFail : Option (BitVec 8 × BitVec 48)
  relaunches : Nat
  /-- boxes of trunks and limbs that made a release which ends relaunchability, before their gangs were placed (R209) -/
  released : List Box
  /-- the fault for which its completion record cannot be written (R46) -/
  noRecord : Option (BitVec 8)
  /-- recorder that received its dispatch (R396) -/
  recv : Option Nat
  deriving DecidableEq, Repr

/-- A page fault parked at a fault unit (R150, R153, R156). -/
inductive Who where
  | log (ctx entry : Nat)
  | fetch (ctx path : Nat)
  | chan (cluster channel : Nat)
  | gather (cluster : Nat)
  | matrix (cluster : Nat)
  | coll (hub : Nat)
  | record (node : Nat)
  | walker (chain : Nat)
  /-- a view line in a core's merge buffer that cannot be written yet (R112) -/
  | line (core tenant line : Nat)
  deriving DecidableEq, Repr

structure PFault where
  who : Who
  code : BitVec 8
  tenant : Nat
  /-- base VA that faulted -/
  va : Dbl
  /-- address to be reported: the shadow address for views -/
  addr : Dbl
  /-- 0 read, 1 write, 2 atomic, 3 fetch, 4 engine (R228) -/
  access : Nat
  /-- it goes to the driver's fault queue -/
  toDriver : Bool
  /-- position in the driver's fault queue, once written there -/
  queued : Option Nat
  deriving DecidableEq, Repr

/-- A byte stored to a merge-buffer line: its offset, the context that stored it, whether that one may use pages of U = 0 (R255),
whether the byte is poisoned (R207). -/
structure LineByte where
  off : Nat
  byte : Byte
  owner : Nat
  priv : Bool
  bad : Bool
  deriving DecidableEq, Repr

/-- A merge-buffer line (R80): core 0-1151 (9·cluster + core, 8 the compositor), its address (a PA line, or a shadow line of a
tenant, or a peer line), the bytes stored, and when its first store entered. A context has at most one byte at an offset; of several at
one offset the last is the line's byte, the others stand where the last is discarded (R137). -/
structure MergeLine where
  core : Nat
  space : Nat
  tenant : Nat
  line : Nat
  stores : List LineByte
  since : Nat
  deriving DecidableEq, Repr

/-- A cached sector of a cluster: span LO and HI are physical sector numbers (R114); a base sector has LO = HI. -/
structure Sector where
  bytes : Memory
  lo : Nat
  hi : Nat
  swc : Bool
  deriving DecidableEq, Repr

/-- A cluster-cache line (R79): base line (`view` none) or the shadow line of a view slot. -/
structure CacheLine where
  cluster : Nat
  /-- the CACHE bank that holds it -/
  way : Nat
  view : Option Nat
  line : Nat
  sectors : Table Sector
  deriving DecidableEq, Repr

/-- An interval of a span filter (R116). -/
structure Span where
  hub : Nat
  lo : Nat
  hi : Nat
  mask : BitVec 128
  deriving DecidableEq, Repr

/-- A unit that caches translations (R144, R145, R107). -/
inductive TlbUnit where
  | core (n : Nat)
  | walk (cluster : Nat)
  | hub (n : Nat)
  deriving DecidableEq, Repr

/-- A cached translation: the entry as loaded and the PA it was loaded from. `ahead`: loaded by a walk ahead that no access has
reached yet (R143, R145). -/
structure TlbEntry where
  unit : TlbUnit
  tenant : Nat
  page : Nat
  size : Nat
  entry : BitVec 128
  at_ : Nat
  ahead : Bool
  deriving DecidableEq, Repr

/-- An installed view (R90): the sixteen doubles of its descriptor and its owner's address space. -/
structure View where
  words : List Dbl
  asid : Nat
  deriving DecidableEq, Repr

/-- One end of a copy: an address of the tenant, or of a cluster's store. -/
inductive Place where
  | va (a : Int)
  | store (cluster : Nat) (a : Int)
  deriving DecidableEq, Repr

/-- A barrier object named by an operation: its store key, and the model's serial number when the operation was issued: later flips
have greater ones (R86). -/
structure ObjRef where
  key : Nat
  issued : Nat
  deriving DecidableEq, Repr

/-- A queued copy (R287, R288, R65). -/
structure CopyOp where
  src : Place
  dst : Place
  sstride : Int
  dstride : Int
  rowb : Nat
  rows : Nat
  wp : Nat
  started : Bool
  /-- VA of the tensor-copy record, read when the copy starts -/
  record : Option Dbl
  obj : Option ObjRef
  /-- the serial number at its issue (R86) -/
  issued : Nat
  node : Nat
  group : Option Nat
  owner : Nat
  tenant : Nat
  priv : Bool
  recorder : Nat
  held : Bool
  deriving DecidableEq, Repr

/-- A copy channel (R82, R356). -/
structure Chan where
  queue : List CopyOp
  wp : Nat
  count : Nat
  deriving DecidableEq, Repr

/-- An operation of a gather engine: a gather descriptor or a selector record (R199, R204), as eight doubles. -/
structure GatherOp where
  psel : Bool
  words : List Dbl
  va : Dbl
  /-- 128-byte destination units delivered -/
  units : List Nat
  /-- progress of a selector: 0 results to be written, then copied bytes -/
  phase : Nat
  chosen : List (Nat × Word)
  obj : Option ObjRef
  failed : Option (BitVec 8 × Dbl)
  linkLost : Bool
  node : Nat
  isNode : Bool
  group : Option Nat
  owner : Nat
  tenant : Nat
  priv : Bool
  recorder : Nat
  held : Bool
  /-- lines of other packages that have crossed the link for it (R201) -/
  crossed : List Nat := []
  /-- its node or launch has ended, by link loss or not: what is left is its DMAP and the end at its object (R200) -/
  closing : Option Bool := none
  deriving DecidableEq, Repr

/-- A collective operation (R232). -/
structure CollOp where
  node : Nat
  words : List Dbl
  tenant : Nat
  priv : Bool
  held : Bool
  deriving DecidableEq, Repr

/-- The matrix instructions that queue an operation (R332, R334). -/
inductive MatForm where
  | dense | block | sparse | zero
  deriving DecidableEq, Repr

/-- A queued matrix operation: its records as copied at issue (R187) and its issuing word (R194). -/
structure MatOp where
  form : MatForm
  c : Slot512
  a : Slot512
  b : Slot512
  pc : Dbl
  pos : Nat
  next : Dbl
  node : Nat
  tenant : Nat
  priv : Bool
  deriving DecidableEq, Repr

/-- A matrix unit (R191-R194): queue, MPROG, row band of the current pass, stopped by a trap or held by a fault. -/
structure Matrix where
  queue : List MatOp
  mprog : Dbl
  started : Bool
  rowBand : Nat
  /-- first row group of the current pass still to run after a restart (R193) -/
  from_ : Nat
  finished : Bool
  trapped : Bool
  held : Bool
  deriving DecidableEq, Repr

/-- A retirement-tracker entry (R42). -/
structure Tracker where
  cluster : Nat
  owner : Nat
  node : Nat
  group : Option Nat
  deriving DecidableEq, Repr

/-- A saved context: its rows that were kept, as (slot, register, value), and those that are poisoned (R60, R207). -/
structure SavedCtx where
  ctx : Ctx
  rows : List (Nat × Nat × Word)
  bad : List (Nat × Nat)
  deriving DecidableEq, Repr

/-- A saved unit of work in its launch's save area (R60, R186): its groups by key, as they stood before the save, and its contexts; or
a compositor's program, which returns to its cluster. The scratch of a saved group stands in `Mem.store` at the group's place in the
save area (`saveCluster`). -/
structure SavedUnit where
  node : Nat
  groups : List (Nat × Group)
  ctxs : List SavedCtx
  cluster : Nat
  /-- a COMP node's matrix unit -/
  matrix : Option Matrix
  /-- saved by the break of register growth: it is placed before any new group (R62) -/
  growth : Bool
  deriving DecidableEq, Repr

/-- A unit of work under pre-emption (R58, R59): a group (key) of its gang, the a-cycle of its first PREEMPT trap. -/
structure PreUnit where
  node : Nat
  group : Nat
  since : Option Nat
  forced : Bool
  growth : Bool
  deriving DecidableEq, Repr

/-- A cluster-level box that has been placed (R50): its number, and its cluster or the first cluster of its set. -/
structure PlacedBox where
  node : Nat
  level : Nat
  box : Nat
  cluster : Nat
  deriving DecidableEq, Repr

/-- A Galley record (Table 11.3). -/
structure Rec where
  cls : Nat
  code : BitVec 8
  tenant : Nat
  cyc : Word
  kind : Nat
  ctx : Nat
  payload : Dbl
  deriving DecidableEq, Repr

/-- A Galley recorder (R215, R216): records oldest first. -/
structure Recorder where
  recs : List Rec
  written : Nat
  stopped : Bool
  hop : Nat
  deriving DecidableEq, Repr

/-- The Proof held for retrieval (R218, R220). -/
structure Proof where
  pseq : Nat
  cause : Nat
  origin : Nat
  gen : Half
  later : Nat
  acked : Bool
  recorders : Table Recorder
  deriving DecidableEq, Repr

/-- A host function's mailbox (R227). -/
structure Mailbox where
  cmd : Dbl
  busy : Bool
  err : Nat
  result : Word
  data : List Byte
  deriving DecidableEq, Repr

/-- Memories and what caches them. `described`: PAs of frame descriptors that have been written since reset; the others read the reset value
of Table 8.7. -/
structure Mem where
  phys : Memory
  store : Memory
  host : Memory
  peer : Memory
  /-- metadata bits by sector number (R161); peer sectors by their key -/
  sectorMeta : Table (BitVec 28)
  poison : List Nat
  storePoison : List Nat
  merge : List MergeLine
  cache : List CacheLine
  directory : Table (BitVec 128)
  spans : List Span
  tlb : List TlbEntry
  resident : List Nat
  hot : Table Nat
  described : List Nat
  deriving DecidableEq, Repr

/-- The privileged register space but for CLS.BANKMODE (Table 16.13), and CHN.STAT.BADTAIL. -/
structure Hub where
  ilv : List Dbl
  drop : Dbl
  ready : Dbl
  chtbl : Dbl
  fdtBase : Dbl
  /-- HUB.FDT.BASE has been written since reset -/
  fdtOn : Bool
  bar2 : Dbl
  pwr : Dbl
  hotCtl : List Word
  hotSkip : List Word
  fast : List Nat
  cap : List Nat
  fqBase : Dbl
  fqCtl : Dbl
  fqHead : Dbl
  fqTail : Dbl
  peerSelf : Dbl
  peerDom : Dbl
  peerTmo : Dbl
  peerDown : Slot512
  vquota : List Word
  ptroot : List Dbl
  badTail : BitVec 256
  /-- f-cycle at which each hub's epoch began (R158) -/
  epoch : List Nat
  deriving DecidableEq, Repr

/-- Work of H0 and the clusters. -/
structure Work where
  nodes : Table Node
  acceptNo : Nat
  /-- (chain, sequence) complete and not passed by CSEQ -/
  done : List (Nat × Nat)
  /-- by chain: the position whose entry could not be read, and TAIL at that reading (R53) -/
  ringFault : Table (Nat × Nat)
  /-- contexts by binding: ((513·cluster + lane)·8 + binding) -/
  ctxs : Table Ctx
  /-- by 513·cluster + lane -/
  lanes : Table Lane
  groups : Table Group
  gangs : Table Gang
  placed : List PlacedBox
  /-- limbs without a binding, by cluster, first in first out (R30) -/
  limbQueue : List Ctx
  /-- leaf warps in the save area (R34) -/
  leafSaved : List SavedCtx
  trackers : List Tracker
  units : List PreUnit
  saved : List SavedUnit
  deriving DecidableEq, Repr

/-- Engines, banks and views. -/
structure Eng where
  /-- CLS.BANKMODE by 512·cluster + bank (Table 4.2) -/
  bank : Table Word
  /-- a-cycle at which a bank entered FILL -/
  fill : Table Nat
  /-- words waiting in a FIFO bank, each with its poison (R81, R207) -/
  fifo : Table (List (Word × Bool))
  /-- the model's serial number at the last flip of a barrier object, by store key (R86) -/
  flips : Table Nat
  /-- by 4·cluster + channel -/
  chans : Table Chan
  gathers : Table (List GatherOp)
  matrices : Table Matrix
  colls : Table (List CollOp)
  views : Table View
  /-- slots of this package whose descriptor stands at the far hub of their package (R118) -/
  farDesc : List Nat
  /-- descriptors that other packages have sent here, by 4,096·package + slot (R118) -/
  guests : Table View
  faults : Table PFault
  scans : List Nat
  /-- page-table entries in transit: the context whose `pgattr` marked it, and the PA of the entry (R136) -/
  transit : List (Nat × Nat)
  deriving DecidableEq, Repr

/-- A kill to be made: the boxes that the consuming context belongs to, and the DETAIL of Table 11.1 (R208, R210). -/
structure Kill where
  node : Nat
  box : Box
  cause : Nat
  cluster : Nat
  sector : Nat
  deriving DecidableEq, Repr

/-- Recorders, Proof and the state of failure handling. -/
structure Rel where
  galleys : Table Recorder
  pseq : Nat
  proof : Option Proof
  /-- the fatal event whose freeze is under way: cause, origin, PSEQ -/
  freezing : Option (Nat × Nat × Nat)
  halted : Bool
  /-- H0 is lost: no Proof is cut any more, and nothing does the work of the units that H0 alone holds (R13, R19) -/
  h0Lost : Bool
  fullFreeze : Bool
  /-- half-rate windows by domain: own cycles left, and the clock cycles (0 or 1) towards the next own cycle (R206) -/
  halves : Table (Nat × Nat)
  /-- cycles a domain did not count -/
  lost : Table Nat
  /-- issue is gated, above the power cap or 100 °C: timing only (R235) -/
  gated : Bool
  /-- issue has stopped, from above 110 °C until below 100 °C (R235) -/
  tooHot : Bool
  /-- kills to be made (R208) -/
  kills : List Kill
  /-- corrected errors by the recorder that counts them (R161) -/
  corrected : Table Nat
  /-- messages sent so far (R215) -/
  tags : Nat
  /-- tags of messages sent and not yet received, by what they announce (R396) -/
  messages : Table Nat
  /-- recorders that have received the last flip of an object, by its tag (R396) -/
  heard : Table (List Nat)
  deriving DecidableEq, Repr

/-- What the host and other parties see. -/
structure HostSide where
  mailboxes : Table Mailbox
  /-- (function, vector), oldest first -/
  msix : List (Nat × Nat)
  /-- data of the host's last read through BAR0 or BAR2 -/
  bar2Read : List Byte
  /-- data answered to the last peer request, and the fault code answered instead of data (R104) -/
  peerReply : List Byte
  /-- which bytes of the reply are poisoned (R111, R207) -/
  peerPoison : List Bool
  peerFault : Option Nat
  mgmtOut : List (List Byte)
  deriving DecidableEq, Repr

/-- One move of the agenda: cycles pass, a lane (512: the compositor) issues, or a device, host or firmware event happens. -/
inductive Move where
  | tick (a f : Nat)
  | lane (cluster lane : Nat)
  | event (i : Instr)
  /-- a check finds an error in a sector (by sector number) or a store word (by key) whose own code can or cannot correct it: `kind` 0
  one bit, 1 one symbol, 2 more (R161, R207, notes/assumptions/84.md) -/
  | error (store : Bool) (at_ kind : Nat)
  /-- an unplanned loss of a hub, which a recorder sees (R19, Table 11.4, notes/assumptions/114.md) -/
  | hubLoss (hub recorder : Nat)
  deriving DecidableEq, Repr

/-- The whole package. `agenda`, `issuer` and `serial` are the model's own (notes/assumptions/1.md). -/
structure State where
  mem : Mem
  hub : Hub
  work : Work
  eng : Eng
  rel : Rel
  out : HostSide
  aCyc : Nat
  fCyc : Nat
  agenda : List Move
  /-- cluster and lane of the agent that issues -/
  issuer : Option (Nat × Nat)
  serial : Nat
  deriving DecidableEq, Repr

/-- Why the model stops. -/
inductive Fault where
  /-- Raised by the meaning of a word when no context of the word's CLASS is issuing (no fitting clause in progress on the issuer's
  lane). No step raises it. Safe: the hardware has no such situation. -/
  | noIssuer
  deriving DecidableEq, Repr

/-- Why the model refuses. -/
inductive Refusal where
  /-- Answered by an arm of exec that has no meaning yet. Safe. -/
  | notModelled (mnemonic : String)
  /-- Answered by step when the word at the issuer's position does not decode in its clause's CLASS. R253: no such word is ever
  executed, because its frame fails the scan. Safe. -/
  | notDecodable (word : Dbl)
  deriving DecidableEq, Repr

/-- Reset values of memories: nothing listed. -/
def Mem.reset : Mem :=
  { phys := [], store := [], host := [], peer := [], sectorMeta := [], poison := [], storePoison := [], merge := [],
    cache := [], directory := [], spans := [], tlb := [], resident := [], hot := [], described := [] }

/-- Reset values of Tables 5.1, 6.1, 8.2, 8.6, 11.2 and R230, R231, R235; zero where none is given (notes/assumptions/6.md). -/
def Hub.reset : Hub :=
  { ilv := List.replicate 4 0x000CBA9876543210#64, drop := 0#64, ready := 0#64, chtbl := 0#64, fdtBase := 0#64, fdtOn := false,
    bar2 := 0#64, pwr := 2400#64, hotCtl := List.replicate 4 0x1040#32, hotSkip := List.replicate 4 0#32, fast := [],
    cap := [], fqBase := 0#64, fqCtl := 0#64, fqHead := 0#64, fqTail := 0#64, peerSelf := 0#64, peerDom := 1#64,
    peerTmo := 1000#64, peerDown := 0#512, vquota := List.replicate 16 0#32, ptroot := List.replicate 16 0#64,
    badTail := 0#256, epoch := List.replicate 4 0 }

/-- The machine right after reset, before bring-up (R234). -/
def State.reset : State :=
  { mem := Mem.reset, hub := Hub.reset,
    work := { nodes := [], acceptNo := 0, done := [], ringFault := [], ctxs := [], lanes := [], groups := [], gangs := [], placed := [],
              limbQueue := [], leafSaved := [], trackers := [], units := [], saved := [] },
    eng := { bank := [], fill := [], fifo := [], flips := [], chans := [], gathers := [], matrices := [], colls := [],
             views := [], farDesc := [], guests := [], faults := [], scans := [], transit := [] },
    rel := { galleys := [], pseq := 0, proof := none, freezing := none, halted := false, h0Lost := false, fullFreeze := false, halves := [],
             lost := [], gated := false, tooHot := false, kills := [], corrected := [], tags := 0, messages := [], heard := [] },
    out := { mailboxes := [], msix := [], bar2Read := [], peerReply := [], peerPoison := [], peerFault := none, mgmtOut := [] },
    aCyc := 0, fCyc := 0, agenda := [], issuer := none, serial := 0 }

end Sys2Proof.Machine
end

