-- ==== Sys2Proof/Machine/Ops.lean ====
section
/-! DEFINITION. The named operations over State: tables, memories, the rows of registers in the cluster store, contexts and
paths, Galley records, the end of a launch, and taking and leaving a fault or trap. -/

namespace Sys2Proof.Machine

/-! Tables -/

/-- The entry at key `k`. -/
def Table.look {α : Type} (t : Table α) (k : Nat) : Option α :=
  match t with
  | [] => none
  | (j, x) :: r => if j = k then some x else Table.look r k

/-- Put an entry, keeping the keys rising. -/
def Table.put {α : Type} (t : Table α) (k : Nat) (x : α) : Table α :=
  match t with
  | [] => [(k, x)]
  | (j, y) :: r => if k < j then (k, x) :: (j, y) :: r else if k = j then (k, x) :: r else (j, y) :: Table.put r k x

/-- Remove an entry. -/
def Table.del {α : Type} (t : Table α) (k : Nat) : Table α := t.filter fun e => e.1 != k

/-- Change an entry that is there. -/
def Table.change {α : Type} (t : Table α) (k : Nat) (f : α → α) : Table α :=
  t.map fun e => if e.1 = k then (e.1, f e.2) else e

/-- A list as its distinct members, first occurrences kept. -/
def nubNat (l : List Nat) : List Nat := l.foldl (fun acc x => if acc.contains x then acc else acc ++ [x]) []

/-- The entries that satisfy a test. -/
def Table.having {α : Type} (t : Table α) (p : α → Bool) : Table α := t.filter fun e => p e.2

/-- The lowest key below `n` that is not in the table. -/
def Table.freeBelow {α : Type} (t : Table α) (n : Nat) : Option Nat :=
  (List.range n).find? fun k => (t.look k).isNone

/-! Bytes -/

/-- The byte at an address; 0 where none is listed. -/
def Memory.byte (m : Memory) (a : Nat) : Byte :=
  match m with
  | [] => 0#8
  | (k, x) :: r => if k = a then x else Memory.byte r a

/-- Write one byte, keeping the canonical form: writing 0 removes the entry. -/
def Memory.poke (m : Memory) (a : Nat) (x : Byte) : Memory :=
  match m with
  | [] => if x = 0#8 then [] else [(a, x)]
  | (k, y) :: r =>
    if a < k then (if x = 0#8 then (k, y) :: r else (a, x) :: (k, y) :: r)
    else if a = k then (if x = 0#8 then r else (k, x) :: r)
    else (k, y) :: Memory.poke r a x

/-- `n` bytes from an address, lowest first. -/
def Memory.bytes (m : Memory) (a n : Nat) : List Byte := (List.range n).map fun i => m.byte (a + i)

/-- Write bytes from an address on, lowest first. -/
def Memory.pokes (m : Memory) (a : Nat) (bs : List Byte) : Memory :=
  match bs with
  | [] => m
  | b :: r => Memory.pokes (m.poke a b) (a + 1) r

/-- Write zero to `n` bytes. -/
def Memory.clear (m : Memory) (a n : Nat) : Memory := m.filter fun c => !(decide (a ≤ c.1) && decide (c.1 < a + n))

/-- Bytes as a little-endian number (R6). -/
def leNat : List Byte → Nat
  | [] => 0
  | b :: r => b.toNat + 256 * leNat r

/-- A little-endian number of `n` bytes. -/
def Memory.num (m : Memory) (a n : Nat) : Nat := leNat (m.bytes a n)

/-- A little-endian number of `8·n` bits. -/
def Memory.dbl (m : Memory) (a : Nat) : Dbl := BitVec.ofNat 64 (m.num a 8)

/-- Write the low `n` bytes of a number. -/
def Memory.pokeNum (m : Memory) (a n x : Nat) : Memory := m.pokes a (bytesOf n x)

/-- A number modulo 2^64 as a double, and a signed double. -/
def dbl (x : Nat) : Dbl := BitVec.ofNat 64 x
def word (x : Nat) : Word := BitVec.ofNat 32 x

/-! Places -/

/-- Keys of lanes, contexts, cores (and their recorders), and store bytes (R11, R12, R215, R67). Lane 512 is the compositor. -/
def laneKey (cluster lane : Nat) : Nat := 513 * cluster + lane
def ctxKey (cluster lane bind : Nat) : Nat := 8 * laneKey cluster lane + bind
def coreOf (cluster lane : Nat) : Nat := 9 * cluster + (if lane = 512 then 8 else lane / 64)
def storeKey (cluster addr : Nat) : Nat := cluster * 2 ^ 24 + addr
def Ctx.key (c : Ctx) : Nat := ctxKey c.cluster c.lane c.bind
def Ctx.core (c : Ctx) : Nat := coreOf c.cluster c.lane
/-- The recorder of hub `h` (R215), and the hub of a cluster's tower (R11: dies 2n and 2n+1 on hub n). -/
def hubRecorder (h : Nat) : Nat := 1152 + h
def hubOf (cluster : Nat) : Nat := cluster / 32

/-- A trunk or limb: its rows hold forms (R25). -/
def Ctx.symbolic (c : Ctx) : Bool := match c.kind with | .trunk | .limb => true | .warp | .leaf | .comp => false
/-- The compositor's program. -/
def Ctx.isComp (c : Ctx) : Bool := match c.kind with | .comp => true | .trunk | .limb | .warp | .leaf => false

/-- The CLASS a context runs (R238). -/
def Ctx.cls (c : Ctx) : Cls := if c.isComp then .compositor else .vector

/-- The slots of a mask in ascending order (R36). -/
def slotsOf (m : Word) : List Nat := (List.range 32).filter fun i => m.getLsbD i
/-- The mask of a list of slots. -/
def maskOf (l : List Nat) : Word := l.foldl (fun m i => m ||| 1#32 <<< i) 0#32
/-- Live slots: launched and not exited (R38). -/
def Ctx.live (c : Ctx) : Word := c.launched &&& ~~~c.exited

/-! Contexts in State -/

def State.ctx? (s : State) (k : Nat) : Option Ctx := s.work.ctxs.look k
def State.setWork (s : State) (w : Work) : State := { s with work := w }
def State.putCtx (s : State) (c : Ctx) : State := { s with work := { s.work with ctxs := s.work.ctxs.put c.key c } }
/-- A binding becomes free: what its lane's latch holds of it is invalid, for another context may take the binding (R74). -/
def State.dropCtx (s : State) (k : Nat) : State :=
  { s with work := { s.work with
      ctxs := s.work.ctxs.del k,
      lanes := s.work.lanes.change (k / 8) fun l => { l with latch := l.latch.filter fun e => e.bind != k % 8 } } }
def State.changeCtx (s : State) (k : Nat) (f : Ctx → Ctx) : State :=
  { s with work := { s.work with ctxs := s.work.ctxs.change k f } }

/-- A lane that has not run yet. -/
def Lane.fresh : Lane := { last := 0, yielded := false, run := 0, clause := none, latch := [] }
def State.lane (s : State) (k : Nat) : Lane := (s.work.lanes.look k).getD Lane.fresh
def State.setLane (s : State) (k : Nat) (l : Lane) : State := { s with work := { s.work with lanes := s.work.lanes.put k l } }
def State.changeLane (s : State) (k : Nat) (f : Lane → Lane) : State := s.setLane k (f (s.lane k))

/-- Both latch entries of a lane are invalid (R74). -/
def State.clearLatch (s : State) (k : Nat) : State := s.changeLane k fun l => { l with latch := [] }

def State.changeNode (s : State) (n : Nat) (f : Node → Node) : State :=
  { s with work := { s.work with nodes := s.work.nodes.change n f } }
def State.changeGroup (s : State) (g : Nat) (f : Group → Group) : State :=
  { s with work := { s.work with groups := s.work.groups.change g f } }
def State.changeGang (s : State) (g : Nat) (f : Gang → Gang) : State :=
  { s with work := { s.work with gangs := s.work.gangs.change g f } }

/-- A number not used before. -/
def State.fresh (s : State) : Nat × State := (s.serial, { s with serial := s.serial + 1 })

def Ctx.path? (c : Ctx) (id : Nat) : Option Path := c.paths.find? fun p => p.id == id
def Ctx.changePath (c : Ctx) (id : Nat) (f : Path → Path) : Ctx :=
  { c with paths := c.paths.map fun p => if p.id = id then f p else p }

/-! Registers (R67, R71, R72) -/

/-- Where register `n` of slot `t` lies in the cluster store; none beyond the allocation. -/
def Ctx.vPlace (c : Ctx) (t n : Nat) : Option Nat :=
  match c.map[n / 8]? with
  | some g => some (storeKey c.cluster (c.lane * 0x8000 + g * 1024 + n % 8 * 128 + 4 * t))
  | none => none

/-- A v register of a slot; 0 beyond the allocation (never read there: RIDX). -/
def State.readV (s : State) (c : Ctx) (t n : Nat) : Word :=
  match c.vPlace t n with
  | some a => word (s.mem.store.num a 4)
  | none => 0#32

/-- Store bytes lose their poison when a whole word is written (R207). -/
def State.writeStoreWord (s : State) (a : Nat) (x : Word) : State :=
  { s with mem := { s.mem with store := s.mem.store.pokeNum a 4 x.toNat, storePoison := s.mem.storePoison.filter (· != a) } }

def State.writeV (s : State) (c : Ctx) (t n : Nat) (x : Word) : State :=
  match c.vPlace t n with
  | some a => s.writeStoreWord a x
  | none => s

/-- An s register; 0 until something writes it in a new trunk (notes/assumptions/3.md). -/
def Ctx.readS (c : Ctx) (n : Nat) : Word := (c.s.look n).getD 0#32
def Ctx.readX (c : Ctx) (n : Nat) : Dbl := (c.x.look n).getD 0#64
def Ctx.readD (c : Ctx) (n : Nat) : Slot512 := (c.d.look n).getD 0#512

/-- Predicate `k` at slot `t`; code 7 is true (R243). -/
def Ctx.readP (c : Ctx) (t k : Nat) : Bool := k == 7 || ((c.p.look k).getD 0#32).getLsbD t

/-- A word with bit `t` set to `b`. -/
def setBit (m : Word) (t : Nat) (b : Bool) : Word := if b then m ||| (1#32 <<< t) else m &&& ~~~(1#32 <<< t)

/-- The form row of a register of a trunk or limb: U zero until written (R71 zero-fills the rows). -/
def Form.zero : Form := { b := 0#64, c0 := 0#64, c1 := 0#64, c2 := 0#64, c3 := 0#64 }
def Form.uni (x : Dbl) : Form := { Form.zero with b := x }
def Table.formAt (t : Table FormCell) (n : Nat) : FormCell := (t.look n).getD (.form Form.zero)

/-- A predicate of a trunk or limb: U false until written. -/
def Table.spredAt (t : Table SPred) (k : Nat) : SPred := if k = 7 then .uni true else (t.look k).getD (.uni false)

/-- Form U: no coefficient. -/
def Form.isUni (f : Form) : Bool := f.c0 == 0#64 && f.c1 == 0#64 && f.c2 == 0#64 && f.c3 == 0#64

/-- A 32-bit value as stored in a form: sign-extended from bit 31 (R25). -/
def sx32 (x : Dbl) : Dbl := (x.setWidth 32).signExtend 64

/-- Write a form into a row; a pair marks its odd row as its high half (R25). When a 32-bit write replaces the even row of a
pair, the odd row keeps the high half: that of a uniform pair as its own form, that of a form A as the mark. -/
def formPut (t : Table FormCell) (n : Nat) (pair : Bool) (f : Form) : Table FormCell :=
  if pair then (t.put n (.form f)).put (n + 1) (.high f)
  else
    let t := match t.formAt (n + 1) with
      | .high g => if n % 2 = 0 && g.isUni then t.put (n + 1) (.form (Form.uni (sx32 (g.b >>> 32)))) else t
      | .form _ => t
    t.put n (.form f)

/-- Commit one staged register write (R37). -/
def State.applyWrite (s : State) (k : Nat) (w : RegWrite) : State :=
  match s.ctx? k with
  | none => s
  | some c =>
    match w with
    | .v t n x => s.writeV c t n x
    | .s n x => s.putCtx { c with s := c.s.put n x }
    | .p t n b => if n = 7 then s else s.putCtx { c with p := c.p.put n (setBit ((c.p.look n).getD 0#32) t b) }
    | .x n x => s.putCtx { c with x := c.x.put n x }
    | .d n x => s.putCtx { c with d := c.d.put n x }
    | .mprog n => s.putCtx { c with x := c.x.put n (match s.eng.matrices.look c.cluster with | some m => m.mprog | none => 0#64) }
    | .form n pair f => s.putCtx { c with forms := formPut c.forms n pair f }
    | .spred n p => if n = 7 then s else s.putCtx { c with sp := c.sp.put n p }

/-- The registers a staged write changes: v n, both of a pair's form, or 256 + n for s n; none for the others. -/
def RegWrite.regs : RegWrite → List Nat
  | .v _ n _ => [n]
  | .form n pair _ => if pair then [n, n + 1] else [n]
  | .s n _ => [256 + n]
  | .p .. | .x .. | .d .. | .mprog .. | .spred .. => []

/-- A write of a v register below `n`, or of anything else (R361). -/
def RegWrite.below (n : Nat) : RegWrite → Bool
  | .v _ r _ => decide (r < n)
  | .s .. | .p .. | .x .. | .d .. | .mprog .. | .form .. | .spred .. => true

/-- The latch of a lane after writes by binding `b`: an entry of a written register is invalid (R74). -/
def latchAfter (b : Nat) (ws : List RegWrite) (l : List Latch) : List Latch :=
  l.filter fun e => !(e.bind == b && (ws.flatMap RegWrite.regs).contains e.reg)

/-- A written row is no longer dead at the slot written; a form revives every slot (R73). -/
def RegWrite.revive (t : Table Word) : RegWrite → Table Word
  | .v slot n _ => t.change n fun m => m &&& ~~~(1#32 <<< slot)
  | .form n pair _ => let t := t.del n
    if pair then t.del (n + 1) else t
  | .s .. | .p .. | .x .. | .d .. | .mprog .. | .spred .. => t

/-- Commit staged writes: the rows take their values, are no longer dead (R73), and leave the latch (R74). -/
def State.commitWrites (s : State) (k : Nat) (ws : List RegWrite) : State :=
  let s := ws.foldl (fun s w => s.applyWrite k w) s
  let s := s.changeCtx k fun c => { c with dead := ws.foldl (fun t w => w.revive t) c.dead }
  s.changeLane (k / 8) fun l => { l with latch := latchAfter (k % 8) ws l.latch }

/-- Sticky flags of a context (R175). -/
def State.raise (s : State) (k : Nat) (f : Word) : State := s.changeCtx k fun c => { c with astat := raiseFlags c.astat f }

/-! Cycles and recorders (R15, R206, R215, R216) -/

/-- Own cycles of a recorder's clock domain: a-cycles of a core or compositor, f-cycles of a hub, less those a half-rate window
did not count. -/
def State.cyc (s : State) (recorder : Nat) : Nat :=
  (if recorder < 1152 then s.aCyc else s.fCyc) - (s.rel.lost.look recorder).getD 0

def Recorder.fresh : Recorder := { recs := [], written := 0, stopped := false, hop := 0 }

/-- Records a ring holds (R215). -/
def ringCap (recorder : Nat) : Nat := if 1152 ≤ recorder then 262144 else if recorder % 9 = 8 then 8192 else 16384

/-- Write a record, unless the recorder is stopped; a full ring loses its oldest. -/
def State.galley (s : State) (recorder cls : Nat) (code : BitVec 8) (tenant kind ctx : Nat) (payload : Dbl) : State :=
  let g := (s.rel.galleys.look recorder).getD Recorder.fresh
  if g.stopped then s
  else
    let r : Rec := { cls := cls, code := code, tenant := if code.getLsbD 7 then 0 else tenant, cyc := word (s.cyc recorder),
                     kind := kind, ctx := ctx, payload := payload }
    let recs := (if g.recs.length < ringCap recorder then g.recs else g.recs.drop 1) ++ [r]
    { s with rel := { s.rel with galleys := s.rel.galleys.put recorder { g with recs := recs, written := g.written + 1 } } }

/-- KIND of a context's records (Table 11.3, R330). -/
def Ctx.recKind (c : Ctx) : Nat := if c.isComp then 2 else if c.symbolic then 1 else 0
/-- CTX of a context's records (Table 11.3). -/
def Ctx.recCtx (c : Ctx) : Nat :=
  if c.isComp then c.node else c.lane % 64 * 256 + c.bind * 32 + (if c.symbolic then 0 else c.warpNo % 32)

/-- A record of a context, to its core's or compositor's recorder. -/
def State.galleyCtx (s : State) (c : Ctx) (cls : Nat) (code : BitVec 8) (payload : Dbl) : State :=
  s.galley c.core cls code c.tenant c.recKind c.recCtx payload

/-- A record of a node. -/
def State.galleyNode (s : State) (recorder n cls : Nat) (code : BitVec 8) (payload : Dbl) : State :=
  s.galley recorder cls code (match s.work.nodes.look n with | some x => x.tenant | none => 0) 2 n payload

/-- Message kinds of R215, in its order. -/
inductive MsgKind where
  | publish | dispatch | completion | flip | peer
  deriving DecidableEq, Repr

def MsgKind.num : MsgKind → Nat
  | .publish => 0 | .dispatch => 1 | .completion => 2 | .flip => 3 | .peer => 4

/-- Payload of SEND and RECV (Table 11.6): tag above the kind's code. -/
def msgPayload (tag : Nat) (k : MsgKind) : Dbl :=
  dbl ((Config.tagBase + word tag).toNat * 2 ^ 32 + (Config.messageKind k.num).toNat)

/-- A new message tag. -/
def State.newTag (s : State) : Nat × State := (s.rel.tags, { s with rel := { s.rel with tags := s.rel.tags + 1 } })

/-- A SEND record, its tag kept under `key` for the RECV. -/
def State.send (s : State) (recorder tenant kind ctx : Nat) (k : MsgKind) (key : Nat) : State :=
  let (t, s) := s.newTag
  let s := s.galley recorder 2 0x05#8 tenant kind ctx (msgPayload t k)
  { s with rel := { s.rel with messages := s.rel.messages.put key t } }

/-- The RECV record of the message kept under `key`. -/
def State.recv (s : State) (recorder tenant kind ctx : Nat) (k : MsgKind) (key : Nat) : State :=
  match s.rel.messages.look key with
  | none => s
  | some t => s.galley recorder 2 0x06#8 tenant kind ctx (msgPayload t k)

/-- The RECV of a flip at the recorder of a context that wakes on it: one for each recorder (R396). -/
def State.recvFlip (s : State) (c : Ctx) (key : Nat) : State :=
  match s.rel.messages.look key with
  | none => s
  | some t =>
    let l := (s.rel.heard.look t).getD []
    if l.contains c.core then s
    else { s with rel := { s.rel with heard := s.rel.heard.put t (c.core :: l) } }.galleyCtx c 2 0x06#8 (msgPayload t .flip)

/-- The message kept under `key` is about to be followed by another: who has received it is of no more use. -/
def State.unheard (s : State) (key : Nat) : State :=
  match s.rel.messages.look key with
  | none => s
  | some t => { s with rel := { s.rel with heard := s.rel.heard.del t } }

/-- One message of the peer link, sent or received by a hub. Its tag is new: the tag that the other package gives its own messages is not
stated (notes/assumptions/26.md). -/
def State.peerRecord (s : State) (recorder tenant : Nat) (sent : Bool) : State :=
  let (t, s) := s.newTag
  s.galley recorder 2 (if sent then 0x05#8 else 0x06#8) tenant 3 0 (msgPayload t .peer)

/-- The message kept under `key` needs no further RECV. -/
def State.forget (s : State) (key : Nat) : State := { s with rel := { s.rel with messages := s.rel.messages.del key } }

/-- Keys of messages: an entry of a chain, a node's dispatch and completion, a barrier object's flip. -/
def publishKey (chain pos : Nat) : Nat := (chain * 2 ^ 64 + pos) * 8
def dispatchKey (node : Nat) : Nat := node * 8 + 1
def completionKey (node : Nat) : Nat := node * 8 + 2
def flipKey (obj : Nat) : Nat := obj * 8 + 3

/-! The end of a launch (R148, R311, R375) -/

/-- A context issues and commits nothing more; its operand log is discarded, its stores already released stand. -/
def Ctx.stop (c : Ctx) : Ctx :=
  { c with stopped := true, paths := [], inflight := [], log := [], sb := List.replicate 6 0, exited := c.launched, rest := none,
           pre := .none, trap := none }

/-- The first failure of a node stays (R152). -/
def State.failNode (s : State) (n : Nat) (code : BitVec 8) (detail : Nat) : State :=
  s.changeNode n fun x => if x.code = 0#8 then { x with code := code, detail := BitVec.ofNat 48 detail } else x

/-- Every lane of a context that stopped has no clause of it in progress, and nothing of it in its latch. -/
def State.dropClauses (s : State) (p : Ctx → Bool) : State :=
  let hit (k b : Nat) : Bool := ((s.ctx? (8 * k + b)).map p).getD false
  { s with work := { s.work with lanes := s.work.lanes.map fun (k, l) =>
      (k, { l with clause := l.clause.filter fun cl => !hit k cl.bind, latch := l.latch.filter fun e => !hit k e.bind }) } }

/-- Faults parked for contexts that satisfy a test are dropped. -/
def State.dropFaults (s : State) (p : Ctx → Bool) : State :=
  let bad (f : PFault) : Bool := match f.who with
    | .log k _ | .fetch k _ => ((s.ctx? k).map p).getD false
    | .chan .. | .gather .. | .matrix .. | .coll .. | .record .. | .walker .. | .line .. => false
  { s with eng := { s.eng with faults := s.eng.faults.having fun f => !(bad f) } }

/-- Every context of the launch stops; limbs in the queue, saved leaf warps and saved units of it are gone. -/
def State.stopLaunch (s : State) (n : Nat) : State :=
  let mine (c : Ctx) : Bool := c.node == n
  let s := s.dropFaults mine
  let s := s.dropClauses mine
  { s with work := { s.work with
      ctxs := s.work.ctxs.map fun (k, c) => (k, if mine c then c.stop else c),
      limbQueue := s.work.limbQueue.filter (!mine ·),
      leafSaved := s.work.leafSaved.filter fun x => !mine x.ctx,
      saved := s.work.saved.filter (·.node != n),
      units := s.work.units.filter (·.node != n) } }

/-- The launch ends as `halt` ends it (R311), its node to complete with this code: OK unless a failure came before. -/
def State.endLaunch (s : State) (n : Nat) (code : BitVec 8) (detail : Nat) : State :=
  (s.failNode n code detail).stopLaunch n

/-! Taking and leaving a fault or trap (R148, R257, R375, R377) -/

/-- Completion code FAULT for codes of Table 8.4, TRAP for instruction traps (Table 3.4). -/
def completionOf (code : BitVec 8) : BitVec 8 := if 0x10 ≤ code.toNat then 0x05#8 else 0x0A#8

/-- DETAIL of a node that a fault or trap completes: the code above the low 40 bits of the address (R148). -/
def detailOf (code : BitVec 8) (addr : Dbl) : Nat := code.toNat * 2 ^ 40 + addr.toNat % 2 ^ 40

/-- Traps that report no address: their TRAP record holds TRPC (Table 11.6, R257). -/
def addressless (code : BitVec 8) : Bool := [0x02, 0x04, 0x05, 0x07, 0x08, 0x09].contains code.toNat

/-- The TRAP record (R396). -/
def State.trapRecord (s : State) (c : Ctx) (t : TrapState) : State :=
  s.galleyCtx c 0 0x40#8 (dbl (t.code.toNat * 2 ^ 56 + (if addressless t.code then t.pc else t.addr).toNat % 2 ^ 56))

/-- The trap state of a logged fault (R150), the path to go on at `ret`. -/
def LogEntry.trapState (e : LogEntry) (n : Nat) (ret : Dbl) : TrapState :=
  { code := e.code, pc := e.pc, word := BitVec.ofNat 5 e.pos, addr := e.addr, bva := e.bva, mask := e.mask, log := BitVec.ofNat 4 n, ret := ret }

/-- A logged word is for path `id` to settle once its fault has reached software. That of a path that has ended goes to the context's first
path (notes/assumptions/22.md). -/
def Ctx.owns (c : Ctx) (id : Nat) (e : LogEntry) : Bool :=
  e.path == id || ((c.path? e.path).isNone && (c.paths.isEmpty || c.paths.head?.any fun p => p.id == id))

/-- The oldest logged fault of a path that has reached software. -/
def Ctx.pendingLog (c : Ctx) (id : Nat) : Option (Nat × LogEntry) :=
  (c.log.filter fun (_, e) => c.owns id e && e.state == .toDeliver).foldl (fun (best : Option (Nat × LogEntry)) x =>
    match best with
    | none => some x
    | some y => if x.2.serial < y.2.serial then some x else some y) none

/-- A context without a path has nowhere to enter a handler: a logged fault that has reached software ends its launch with FAULT
(notes/assumptions/22.md). -/
def State.noPathLeft (s : State) (k : Nat) : State :=
  match s.ctx? k with
  | none => s
  | some c =>
    match c.pendingLog 0 with
    | some (n, e) =>
      if c.paths.isEmpty && !c.stopped then
        let t := e.trapState n 0#64
        (if c.trap.isSome then s else s.trapRecord c t).endLaunch c.node (completionOf t.code) (detailOf t.code t.addr)
      else s
    | none => s

/-- The node's pre-emption handler (R43). -/
def State.phandler (s : State) (c : Ctx) : Dbl := match s.work.nodes.look c.node with | some n => n.phandler | none => 0#64

/-- Take a fault or trap on a path (R375): the trap state is fixed with TRRET and the path goes on at the handler, whose entry is
checked when it is fetched (R261). PREEMPT enters PHANDLER. A compositor has no slots: its TRMASK is 0. With no handler the launch ends with FAULT or TRAP; with a trap
already held, likewise, without a record. -/
def State.takeTrap (s : State) (k id : Nat) (t : TrapState) : State :=
  match s.ctx? k with
  | none => s
  | some c =>
    let s := s.clearLatch (k / 8)
    if c.trap.isSome then s.endLaunch c.node (completionOf t.code) (detailOf t.code t.addr)
    else
      let handler := if t.code = 0x07#8 then s.phandler c else c.thand
      -- a matrix trap was recorded when its operation stopped (R392)
      let s := if t.code = 0x06#8 then s else s.trapRecord c t
      if handler = 0#64 then s.endLaunch c.node (completionOf t.code) (detailOf t.code t.addr)
      else s.changeCtx k fun c =>
        { (c.changePath id fun p => { p with pc := handler, start := 0, skip := 0, wait := .none, entry := true }) with trap := some (if c.isComp then { t with mask := 0#32 } else t) }

/-- Leave a trap: the trap state reads zero and the path goes on at `pc`, from body word `start`, passing over word `skip` if it is not
zero (R241, R377). -/
def State.leaveTrap (s : State) (k id : Nat) (pc : Dbl) (start skip : Nat) : State :=
  s.changeCtx k fun c =>
    { (c.changePath id fun p => { p with pc := pc, start := start, skip := skip, wait := .none, entry := false }) with trap := none }

/-- The header after a clause. -/
def Clause.after (cl : Clause) : Dbl := cl.pc + dbl (8 * (cl.words.length + 1))

/-- A precise trap at the current word of a clause (R241, R257): no slot commits, the clause ends, TRRET is the next header. -/
def State.trapAt (s : State) (k : Nat) (cl : Clause) (code : BitVec 8) (addr : Dbl) (mask : Word) : State :=
  let s := s.changeLane (k / 8) fun l => { l with clause := none }
  s.takeTrap k cl.path
    { code := code, pc := cl.pc, word := BitVec.ofNat 5 cl.pos, addr := addr, bva := 0#64, mask := mask, log := 0xF#4, ret := cl.after,
      whole := cl.stage.isSome }

/-! Privileged registers (Table 16.13) -/

/-- A member of a list of registers. -/
def nth {α : Type} (l : List α) (i : Nat) (d : α) : α := (l[i]?).getD d
def setNth {α : Type} (l : List α) (i : Nat) (x : α) : List α := l.set i x

/-- CLS.BANKMODE of a bank (Table 4.2): MODE, NEXT, STATE. -/
def State.bankWord (s : State) (cluster bank : Nat) : Word := (s.eng.bank.look (512 * cluster + bank)).getD 0#32
def bankMode (w : Word) : Nat := w.toNat % 4
def bankNext (w : Word) : Nat := w.toNat / 4 % 4
def bankState (w : Word) : Nat := w.toNat / 256 % 4
def bankWordOf (mode next state : Nat) : Word := word (mode + 4 * next + 256 * state)
def State.setBank (s : State) (cluster bank : Nat) (w : Word) : State :=
  { s with eng := { s.eng with bank := s.eng.bank.put (512 * cluster + bank) w } }
/-- The bank is in STABLE state of a mode. -/
def State.stableBank (s : State) (cluster bank mode : Nat) : Bool :=
  let w := s.bankWord cluster bank
  bankState w == 0 && bankMode w == mode

/-- Compute dies and hubs that are dropped (Table 11.2). -/
def State.dieDropped (s : State) (die : Nat) : Bool := s.hub.drop.getLsbD die
def State.clusterDropped (s : State) (cluster : Nat) : Bool := s.dieDropped (cluster / 16)
def State.dropGen (s : State) : Half := s.hub.drop.extractLsb' 32 16

end Sys2Proof.Machine
end

