-- ==== Sys2Proof/Machine/Boxes.lean ====
section
/-! DEFINITION. Launch records, boxes and item numbers, the gangs of a launch, and the consumption of poison, which stops a gang
(R20-R24, R33, R207, R208, R210). -/

namespace Sys2Proof.Machine

/-! The retained launch record (Tables 2.2-2.4): sixteen doubles -/

def Node.dbl (n : Node) (k : Nat) : Nat := (nth n.payload k 0#64).toNat
def Node.ctrl (n : Node) : Nat := n.dbl 1
def Node.entry (n : Node) : Dbl := nth n.payload 0 0#64
def Node.scratchKib (n : Node) : Nat := n.ctrl / 2 ^ 40 % 256
def Node.regs (n : Node) : Nat := n.ctrl / 2 ^ 32 % 256
def Node.nlev (n : Node) : Nat := n.ctrl / 2 ^ 29 % 8 + 1
def Node.ndim (n : Node) : Nat := n.ctrl / 2 ^ 27 % 4 + 1
def Node.relaunch (n : Node) : Bool := n.ctrl / 2 ^ 26 % 2 == 1
def Node.ext (n : Node) (k : Nat) : Nat := n.dbl (2 + k / 2) / 2 ^ (32 * (k % 2)) % 2 ^ 32
def Node.kbase (n : Node) : Nat := n.dbl 4
def Node.ksize (n : Node) : Nat := n.dbl 5 % 2 ^ 32
def Node.level (n : Node) (l : Nat) : Nat := n.dbl (8 + l)
def Node.domain (n : Node) (l : Nat) : Nat := n.level l / 2 ^ 56 % 8
def Node.scope (n : Node) (l : Nat) : Nat := n.level l / 2 ^ 53 % 8
/-- Box extent of a level in a dimension; 0 means the whole extent. -/
def Node.tile (n : Node) (l k : Nat) : Nat :=
  let t := n.level l / 2 ^ (12 * k) % 2 ^ 12
  if t = 0 then max 1 (n.ext k) else t
/-- The level of a domain (Table 2.4): 1 group, 2 gang, 3 cluster, 4 die. -/
def Node.levelOf (n : Node) (dom : Nat) : Option Nat := (List.range n.nlev).find? fun l => n.domain l == dom

def quadOf (f : Nat → Nat) : Quad := { d0 := f 0, d1 := f 1, d2 := f 2, d3 := f 3 }
def Node.exts (n : Node) : Quad := quadOf n.ext
/-- Boxes of a level per dimension. -/
def Node.boxes (n : Node) (l : Nat) : Quad := quadOf fun k => (n.ext k + n.tile l k - 1) / n.tile l k

/-- Linear number of coordinates in extents (R23). -/
def linear (e i : Quad) : Nat := i.d0 + e.d0 * (i.d1 + e.d1 * (i.d2 + e.d2 * i.d3))
/-- Coordinates of a linear number. -/
def unlinear (e : Quad) (n : Nat) : Quad :=
  { d0 := n % max 1 e.d0, d1 := n / max 1 e.d0 % max 1 e.d1, d2 := n / max 1 e.d0 / max 1 e.d1 % max 1 e.d2,
    d3 := n / max 1 e.d0 / max 1 e.d1 / max 1 e.d2 }

/-- The box number of an item at a level, and the box of a number, clipped (R23). -/
def Node.boxNumber (n : Node) (l : Nat) (i : Quad) : Nat :=
  linear (n.boxes l) { d0 := i.d0 / n.tile l 0, d1 := i.d1 / n.tile l 1, d2 := i.d2 / n.tile l 2, d3 := i.d3 / n.tile l 3 }
def Node.boxAt (n : Node) (l k : Nat) : Box :=
  let g := unlinear (n.boxes l) k
  let f (i d : Nat) : Nat := i * n.tile l d
  let h (i d : Nat) : Nat := min (n.ext d) ((i + 1) * n.tile l d) - 1
  { lo := { d0 := f g.d0 0, d1 := f g.d1 1, d2 := f g.d2 2, d3 := f g.d3 3 },
    hi := { d0 := h g.d0 0, d1 := h g.d1 1, d2 := h g.d2 2, d3 := h g.d3 3 } }
/-- The whole index space. -/
def Node.whole (n : Node) : Box := { lo := quadOf fun _ => 0, hi := quadOf fun k => n.ext k - 1 }

/-! Boxes -/

def Box.exts (b : Box) : Quad :=
  { d0 := b.hi.d0 + 1 - b.lo.d0, d1 := b.hi.d1 + 1 - b.lo.d1, d2 := b.hi.d2 + 1 - b.lo.d2, d3 := b.hi.d3 + 1 - b.lo.d3 }
def Box.volume (b : Box) : Nat := b.exts.d0 * b.exts.d1 * b.exts.d2 * b.exts.d3
/-- Item `n` of a box in box order, dimension 0 fastest (R33). -/
def Box.item (b : Box) (n : Nat) : Quad :=
  let q := unlinear b.exts n
  { d0 := b.lo.d0 + q.d0, d1 := b.lo.d1 + q.d1, d2 := b.lo.d2 + q.d2, d3 := b.lo.d3 + q.d3 }
def Box.inter (a b : Box) : Box :=
  { lo := { d0 := max a.lo.d0 b.lo.d0, d1 := max a.lo.d1 b.lo.d1, d2 := max a.lo.d2 b.lo.d2, d3 := max a.lo.d3 b.lo.d3 },
    hi := { d0 := min a.hi.d0 b.hi.d0, d1 := min a.hi.d1 b.hi.d1, d2 := min a.hi.d2 b.hi.d2, d3 := min a.hi.d3 b.hi.d3 } }
def Box.holds (b : Box) (i : Quad) : Bool :=
  decide (b.lo.d0 ≤ i.d0 ∧ i.d0 ≤ b.hi.d0 ∧ b.lo.d1 ≤ i.d1 ∧ i.d1 ≤ b.hi.d1 ∧ b.lo.d2 ≤ i.d2 ∧ i.d2 ≤ b.hi.d2 ∧ b.lo.d3 ≤ i.d3
    ∧ i.d3 ≤ b.hi.d3)
/-- A box with another interval on axis k. -/
def Quad.set (q : Quad) (k x : Nat) : Quad :=
  match k with
  | 0 => { q with d0 := x }
  | 1 => { q with d1 := x }
  | 2 => { q with d2 := x }
  | _ => { q with d3 := x }
def Box.slice (b : Box) (k lo hi : Nat) : Box := { lo := b.lo.set k lo, hi := b.hi.set k hi }

/-- Group numbers whose boxes a box meets, ascending. -/
def Node.groupsIn (n : Node) (b : Box) : List Nat :=
  let span (lo hi k : Nat) : List Nat := (List.range (hi / n.tile 0 k + 1 - lo / n.tile 0 k)).map (lo / n.tile 0 k + ·)
  (span b.lo.d3 b.hi.d3 3).flatMap fun i3 => (span b.lo.d2 b.hi.d2 2).flatMap fun i2 =>
    (span b.lo.d1 b.hi.d1 1).flatMap fun i1 => (span b.lo.d0 b.hi.d0 0).map fun i0 =>
      linear (n.boxes 0) { d0 := i0, d1 := i1, d2 := i2, d3 := i3 }

def State.node? (s : State) (n : Nat) : Option Node := s.work.nodes.look n

/-- The box that a context's slots are packed from: its limb's box within its group (R33). -/
def State.partBox (s : State) (c : Ctx) : Box :=
  match c.group, c.part, s.node? c.node with
  | some g, _, _ => match s.work.groups.look g with | some x => c.box.inter x.box | none => c.box
  | none, some k, some n => c.box.inter (n.boxAt 0 k)
  | none, _, _ => c.box
/-- The item of a slot. -/
def State.itemOf (s : State) (c : Ctx) (t : Nat) : Quad := (s.partBox c).item (c.base + t)
/-- Its linear number (R23). -/
def State.itemNo (s : State) (c : Ctx) (t : Nat) : Nat :=
  match s.node? c.node with | some n => linear n.exts (s.itemOf c t) | none => 0

/-! The gang of a group -/

/-- The gang of a group: its members, or the group alone. -/
def State.gangMembers (s : State) (g : Nat) : List Nat :=
  match s.work.groups.look g with
  | some x => match x.gang with
    | some y => match s.work.gangs.look y with | some z => z.members | none => [g]
    | none => [g]
  | none => [g]

/-- Boxes of two contexts or groups meet. -/
def Box.meets (a b : Box) : Bool :=
  decide (a.lo.d0 ≤ b.hi.d0 ∧ b.lo.d0 ≤ a.hi.d0 ∧ a.lo.d1 ≤ b.hi.d1 ∧ b.lo.d1 ≤ a.hi.d1 ∧ a.lo.d2 ≤ b.hi.d2 ∧ b.lo.d2 ≤ a.hi.d2
    ∧ a.lo.d3 ≤ b.hi.d3 ∧ b.lo.d3 ≤ a.hi.d3)

/-- Groups that a context belongs to: its own, or for a trunk or limb every placed group of its launch that its box overlaps. -/
def State.groupsOf (s : State) (c : Ctx) : List Nat :=
  match c.group with
  | some g => s.gangMembers g
  | none => nubNat ((s.work.groups.filter fun (_, g) => g.node == c.node && g.box.meets c.box).flatMap fun (k, _) => s.gangMembers k)

/-! Gangs of a launch by number (R208) -/

/-- The level whose boxes are killed: the gang level, or level 0. -/
def Node.killLevel (n : Node) : Nat := (n.levelOf 2).getD 0
/-- Numbers of the boxes of a level that a box meets. -/
def Node.boxesIn (n : Node) (l : Nat) (b : Box) : List Nat :=
  let span (lo hi k : Nat) : List Nat := (List.range (hi / n.tile l k + 1 - lo / n.tile l k)).map (lo / n.tile l k + ·)
  (span b.lo.d3 b.hi.d3 3).flatMap fun i3 => (span b.lo.d2 b.hi.d2 2).flatMap fun i2 =>
    (span b.lo.d1 b.hi.d1 1).flatMap fun i1 => (span b.lo.d0 b.hi.d0 0).map fun i0 =>
      linear (n.boxes l) { d0 := i0, d1 := i1, d2 := i2, d3 := i3 }

/-- Boxes by number, and whether a box meets one of them. -/
def Node.meetsAny (n : Node) (nums : List Nat) (b : Box) : Bool := nums.any fun k => b.meets (n.boxAt n.killLevel k)

/-- A trunk or limb that a kill strikes belongs to every gang that its box meets: those fall too. -/
def State.spread (s : State) (node : Nat) (n : Node) : Nat → List Nat → List Nat
  | 0, nums => nums
  | fuel + 1, nums =>
    let hit := (s.work.ctxs.map (·.2) ++ s.work.limbQueue).filter fun c => c.node == node && c.symbolic && n.meetsAny nums (s.partBox c)
    let all := nubNat (nums ++ hit.flatMap fun c => n.boxesIn n.killLevel (s.partBox c))
    if all.length = nums.length then nums else s.spread node n fuel all

/-- The gang-level boxes of a node that a kill strikes. -/
def State.struck (s : State) (node : Nat) (n : Node) (b : Box) : List Nat :=
  s.spread node n (s.work.ctxs.length + s.work.limbQueue.length) (n.boxesIn n.killLevel b)

/-! Consumption of poison (R207, R208, R210): contexts of the gang stop at once; the kill itself is an event. -/

/-- DETAIL of UCE (Table 11.1). -/
def uceDetail (cause cluster sector : Nat) : Nat := cause * 2 ^ 46 + cluster * 2 ^ 39 + sector % 2 ^ 39

/-- Contexts of a node on the boxes of a list stop, wherever they stand: on a binding, in a limb queue, or saved. -/
def State.stopBoxes (s : State) (node : Nat) (hit : Ctx → Bool) : State :=
  let stop (x : Ctx) : Ctx := if x.node == node && hit x then { x with stopped := true } else x
  s.setWork { s.work with
    ctxs := s.work.ctxs.map fun (j, x) => (j, stop x), limbQueue := s.work.limbQueue.map stop,
    leafSaved := s.work.leafSaved.map fun x => { x with ctx := stop x.ctx },
    saved := s.work.saved.map fun u => { u with ctxs := u.ctxs.map fun x : SavedCtx => { x with ctx := stop x.ctx } } }

/-- The gangs that hold a box of a launch stop and a kill is queued; a second consumption in one gang before that adds none. -/
def State.strike (s : State) (node : Nat) (box : Box) (cause cluster sector : Nat) : State :=
  match s.node? node with
  | none => s
  | some n =>
    let nums := s.struck node n box
    let s := s.stopBoxes node fun x => n.meetsAny nums (s.partBox x)
    let kill : Kill := { node := node, box := box, cause := cause, cluster := cluster, sector := sector }
    if s.rel.kills.any fun e => e.node == node && n.meetsAny nums e.box then s
    else { s with rel := { s.rel with kills := s.rel.kills ++ [kill] } }

/-- A context consumes poison (R207, R208), or stores to a package that is down (`cause` 0 whatever its kind, R231): POISON record, and its
gang is struck; a compositor's node completes with UCE (R186). -/
def State.consumeAs (s : State) (k cause sector : Nat) : State :=
  match s.ctx? k with
  | none => s
  | some c =>
    let s := s.galleyCtx c 1 0x02#8 (dbl (uceDetail cause c.cluster sector))
    if c.isComp then s.endLaunch c.node 0x06#8 (uceDetail cause c.cluster sector)
    else s.strike c.node (s.partBox c) cause c.cluster sector
def State.consume (s : State) (k sector : Nat) : State :=
  s.consumeAs k (match s.ctx? k with | some c => if c.isComp then 2 else 0 | none => 0) sector

/-- The context of a number, wherever it stands on a binding. -/
def State.ctxOf (s : State) (uid : Nat) : Option (Nat × Ctx) := s.work.ctxs.find? fun (_, c) => c.uid == uid

/-- Contexts that stand on no binding: queued limbs, saved leaf warps, saved units. -/
def State.waiting (s : State) : List Ctx :=
  s.work.limbQueue ++ s.work.leafSaved.map (·.ctx) ++ s.work.saved.flatMap fun u => u.ctxs.map (·.ctx)

/-- A store by context `uid`, which may have retired, to a package that is down: a consumption by its gang with SECTOR 0 (R231). -/
def State.consumeStore (s : State) (uid core tenant : Nat) : State :=
  match s.ctxOf uid, s.work.trackers.find? (·.owner == uid) with
  | some (k, _), _ => s.consumeAs k 0 0
  | none, some t =>
    let s := s.galley core 1 0x02#8 tenant 3 0 (dbl (uceDetail 0 t.cluster 0))
    match t.group.bind (s.work.groups.look ·) with
    | some g => s.strike t.node g.box 0 t.cluster 0
    | none => s.failNode t.node 0x06#8 (uceDetail 0 t.cluster 0)
  | none, none =>
    let s := s.galley core 1 0x02#8 tenant 3 0 (dbl (uceDetail 0 (core / 9) 0))
    match s.waiting.find? (·.uid == uid) with
    | some c => s.strike c.node (s.partBox c) 0 c.cluster 0
    | none => s

end Sys2Proof.Machine
end

