-- ==== Sys2Proof/Machine/Translate.lean ====
section
/-! DEFINITION. Homes of physical memory, the frame descriptor table, page-table walks and translation caches, layout views, and
the mapping of one access to its byte locations with its fault (R76-R103, R105, R140-R160, R395). -/

namespace Sys2Proof.Machine

/-! Physical memory (R105, R395) -/

def fastFrames : Nat := 9437184
def allFrames : Nat := 42991616

/-- HUB.ILV as the number of stacks and the stack of a residue (Table 6.1). -/
def State.ilv (s : State) : Dbl := nth s.hub.ilv 0 0#64
def State.nstk (s : State) : Nat := s.ilv.toNat / 2 ^ 48 % 16
/-- The hub that homes a frame; none when the frame is not present. -/
def State.frameHub (s : State) (f : Nat) : Option Nat :=
  if f < fastFrames then
    let n := s.nstk
    if n = 0 ∨ (n < 12 ∧ n * 786432 ≤ f) then none
    else some (s.ilv.toNat / 16 ^ (f % n) % 16 / 3)
  else if f < allFrames then
    let h := (f - fastFrames) % 32 / 8
    if s.hub.drop.getLsbD (16 + h) then none else some h
  else none
/-- A PA that is memory, and its home hub. -/
def State.homeHub (s : State) (pa : Nat) : Option Nat := s.frameHub (pa / 65536)
def State.isMemory (s : State) (pa : Nat) : Bool := (s.homeHub pa).isSome

/-- The frame descriptor entry of a frame (R159, Table 8.7). -/
def State.fdtAt (s : State) (f : Nat) : Nat := s.hub.fdtBase.toNat + 8 * f
/-- Its reset value: FREE. Its bits that are not reserved (R8). -/
def fdtReset : Dbl := 0x100000#64
def fdtBits : Dbl := 0xF0FFFF#64
/-- An entry that nothing has written since reset, where nothing but zeros stands, reads its reset value (notes/assumptions/7.md). -/
def State.fdt (s : State) (f : Nat) : Dbl :=
  let e := s.mem.phys.dbl (s.fdtAt f)
  if e = 0#64 && !s.mem.described.contains (s.fdtAt f) then fdtReset else e &&& fdtBits
def State.setFdt (s : State) (f : Nat) (e : Dbl) : State :=
  { s with mem := { s.mem with phys := s.mem.phys.pokeNum (s.fdtAt f) 8 e.toNat, described := nubNat (s.mem.described ++ [s.fdtAt f]) } }
/-- The frame whose entry a byte of memory belongs to, once HUB.FDT.BASE has been written (notes/assumptions/7.md). -/
def State.fdtFrame (s : State) (pa : Nat) : Option Nat :=
  let b := s.hub.fdtBase.toNat
  if s.hub.fdtOn ∧ b ≤ pa ∧ pa < b + 8 * allFrames then some ((pa - b) / 8) else none
/-- What a byte of memory keeps of a value written there: reserved bits of a frame descriptor read as zero (R8, Table 8.7). -/
def State.keptBits (s : State) (pa : Nat) (x : Byte) : Byte :=
  match s.fdtFrame pa with
  | some f => x &&& fdtBits.extractLsb' (8 * (pa - s.fdtAt f)) 8
  | none => x
/-- A byte of memory as its home slice gives it. -/
def State.physByte (s : State) (pa : Nat) : Byte :=
  match s.fdtFrame pa with
  | some f => (s.fdt f).extractLsb' (8 * (pa - s.fdtAt f)) 8
  | none => s.mem.phys.byte pa
/-- Entries that a write to memory reaches hold their reset value in memory from then on. -/
def State.describe (s : State) (pas : List Nat) : State :=
  let new := (nubNat (pas.filterMap s.fdtFrame)).filter fun f => !s.mem.described.contains (s.fdtAt f)
  new.foldl (fun s f => s.setFdt f (s.fdt f)) s
def fdtRcnt (e : Dbl) : Nat := e.toNat % 65536
def fdtFree (e : Dbl) : Bool := e.getLsbD 20
def fdtGrade (e : Dbl) : Nat := e.toNat / 2 ^ 21 % 4
def fdtScanOk (e : Dbl) : Bool := e.getLsbD 23
def fdtWith (e : Dbl) (rcnt : Nat) (free : Bool) : Dbl :=
  (e &&& ~~~0x10FFFF#64) ||| dbl (rcnt % 65536) ||| (if free then 0x100000#64 else 0#64)
/-- The frame has passed its scan (R162, R258). -/
def State.scanned (s : State) (frame : Nat) : Bool := fdtScanOk (s.fdt frame)
/-- The byte lies in a locked code frame: one that has passed its scan, or whose scan has started (R162, R258). -/
def State.locked (s : State) (pa : Nat) : Bool := s.scanned (pa / 65536) || s.eng.scans.contains (pa / 65536)

/-! Placement in the fast tier and the home slices (R105, R106) -/

/-- Bank and row of a fast frame: G mod 32 and G div 32, G = F div NSTK. -/
def State.frameBank (s : State) (f : Nat) : Nat := f / s.nstk % 32
def State.frameRow (s : State) (f : Nat) : Nat := f / s.nstk / 32
/-- Stack of a fast frame (Table 6.1). -/
def State.frameStack (s : State) (f : Nat) : Nat := s.ilv.toNat / 16 ^ (f % s.nstk) % 16
/-- Sector s of a frame: pseudo-channel index p, its channel and pseudo-channel, its column (Table 6.2). -/
def sectorPc (pa : Nat) : Nat := pa / 32 % 64
def sectorChannel (pa : Nat) : Nat × Nat := (sectorPc pa / 2, sectorPc pa % 2)
def sectorColumn (pa : Nat) : Nat := pa / 2048 % 32
/-- The home slice of a PA. -/
def State.sliceOf (s : State) (pa : Nat) : Nat := 128 * (s.homeHub pa).getD 0 + pa / 128 % 128

/-- A sector is touched at its home slice: when it is not there a miss is counted for its frame (R158) and it is brought in. A
slice holds 32,768 sectors (Table 1.3); which sector leaves a full slice is open: the model takes the oldest (notes/assumptions/32.md). -/
def State.touchHome (s : State) (sector : Nat) : State :=
  let here := s.mem.resident.contains sector
  let f := sector / 2048
  let counting := match s.frameHub f with | some h => (nth s.hub.hotCtl h 0#32).toNat % 256 != 0 | none => false
  let mine := s.mem.resident.filter fun x => s.sliceOf (x * 32) == s.sliceOf (sector * 32)
  let rest := if mine.length < 32768 then s.mem.resident else match mine with | o :: _ => s.mem.resident.erase o | [] => s.mem.resident
  { s with mem := { s.mem with
      resident := if here then s.mem.resident else rest ++ [sector],
      hot := if here || !counting then s.mem.hot else s.mem.hot.put f ((s.mem.hot.look f).getD 0 + 1) } }

/-! Dropping cached sectors (R115, R135) -/

/-- Drop cached sectors that satisfy a test of their line and number. -/
def State.dropSectors (s : State) (p : CacheLine → Nat → Sector → Bool) : State :=
  let kept := s.mem.cache.map fun l => { l with sectors := l.sectors.filter fun e => !(p l e.1 e.2) }
  { s with mem := { s.mem with cache := kept.filter fun l => !l.sectors.isEmpty } }

/-- A cluster holds a sector of a COH or PRIV base line. -/
def State.shares (s : State) (cluster line : Nat) : Bool :=
  s.mem.cache.any fun l => l.cluster == cluster && l.view.isNone && l.line == line && l.sectors.any fun e => !e.2.swc

/-- The directory entry of a line keeps the sharers that still hold a sector of it; an empty one is freed (R135). -/
def State.trimLine (s : State) (line : Nat) : State :=
  let left (m : BitVec 128) : BitVec 128 :=
    ((List.range 128).filter fun c => m.getLsbD c && s.shares c line).foldl (fun m c => m ||| (1#128 <<< c)) 0#128
  { s with mem := { s.mem with directory := (s.mem.directory.change line left).having (· != 0#128) } }

/-- What acceptance of a write to physical sector `q` does to cached copies (R115, R135, Table 6.3): view sectors whose span holds q
go everywhere, the writer's own included: Table 6.3 lets that one be updated first, and R115 lets an invalidation strike it; the model
always drops it (notes/assumptions/88.md). Base sectors of COH pages go, but for the cluster whose drain updates them. -/
def State.invalidate (s : State) (q : Nat) (updater : Option Nat) (own : Option Nat) : State :=
  (s.dropSectors fun l k x =>
    match l.view with
    | some _ => decide (x.lo ≤ q) && decide (q ≤ x.hi)
    | none => l.line * 4 + k == q && (if some l.cluster = updater then false else !x.swc || some l.cluster == own)).trimLine (q / 4)

/-- Every cached copy of a sector goes, whatever the state of its page (R139). -/
def State.forgetSector (s : State) (q : Nat) : State :=
  (s.dropSectors fun l k x =>
    match l.view with
    | some _ => decide (x.lo ≤ q) && decide (q ≤ x.hi)
    | none => l.line * 4 + k == q).trimLine (q / 4)

/-- A number that the device writes at its home slices, and the cached copies that it makes stale (R115, R129). -/
def State.deviceWrite (s : State) (a n x : Nat) : State :=
  let s := { s with mem := { s.mem with phys := s.mem.phys.pokeNum a n x } }
  (nubNat ((List.range n).map fun i => (a + i) / 32)).foldl (fun s q => (s.touchHome q).invalidate q none none) s
/-- A frame descriptor that the device writes. -/
def State.writeFdt (s : State) (f : Nat) (e : Dbl) : State := ((s.setFdt f e).touchHome (s.fdtAt f / 32)).invalidate (s.fdtAt f / 32) none none

/-! Page tables (Table 8.3) -/

abbrev Pte := BitVec 128

def pteV (e : Pte) : Bool := e.getLsbD 0
def pteLeaf (e : Pte) : Bool := e.getLsbD 1
def pteRd (e : Pte) : Bool := e.getLsbD 3
def pteRa (e : Pte) : Bool := e.getLsbD 4
def pteW (e : Pte) : Bool := e.getLsbD 5
def pteX (e : Pte) : Bool := e.getLsbD 6
def pteU (e : Pte) : Bool := e.getLsbD 7
def pteCst (e : Pte) : Nat := e.toNat / 2 ^ 9 % 4
def pteGrade (e : Pte) : Nat := e.toNat / 2 ^ 11 % 4
def pteCow (e : Pte) : Bool := e.getLsbD 13
def ptePin (e : Pte) : Bool := e.getLsbD 14
def pteZf (e : Pte) : Bool := e.getLsbD 17
def pteTier (e : Pte) : Nat := e.toNat / 2 ^ 18 % 4
def pteOwner (e : Pte) : Nat := e.toNat / 2 ^ 20 % 128
/-- XT: in transit under `pgattr` (R136). -/
def pteXt (e : Pte) : Bool := e.getLsbD 27
def pteRepl (e : Pte) : Bool := e.getLsbD 28
def pteFrame (e : Pte) : Nat := e.toNat / 2 ^ 64 % 2 ^ 48
/-- An entry with bits cleared and set. -/
def pteWith (e : Pte) (clear set : Nat) : Pte := (e &&& ~~~(BitVec.ofNat 128 clear)) ||| BitVec.ofNat 128 set
/-- An entry with another frame and tier. -/
def pteMove (e : Pte) (frame tier : Nat) : Pte :=
  pteWith e (3 * 2 ^ 18 + (2 ^ 48 - 1) * 2 ^ 64) (tier * 2 ^ 18 + frame * 2 ^ 64)

/-- Bits of a page's offset by the level of its leaf (Table 8.1). -/
def levelBits (level : Nat) : Nat := 16 + 10 * (3 - level)

/-- The faults of R142 in a leaf. -/
def pteBad (level : Nat) (e : Pte) : Bool :=
  level == 0 || pteFrame e % 2 ^ (10 * (3 - level)) != 0 || pteCst e == 3 || pteGrade e == 3 || (pteCow e && level != 3)
    || e &&& BitVec.ofNat 128 ((2 ^ 16 - 1) * 2 ^ 112 + (2 ^ 35 - 1) * 2 ^ 29 + 2 ^ 8 + 2 ^ 2) != 0#128

/-- How a walk ends: a leaf, the PA of its entry and its level; a table missing at a level above 3; or a fault. -/
inductive Walked where
  | leaf (e : Pte) (at_ level : Nat)
  | absent (at_ level : Nat) (zf : Bool)
  | bad
  | disabled
  deriving DecidableEq, Repr

/-- The part of a walk from `level` down, at the table at PA `table` (R140, R142). A table that lies in no memory reads as zeros, so that
the walk ends there with no valid entry: R142 names no code for it (notes/assumptions/111.md). -/
def walkFrom (m : Memory) (va : Nat) : Nat → Nat → Nat → Walked
  | 0, _, _ => .bad
  | fuel + 1, level, table =>
    let at_ := table + 16 * (va / 2 ^ levelBits level % 1024)
    let e := BitVec.ofNat 128 (m.num at_ 16)
    if !pteV e then .absent at_ level (level == 3 && pteZf e)
    else if pteLeaf e then (if pteBad level e then .bad else .leaf e at_ level)
    else if level = 3 then .bad
    else walkFrom m va fuel (level + 1) (e.toNat / 2 ^ 64 % 2 ^ 50 * 2 ^ 14)

/-- PAs of the entries that a walk reads, at their home slices (R141). -/
def walkReads (m : Memory) (va : Nat) : Nat → Nat → Nat → List Nat
  | 0, _, _ => []
  | fuel + 1, level, table =>
    let at_ := table + 16 * (va / 2 ^ levelBits level % 1024)
    let e := BitVec.ofNat 128 (m.num at_ 16)
    at_ :: (if pteV e && !pteLeaf e && decide (level < 3) then walkReads m va fuel (level + 1) (e.toNat / 2 ^ 64 % 2 ^ 50 * 2 ^ 14) else [])

/-- Tables that the entries of a table name, and all tables of the enabled address spaces (R141). -/
def tablesIn (m : Memory) (t : Nat) : List Nat :=
  (m.filter fun c => decide (t ≤ c.1 ∧ c.1 < t + 16384) && c.1 % 16 == 0 && c.2.toNat % 4 == 1).map fun c =>
    m.num c.1 16 / 2 ^ 64 % 2 ^ 50 * 2 ^ 14
def State.tables (s : State) : List Nat :=
  let roots := (s.hub.ptroot.filter (·.getLsbD 0)).map fun r => r.toNat / 2 ^ 14 * 2 ^ 14
  let l1 := roots.flatMap (tablesIn s.mem.phys)
  let l2 := l1.flatMap (tablesIn s.mem.phys)
  roots ++ l1 ++ l2 ++ l2.flatMap (tablesIn s.mem.phys)

/-- The walk of a base VA in an address space. -/
def State.walk (s : State) (tenant va : Nat) : Walked :=
  let r := nth s.hub.ptroot tenant 0#64
  if r.getLsbD 0 then walkFrom s.mem.phys va 4 0 (r.toNat / 2 ^ 14 * 2 ^ 14) else .disabled

/-- Kinds of access (R266). -/
inductive Access where
  | read | write | atomic | fetch
  deriving DecidableEq, Repr

/-- Who translates: address space, privilege (R255), cluster (none: a hub or the walker), translation cache (none: the walk
leaves nothing behind, as for `pref`). -/
structure Requester where
  tenant : Nat
  priv : Bool
  cluster : Option Nat
  unit : Option TlbUnit
  /-- a drain, which pages in transit let through (R136) -/
  through : Bool := false
  deriving DecidableEq, Repr

/-- Entries that a translation cache holds (R144, R145). The spec gives no size for a hub's cache: it keeps 4,096. -/
def tlbSize : TlbUnit → Nat
  | .core _ => 256
  | .walk _ => 4096
  | .hub _ => 4096

/-- A cached translation that covers a VA. -/
def State.tlbFind (s : State) (u : TlbUnit) (tenant va : Nat) : Option TlbEntry :=
  s.mem.tlb.find? fun t => t.unit == u && t.tenant == tenant && t.page == va / 2 ^ t.size

/-- Load an entry into a cache, the oldest leaving a full one. -/
def tlbInsert (l : List TlbEntry) (t : TlbEntry) : List TlbEntry :=
  let mine := l.filter (·.unit == t.unit)
  let l := if mine.length < tlbSize t.unit then l else match mine with | o :: _ => l.erase o | [] => l
  l ++ [t]

/-- OR bits into an entry at its home slice (R143). -/
def State.orPte (s : State) (at_ bits : Nat) : State :=
  s.deviceWrite at_ 16 (s.mem.phys.num at_ 16 ||| bits)

/-- Drop cached translations (R146). -/
def State.tlbDrop (s : State) (p : TlbEntry → Bool) : State :=
  { s with mem := { s.mem with tlb := s.mem.tlb.filter fun t => !(p t) } }
def State.tlbDropPage (s : State) (tenant va : Nat) : State :=
  s.tlbDrop fun t => t.tenant == tenant && t.page == va / 2 ^ t.size

/-- A requester that leaves nothing behind. -/
def Requester.peek (q : Requester) : Requester := { q with unit := none }

/-- The entries that a walk reads come to their home slices. -/
def State.touchWalk (s : State) (tenant va : Nat) : State :=
  let r := nth s.hub.ptroot tenant 0#64
  if r.getLsbD 0 then (walkReads s.mem.phys va 4 0 (r.toNat / 2 ^ 14 * 2 ^ 14)).foldl (fun s a => s.touchHome (a / 32)) s else s

/-- Load the leaf that a walk found into a translation cache. -/
def State.loadTlb (s : State) (u : TlbUnit) (tenant va : Nat) (e : Pte) (at_ level : Nat) (ahead : Bool) : State :=
  let t : TlbEntry := { unit := u, tenant := tenant, page := va / 2 ^ levelBits level, size := levelBits level, entry := e, at_ := at_,
                        ahead := ahead }
  { s with mem := { s.mem with tlb := tlbInsert s.mem.tlb t } }

/-- The leaf of a base VA through the requester's translation cache: a miss walks, loads the entry and sets A; so does the first access
that reaches an entry walked ahead (R143, R144, R145). -/
def State.leafOf (s : State) (q : Requester) (va : Nat) : State × Walked :=
  match q.unit with
  | none => (s, s.walk q.tenant va)
  | some u =>
    match s.tlbFind u q.tenant va with
    | some t =>
      let level := 3 - (t.size - 16) / 10
      if t.ahead then
        let e := pteWith t.entry 0 (2 ^ 15)
        let s := s.orPte t.at_ (2 ^ 15)
        ({ s with mem := { s.mem with tlb := s.mem.tlb.map fun x => if x == t then { x with entry := e, ahead := false } else x } },
          .leaf e t.at_ level)
      else (s, .leaf t.entry t.at_ level)
    | none =>
      let s := s.touchWalk q.tenant va
      match s.walk q.tenant va with
      | .leaf e at_ level =>
        let e := pteWith e 0 (2 ^ 15)
        ((s.orPte at_ (2 ^ 15)).loadTlb u q.tenant va e at_ level false, .leaf e at_ level)
      | w => (s, w)

/-- A walk ahead of one page (R145): it sets nothing and raises nothing. -/
def State.aheadOf (s : State) (q : Requester) (va : Nat) : State :=
  match q.unit with
  | none => s
  | some u =>
    if (s.tlbFind u q.tenant va).isSome then s
    else
      let s := s.touchWalk q.tenant va
      match s.walk q.tenant va with
      | .leaf e at_ level => s.loadTlb u q.tenant va e at_ level true
      | .absent .. | .bad | .disabled => s

/-- An engine walks ahead: the pages of base VAs that its operation comes to next, 32 at most; the model walks all of them
(notes/assumptions/89.md). -/
def State.walkAhead (s : State) (q : Requester) (vas : List Int) : State :=
  let pages := nubNat (vas.filterMap fun a => if 0 ≤ a ∧ a < 2 ^ 56 then some (a.toNat / 65536) else none)
  (pages.take 32).foldl (fun s p => s.aheadOf q (p * 65536)) s

/-! Locations -/

/-- A fault of an access at one slot: code, the address reported, the base VA after Map, and the base VA to be resolved. Code 0 is no
fault: the access parks on a page in transit (R136). -/
structure AFault where
  code : Nat
  addr : Nat
  bva : Nat
  page : Nat
  deriving DecidableEq, Repr

/-- Replica key `i` of a descriptor (R160): PKG, and the frame as its PA bits [47:0] >> 16. -/
def replicaKey (m : Memory) (desc i off : Nat) : Nat :=
  let d := m.num (desc + 8 + 8 * i) 8
  d / 2 ^ 48 % 512 * 2 ^ 48 + (d % 2 ^ 32 * 65536 + off) % 2 ^ 48

/-- Insert a key before the first that stands further away: of equally distant ones the one inserted last comes first. -/
def nearInsert (hops : Nat → Nat) (k : Nat) : List Nat → List Nat
  | [] => [k]
  | x :: r => if hops k ≤ hops x then k :: x :: r else x :: nearInsert hops k r

/-- Switch hops from this package to the one of a key: the switches of the domain stand in two levels (Table 1.4); which switch of the
first level a package hangs from is free (notes/assumptions/30.md). -/
def State.hopsTo (s : State) (key : Nat) : Nat :=
  if Config.leafSwitch (key / 2 ^ 48) = Config.leafSwitch s.hub.peerSelf.toNat then 1 else 3

/-- Unfailed replicas, the one with the fewest switch hops first, of equally distant ones the lowest index (R160). -/
def State.replicaList (s : State) (desc off : Nat) : List Nat :=
  let h := s.mem.phys.num desc 8
  (((List.range (h % 8 + 1)).filter fun i => h / 2 ^ (8 + i) % 2 == 0).map fun i => replicaKey s.mem.phys desc i off).foldr
    (nearInsert s.hopsTo) []

/-- A package marked down (R231), and one that no peer access may name (R230). -/
def State.peerDown (s : State) (pkg : Nat) : Bool := s.hub.peerDown.getLsbD pkg
def State.peerBad (s : State) (pkg : Nat) : Bool := pkg == s.hub.peerSelf.toNat || decide (s.hub.peerDom.toNat ≤ pkg)

/-- Unfailed replicas that can be reached. -/
def State.reachable (s : State) (desc off : Nat) : List Nat := (s.replicaList desc off).filter fun k => !s.peerDown (k / 2 ^ 48)

/-- Replicas of a descriptor that cannot be reached get their failed bit (R160). -/
def State.failDesc (s : State) (d : Nat) : State :=
  (List.range (s.mem.phys.num d 8 % 8 + 1)).foldl (fun s i =>
    if s.peerDown (replicaKey s.mem.phys d i 0 / 2 ^ 48) then
      s.deviceWrite (d + 1) 1 (s.mem.phys.byte (d + 1) ||| (1#8 <<< i)).toNat
    else s) s

/-- The fault of a leaf for an access, highest in Table 8.4 first; none where the access may go on. A frame that is no memory of the
package gets no code from R142, R395 or Table 8.4: the model reports BADPTE (notes/assumptions/90.md). A page of another package obeys
R230; a store or atomic to a replica set faults when one replica cannot be reached, a load when none can (R160). A page in transit parks
the access (R136). -/
def State.leafFault (s : State) (q : Requester) (k : Access) (e : Pte) (level va : Nat) : Option Nat :=
  let frameOff := va % 2 ^ levelBits level
  let pa := pteFrame e * 65536 + frameOff
  let mapped := pteTier e != 3
  let set := pteTier e == 3 && pteRepl e
  let desc := pteFrame e * 65536
  let all := if set then s.replicaList desc 0 else []
  let up := if set then s.reachable desc 0 else []
  let writes := k == .write || k == .atomic
  let foreign := if set then (if writes then all else up.take 1) else if mapped then [] else [pa % 2 ^ 57]
  if pteXt e && !q.through then some 0
  else if foreign.any fun x => s.peerBad (x / 2 ^ 48) then some 0x16
  else if mapped && !s.isMemory pa then some 0x17
  else if pteTier e == 1 && level == 3 then some 0x19
  else if pteCow e && writes then some 0x1A
  else if (!pteU e && !q.priv) || (k == .read && !pteRd e) || (k == .write && !pteW e) || (k == .atomic && !pteRa e) then some 0x1B
  else if writes && mapped && s.locked pa then some 0x1C
  else if k == .fetch && !pteX e then some 0x1D
  else if pteCst e == 2 && q.cluster != some (pteOwner e) then some 0x1F
  else if set && (up.isEmpty || (writes && up.length < all.length)) then some 0x21
  else none

/-- The location that a leaf gives a VA. -/
def State.leafLoc (s : State) (e : Pte) (level va : Nat) : Loc :=
  let off := va % 2 ^ levelBits level
  if pteTier e == 3 then
    if pteRepl e then .replicas (pteFrame e * 65536) off (s.reachable (pteFrame e * 65536) off)
    else .peer ((pteFrame e * 65536 + off) % 2 ^ 57)
  else .phys (pteFrame e * 65536 + off)

/-- The fault of one byte: its code, the base VA after Map (0: before it), the base VA to be resolved, and the state of its page where
the fault stands below a mixture of states in Table 8.4 (3: none). -/
structure ByteFault where
  code : Nat
  bva : Nat
  page : Nat
  cst : Nat
  deriving DecidableEq, Repr

/-- What one byte gives: its location, its page's state and leaf, or its fault. -/
abbrev ByteResult := Except ByteFault (Loc × Nat × Nat)
/-- A fault of a byte that no page has a part in. -/
def noPage (code : Nat) : ByteResult := .error { code := code, bva := 0, page := 0, cst := 3 }

/-- One base VA (R140-R143, R147). -/
def State.baseByte (s : State) (q : Requester) (k : Access) (va : Nat) : State × ByteResult :=
  let fail (c cst : Nat) : ByteResult := .error { code := c, bva := va, page := va, cst := cst }
  let (s, w) := s.leafOf q va
  match w with
  | .disabled => (s, fail 0x16 3)
  | .bad => (s, fail 0x17 3)
  | .absent _ _ _ => (s, fail 0x18 3)
  | .leaf e at_ level =>
    let t := if pteTier e == 3 && pteRepl e && q.unit.isSome then s.failDesc (pteFrame e * 65536) else s
    match s.leafFault q k e level va with
    | some c => (t, fail c (if c = 0x21 then pteCst e else 3))
    | none => (t, .ok (s.leafLoc e level va, pteCst e, at_))

/-- Spaces of an address (R88, R140, R230). -/
inductive Space where
  | base | shadow | peer | bad
  deriving DecidableEq, Repr

def spaceOf (a : Int) : Space :=
  if a < 0 then .bad
  else
    let n := a.toNat
    if n < 2 ^ 56 then .base
    else if n < 2 ^ 57 then .shadow
    else if n < 2 ^ 58 then .peer
    else .bad

/-- A peer-space address: BADVA for the package's own number or one outside the domain (R230). Its byte has no page here. -/
def State.peerByte (s : State) (a : Nat) : ByteResult :=
  if s.peerBad (a / 2 ^ 48 % 512) then noPage 0x16 else .ok (.peer (a % 2 ^ 57), 3, 0)

/-! Views (R88-R104) -/

/-- A view descriptor taken apart (Tables 5.2, 5.3). -/
structure ViewDesc where
  base : Nat
  ctl : Nat
  ext : List Nat
  par : List Nat
  idxBase : Nat
  bcount : Nat
  deriving DecidableEq, Repr

/-- 32-bit field `i` of a list of doubles. -/
def half32 (w : List Dbl) (i : Nat) : Nat := (nth w (i / 2) 0#64).toNat / 2 ^ (32 * (i % 2)) % 2 ^ 32

def viewOf (w : List Dbl) : ViewDesc :=
  { base := (nth w 0 0#64).toNat, ctl := (nth w 1 0#64).toNat, ext := (List.range 6).map fun i => half32 w (4 + i),
    par := (List.range 6).map fun i => half32 w (10 + i), idxBase := (nth w 8 0#64).toNat, bcount := (nth w 9 0#64).toNat }

def ViewDesc.bits (v : ViewDesc) (lo n : Nat) : Nat := v.ctl / 2 ^ lo % 2 ^ n
def ViewDesc.esize (v : ViewDesc) : Nat := 2 ^ v.bits 8 3
def ViewDesc.rank (v : ViewDesc) : Nat := v.bits 16 3
def ViewDesc.xform (v : ViewDesc) : Nat := v.bits 24 3
def ViewDesc.oobZero (v : ViewDesc) : Bool := v.bits 32 1 == 1
def ViewDesc.right (v : ViewDesc) (k : Access) : Bool :=
  match k with
  | .read => v.bits 33 1 == 1
  | .write => v.bits 34 1 == 1
  | .atomic => v.bits 35 1 == 1
  | .fetch => false
def ViewDesc.remote (v : ViewDesc) : Bool := v.bits 47 1 == 1
def ViewDesc.pkg (v : ViewDesc) : Nat := v.bits 48 9
def ViewDesc.exts (v : ViewDesc) : List Nat := v.ext.take v.rank
/-- N (R90). -/
def ViewDesc.count (v : ViewDesc) : Nat := v.exts.foldl (· * ·) 1
/-- Bytes of an index entry (R94). -/
def ViewDesc.idxSize (v : ViewDesc) : Nat := if v.bits 0 1 == 1 then 8 else 4

/-- Coordinates of element `e` (R93). -/
def coords (e : Nat) : List Nat → List Nat
  | [] => []
  | x :: r => e % x :: coords (e / x) r

/-- j0 + E0·(j1 + E1·(…)). -/
def mixed : List Nat → List Nat → Nat
  | j :: js, x :: xs => j + x * mixed js xs
  | _, _ => 0

/-- P(π(k)) of PERM: the product of the base extents below π(k). -/
def permStride (perm ext : List Nat) (d : Nat) : Nat :=
  ((List.range d).map fun i => match perm.idxOf? i with | some k => nth ext k 1 | none => 1).foldl (· * ·) 1

/-- Morton index (R94): bit `level` of each coordinate in turn. -/
def morton (js ws : List Nat) : Nat :=
  ((List.range 16).foldl (fun acc level =>
    (List.range js.length).foldl (fun (z, pos) k =>
      if level < nth ws k 0 then (z + (nth js k 0 / 2 ^ level % 2) * 2 ^ pos, pos + 1) else (z, pos)) acc) (0, 0)).1

/-- Tiles per dimension. -/
def tilesOf (ext tile : List Nat) : List Nat := (ext.zip tile).map fun (x, t) => (x + t - 1) / t

/-- Map of Table 5.4, but for INDEX. -/
def ViewDesc.map (v : ViewDesc) (j : List Nat) : Int :=
  let par := v.par.take v.rank
  match v.xform with
  | 0 =>
    let perm := par.map (· % 8)
    ((((j.zip perm).map fun (x, d) => x * permStride perm v.exts d).foldl (· + ·) 0 : Nat) : Int)
  | 1 =>
    let q := (j.zip par).map fun (x, t) => x / t
    let r := (j.zip par).map fun (x, t) => x % t
    ((mixed q (tilesOf v.exts par) * par.foldl (· * ·) 1 + mixed r par : Nat) : Int)
  | 2 => ((j.zip par).map fun (x, p) => (x : Int) * (BitVec.ofNat 32 p).toInt).foldl (· + ·) 0
  | _ =>
    let c := nth v.par 0 2
    let ws := (v.exts.take c).map Nat.log2
    ((morton (j.take c) ws + 2 ^ (ws.foldl (· + ·) 0) * mixed (j.drop c) (v.exts.drop c) : Nat) : Int)

/-- Owner of a view slot (R89). -/
def State.slotOwner (s : State) (slot : Nat) : Option Nat :=
  if 4096 ≤ slot then none
  else (List.range 16).find? fun t =>
    let q := (nth s.hub.vquota t 0#32).toNat
    decide (q % 4096 ≤ slot) && decide (slot < q % 4096 + q / 65536 % 8192)

/-- Where Map leads: a base address (an exact integer), out of bounds, or to a package that is down, at a byte there. -/
inductive Mapped where
  | at_ (a : Int)
  | out
  | lost (key : Nat)
  deriving DecidableEq, Repr

/-- What reading an index entry gives: its value, or a byte of a package that is down. -/
inductive IndexRead where
  | value (m : Nat)
  | lost (key : Nat)
  deriving DecidableEq, Repr

/-- A number read at another package. -/
def State.peerIndex (s : State) (key n : Nat) : IndexRead := if s.peerDown (key / 2 ^ 48) then .lost key else .value (s.mem.peer.num key n)

/-- Entry `e` of an index vector, read at its home slice with the slot owner's translation (R101); an entry beyond base space is a BADVA.
The vector of a remote view lies on PKG: bits [47:0] of its address are taken as a PA there (notes/assumptions/91.md). -/
def State.indexEntry (s : State) (q : Requester) (v : ViewDesc) (e : Nat) : State × Except ByteFault IndexRead :=
  let at_ := v.idxBase + e * v.idxSize
  if v.remote then (s, .ok (s.peerIndex (v.pkg * 2 ^ 48 + at_ % 2 ^ 48) v.idxSize))
  else if 2 ^ 56 ≤ at_ then (s, .error { code := 0x16, bva := 0, page := at_, cst := 3 })
  else
    -- an index entry is aligned, so it lies in one page
    let (s, r) := s.baseByte q .read at_
    match r with
    -- a fault within Map has no base VA after it (R100)
    | .error f => (s, .error { f with bva := 0, cst := 3 })
    | .ok (.phys pa, _, _) => (if q.unit.isSome then s.touchHome (pa / 32) else s, .ok (.value (s.mem.phys.num pa v.idxSize)))
    | .ok (.peer k, _, _) => (s, .ok (s.peerIndex k v.idxSize))
    | .ok (.replicas _ _ (k :: _), _, _) => (s, .ok (s.peerIndex k v.idxSize))
    | .ok (_, _, _) => (s, .ok (.value 0))

/-- Map of one view offset, or a fault. -/
def State.mapOffset (s : State) (q : Requester) (v : ViewDesc) (o : Nat) : State × Except ByteFault Mapped :=
  let sz := v.esize
  let e := o / sz
  if v.count ≤ e then (s, .ok .out)
  else
    match v.xform with
    | 4 =>
      let (s, r) := s.indexEntry q v e
      match r with
      | .error c => (s, .error c)
      | .ok (.lost k) => (s, .ok (.lost k))
      | .ok (.value m) => (s, .ok (if v.bcount ≤ m then .out else .at_ ((v.base + m * sz + o % sz : Nat) : Int)))
    | _ => (s, .ok (.at_ (v.base + v.map (coords e v.exts) * (sz : Int) + ((o % sz : Nat) : Int))))

/-- The view cache and address space in which a shadow access translates its base (R90, R107). -/
def viewRequester (q : Requester) (view : View) : Requester :=
  { q with tenant := view.asid, unit := match q.unit with | none => none | some _ => some (.hub (hubOf (q.cluster.getD 0))) }

/-- One byte of a view: its result and the base VA it maps to. -/
def State.viewByte (s : State) (q : Requester) (k : Access) (view : View) (o : Nat) : State × ByteResult :=
  let v := viewOf view.words
  let vq := viewRequester q view
  let (s, r) := s.mapOffset vq v o
  match r with
  | .error f => (s, .error f)
  | .ok .out => (s, if v.oobZero then .ok (.zero, 3, 0) else noPage 0x15)
  | .ok (.lost key) => (s, .ok (.peer key, 3, 0))
  | .ok (.at_ a) =>
    if v.remote then (s, match s.peerByte a.toNat with | .ok x => .ok x | .error f => .error { f with bva := a.toNat, page := a.toNat })
    else s.baseByte vq k a.toNat

/-- The base VA of the first byte of a view access that Map gives one (TRBVA of VMIX; notes/assumptions/92.md). -/
def State.firstBase (s : State) (q : Requester) (view : View) (o n : Nat) : Nat :=
  ((List.range n).findSome? fun i => match (s.mapOffset (viewRequester q.peek view) (viewOf view.words) (o + i)).2 with
    | .ok (.at_ a) => some a.toNat
    | _ => none).getD 0

/-- Gather the bytes of an access: locations, states and leaves of those that translate, and the fault highest in Table 8.4. -/
def State.gatherBytes (s : State) (f : State → Nat → State × ByteResult) (fuel i : Nat) (t : Target)
    (bad : Option ByteFault) : State × Target × Option ByteFault :=
  match fuel with
  | 0 => (s, t, bad)
  | n + 1 =>
    let (s, r) := f s i
    match r with
    | .ok (l, c, at_) =>
      let real := match l with | .zero => false | _ => true
      s.gatherBytes f n (i + 1)
        { t with bytes := t.bytes ++ [l], csts := t.csts ++ [c],
                 leaves := if !real || at_ == 0 || t.leaves.contains at_ then t.leaves else t.leaves ++ [at_] } bad
    | .error x =>
      s.gatherBytes f n (i + 1) { t with bytes := t.bytes ++ [.zero], csts := t.csts ++ [x.cst] }
        (match bad with | none => some x | some y => if x.code < y.code then some x else some y)

def Target.empty : Target := { bytes := [], csts := [], leaves := [], shadow := none }

/-- Pages of more than one coherence state are reached (R99). -/
def mixedStates (csts : List Nat) : Bool := decide (1 < (nubNat (csts.filter (· != 3))).length)

/-- The installed view of a slot that a tenant owns. -/
def State.ownView (s : State) (tenant slot : Nat) : Option View :=
  if s.slotOwner slot = some tenant then s.eng.views.look slot else none

/-- An element of an access through a view is out of bounds. -/
def State.anyOut (s : State) (q : Requester) (view : View) (o n : Nat) : Bool :=
  (List.range n).any fun i => match (s.mapOffset (viewRequester q.peek view) (viewOf view.words) (o + i)).2 with
    | .ok .out => true
    | .ok (.at_ _) | .ok (.lost _) | .error _ => false

/-- An access of `n` bytes at an address of SEG.G by one slot (R98-R100, R140, R141, R147, R272 for `aligned`): of several faults the
one that stands highest in Table 8.4. TRADDR of a sum outside [0, 2^64) is the sum modulo 2^64 (notes/assumptions/112.md). -/
def State.globalTarget (s : State) (q : Requester) (k : Access) (aligned : Bool) (a : Int) (n : Nat) : State × Except AFault Target :=
  let fail (c : Nat) (bva page : Nat) : Except AFault Target := .error { code := c, addr := wrapNat a 64, bva := bva, page := page }
  let lost := decide (spaceOf a = .bad ∨ spaceOf a ≠ spaceOf (a + n - 1)) || !(nth s.hub.ptroot q.tenant 0#64).getLsbD 0
  let odd := aligned && decide (a % (n : Int) ≠ 0)
  let x := a.toNat
  match spaceOf a with
  | .bad => (s, fail (if odd then 0x13 else 0x16) 0 0)
  | .peer =>
    if odd then (s, fail 0x13 0 0)
    else if lost then (s, fail 0x16 0 0)
    else
      let (s, t, bad) := s.gatherBytes (fun s i => (s, s.peerByte (x + i))) n 0 Target.empty none
      (s, match bad with | some f => fail f.code 0 0 | none => .ok t)
  | .base =>
    if odd then (s, fail 0x13 0 0)
    else if lost then (s, fail 0x16 0 0)
    else
      let (s, t, bad) := s.gatherBytes (fun s i => s.baseByte q k (x + i)) n 0 Target.empty none
      (s, match bad with | some f => fail f.code 0 f.page | none => .ok t)
  | .shadow =>
    let o := x % 2 ^ 44
    match s.ownView q.tenant (x / 2 ^ 44 % 4096) with
    | none => (s, fail 0x12 0 0)
    | some view =>
      let v := viewOf view.words
      if odd || o % min n v.esize != 0 || (k == .atomic && decide (v.esize < n)) then (s, fail 0x13 0 0)
      else if !v.right k then (s, fail 0x14 0 0)
      else if lost then (s, fail (if s.anyOut q view o n ∧ !v.oobZero then 0x15 else 0x16) 0 0)
      else
        let (s, t, bad) := s.gatherBytes (fun s i => s.viewByte q k view (o + i)) n 0 { Target.empty with shadow := some x } none
        let mixed := if mixedStates t.csts then fail 0x20 (s.firstBase q view o n) 0 else .ok t
        match bad with
        | some f => (s, if f.code = 0x21 ∧ mixedStates t.csts then mixed else fail f.code f.bva f.page)
        | none => (s, mixed)

/-- Bytes of a range mapped one by one, each in its own space and slot (R102), for engines: the location of one byte. -/
def State.engineByte (s : State) (q : Requester) (k : Access) (a : Int) : State × Except AFault Target :=
  s.globalTarget q k false a 1

/-- The bytes of a composed line of shadow space, each with its page's state; none where mapping or translating it faults (R107). -/
def State.composed (s : State) (q : Requester) (line : Nat) : State × List (Option (Loc × Nat)) :=
  (List.range 128).foldl (fun acc i =>
    let (s, r) := acc.1.engineByte q .read ((line * 128 + i : Nat) : Int)
    (s, acc.2 ++ [match r with
      | .ok t => some (nth t.bytes 0 .zero, nth t.csts 0 3)
      | .error _ => none])) (s, [])

/-- States of the pages that a composed line reaches, which an engine must find to be one (R99). -/
def lineStates (bs : List (Option (Loc × Nat))) : List Nat := bs.filterMap fun b => b.map (·.2)

/-- The pages that a write marks dirty (R143). -/
def State.markDirty (s : State) (leaves : List Nat) : State := leaves.foldl (fun s at_ => s.orPte at_ (2 ^ 16)) s

end Sys2Proof.Machine
end

