-- ==== Sys2Proof/Machine/Coherence.lean ====
section
/-! DEFINITION. Merge buffers, cluster caches, directories, span filters and home slices: reading and writing the bytes of a
target, drains, and the effects of fences (R79, R80, R107-R118, R121-R135, R207, R300). -/

namespace Sys2Proof.Machine

/-! Cluster caches (R79, R114-R117, R135) -/

/-- Ways of a cluster's cache: its banks in STABLE CACHE mode. -/
def State.ways (s : State) (cluster : Nat) : List Nat := (List.range 512).filter fun b => s.stableBank cluster b 2

/-- Set of a line: address bits [14:7]. -/
def CacheLine.set (l : CacheLine) : Nat := l.line % 256

/-- Keep a sector in a cluster's cache (R79): a new line takes a way that its set has free, the lowest bank of several
(notes/assumptions/43.md), and otherwise replaces the line filled earliest in its set. With no way nothing is kept. -/
def State.fillSector (s : State) (cluster : Nat) (view : Option Nat) (line k : Nat) (x : Sector) : State :=
  let same (l : CacheLine) : Bool := l.cluster == cluster && l.view == view && l.line == line
  let cache :=
    if s.mem.cache.any same then s.mem.cache.map fun l => if same l then { l with sectors := l.sectors.put k x } else l
    else
      let ways := s.ways cluster
      let inSet := s.mem.cache.filter fun l => l.cluster == cluster && l.set == line % 256 && ways.contains l.way
      let new (b : Nat) : CacheLine := { cluster := cluster, way := b, view := view, line := line, sectors := [(k, x)] }
      match ways.find? fun b => !inSet.any (·.way == b), inSet with
      | some b, _ => s.mem.cache ++ [new b]
      | none, o :: _ => s.mem.cache.erase o ++ [new o.way]
      | none, [] => s.mem.cache
  { s with mem := { s.mem with cache := cache } }

/-- A cached sector. -/
def State.cached (s : State) (cluster : Nat) (view : Option Nat) (line k : Nat) : Option Sector :=
  match s.mem.cache.find? fun l => l.cluster == cluster && l.view == view && l.line == line with
  | some l => l.sectors.look k
  | none => none

/-- A cluster becomes a sharer of a COH line (R135). -/
def State.addSharer (s : State) (line cluster : Nat) : State :=
  { s with mem := { s.mem with
      directory := s.mem.directory.put line (((s.mem.directory.look line).getD 0#128) ||| (1#128 <<< cluster)) } }

/-- Enter a span for a cluster (R116): an overlapping interval is widened, else a new one; the oldest is evicted from a full filter
and its clusters drop what it covers. R116 speaks of one entry that a span overlaps: of several the model widens each
(notes/assumptions/93.md). -/
def State.enterSpan (s : State) (hub lo hi cluster : Nat) : State :=
  let overlaps (e : Span) : Bool := e.hub == hub && decide (e.lo ≤ hi) && decide (lo ≤ e.hi)
  if s.mem.spans.any overlaps then
    let wider (e : Span) : Span := { e with lo := min e.lo lo, hi := max e.hi hi, mask := e.mask ||| (1#128 <<< cluster) }
    { s with mem := { s.mem with spans := s.mem.spans.map fun e => bif overlaps e then wider e else e } }
  else
    let mine := s.mem.spans.filter (·.hub == hub)
    let new : Span := { hub := hub, lo := lo, hi := hi, mask := 1#128 <<< cluster }
    if mine.length < 1024 then { s with mem := { s.mem with spans := s.mem.spans ++ [new] } }
    else match mine with
      | o :: _ =>
        let s := s.dropSectors fun l _ x => l.view.isSome && o.mask.getLsbD l.cluster && decide (x.lo ≤ o.hi ∧ o.lo ≤ x.hi)
        { s with mem := { s.mem with spans := s.mem.spans.erase o ++ [new] } }
      | [] => s

/-- Where poison of a byte is kept: a sector, a store word, or a sector of another package under a key of its own. -/
inductive PoisonUnit where
  | sector (q : Nat)
  | word (k : Nat)
  deriving DecidableEq, Repr

def Loc.unit (l : Loc) : Option PoisonUnit :=
  match l with
  | .phys pa => some (.sector (pa / 32))
  | .store k => some (.word (k / 4 * 4))
  | .peer k | .replicas _ _ (k :: _) => some (.sector (2 ^ 60 + k / 32))
  | .replicas _ _ [] | .zero => none

def State.unitPoisoned (s : State) (u : PoisonUnit) : Bool :=
  match u with | .sector q => s.mem.poison.contains q | .word k => s.mem.storePoison.contains k
def State.setPoison (s : State) (u : PoisonUnit) : State :=
  match u with
  | .sector q => { s with mem := { s.mem with poison := nubNat (s.mem.poison ++ [q]) } }
  | .word k => { s with mem := { s.mem with storePoison := nubNat (s.mem.storePoison ++ [k]) } }
def State.clearPoison (s : State) (u : PoisonUnit) : State :=
  match u with
  | .sector q => { s with mem := { s.mem with poison := s.mem.poison.filter (· != q) } }
  | .word k => { s with mem := { s.mem with storePoison := s.mem.storePoison.filter (· != k) } }
/-- Bytes of a unit. -/
def PoisonUnit.size : PoisonUnit → Nat
  | .sector _ => 32 | .word _ => 4

/-- Bytes that a peer location stands for. -/
def Loc.spread (l : Loc) : List Loc := match l with | .replicas _ _ ks => ks.map .peer | l => [l]

/-- Poison after a write: a unit that takes a poisoned byte is poisoned, one that is written whole by others is not (R207). -/
def State.settlePoison (s : State) (ws : List (Loc × Bool)) : State :=
  let all := ws.flatMap fun (l, b) => l.spread.map (·, b)
  let units := (all.filterMap fun (l, _) => l.unit).foldl (fun (acc : List PoisonUnit) u => if acc.contains u then acc else acc ++ [u]) []
  units.foldl (fun s u =>
    let mine := all.filter fun x => x.1.unit == some u
    if mine.any (·.2) then s.setPoison u
    else if s.unitPoisoned u && decide (u.size ≤ ((mine.map (·.1)).foldl (fun (acc : List Loc) l => if acc.contains l then acc else l :: acc) []).length)
      then s.clearPoison u
    else s) s

/-- Bytes accepted at their home slices as one write: (PA, byte) pairs. `updater` is the cluster whose drain writes, `own` the
cluster of an engine or atomic that writes. A whole sector written loses its poison (R207). -/
def State.acceptPhys (s : State) (bs : List (Nat × Byte)) (updater own : Option Nat) : State :=
  let sectors := nubNat (bs.map fun b => b.1 / 32)
  let s := s.describe (bs.map (·.1))
  let phys := bs.foldl (fun m b => m.poke b.1 b.2) s.mem.phys
  let s := State.settlePoison { s with mem := { s.mem with phys := phys } } (bs.map fun b => (.phys b.1, false))
  let s := sectors.foldl (fun s q => (s.touchHome q).invalidate q updater own) s
  -- the writer's own copies take the drained bytes
  match updater with
  | none => s
  | some c =>
    { s with mem := { s.mem with cache := s.mem.cache.map fun l =>
        if l.cluster == c && l.view == none then
          { l with sectors := l.sectors.map fun (k, x) =>
              (k, { x with bytes := bs.foldl (fun m b => if b.1 / 32 = l.line * 4 + k then m.poke (b.1 % 32) b.2 else m) x.bytes }) }
        else l } }

/-! Bytes of other packages (R230, R231) -/

def State.pokePeer (s : State) (key : Nat) (b : Byte) : State :=
  { s with mem := { s.mem with peer := s.mem.peer.poke key b } }

/-! Merge buffers (R80) -/

/-- The line's byte at an offset: the one stored last. -/
def MergeLine.at_ (m : MergeLine) (i : Nat) : Option LineByte := (m.stores.filter (·.off == i)).getLast?
def MergeLine.valid (m : MergeLine) (i : Nat) : Bool := m.stores.any (·.off == i)
/-- The line's bytes by rising offset. -/
def MergeLine.written (m : MergeLine) : List LineByte := (List.range 128).filterMap m.at_
def MergeLine.owners (m : MergeLine) : List Nat := nubNat (m.stores.map (·.owner))
/-- A byte is stored to a line: it replaces the one that its context stored there. -/
def MergeLine.put (m : MergeLine) (b : LineByte) : MergeLine :=
  { m with stores := (m.stores.filter fun x => !(x.off == b.off && x.owner == b.owner)) ++ [b] }

/-- Kinds of merge-buffer line: 0 physical, 1 shadow, 2 another package, 3 a replica set. -/
def lineOf (t : Target) (i : Nat) (l : Loc) : Option (Nat × Nat × Nat) :=
  match t.shadow, l with
  | some x, .zero => some (1, (x + i) / 128, (x + i) % 128)
  | some x, .phys _ | some x, .peer _ | some x, .replicas .. => some (1, (x + i) / 128, (x + i) % 128)
  | none, .phys pa => some (0, pa / 128, pa % 128)
  | none, .peer k => some (2, k / 128, k % 128)
  | none, .replicas d o (_ :: _) => some (3, d * 2 ^ 29 + o / 128, o % 128)
  | _, _ => none

/-- An access reaches another package. -/
def Target.isPeer (t : Target) : Bool := t.bytes.any fun l => match l with
  | .peer _ | .replicas .. => true
  | .phys _ | .store _ | .zero => false

/-- The lines of another package that an access names, of packages that can be reached: those of a view are composed there (R201). -/
def State.peerLines (s : State) (t : Target) : List Nat :=
  nubNat (t.bytes.zipIdx.filterMap fun (l, i) => match l with
    | .peer k | .replicas _ _ (k :: _) =>
      if s.peerDown (k / 2 ^ 48) then none
      else some (match t.shadow with | some x => 2 * ((x + i) / 128) + 1 | none => 2 * (k / 128))
    | .phys _ | .store _ | .replicas _ _ [] | .zero => none)

/-- A slot holds no view of this package's memory. -/
def State.farView (s : State) (slot : Nat) : Bool := match s.eng.views.look slot with | some v => (viewOf v.words).remote | none => true

/-- `n` requests to another package and their replies, at the hub of a cluster's tower (R396): the first through a remote view brings its
descriptor to the far hub (R118). -/
def State.peerRequests (s : State) (cluster tenant n : Nat) (slots : List Nat) : State :=
  let h := hubRecorder (hubOf cluster)
  let s := (List.range n).foldl (fun s _ => (s.peerRecord h tenant true).peerRecord h tenant false) s
  if n = 0 then s else { s with eng := { s.eng with farDesc := nubNat (s.eng.farDesc ++ slots.filter s.farView) } }

/-- View slots that accesses name. -/
def slotsNamed (ts : List Target) : List Nat := ts.filterMap fun t => t.shadow.map (· / 2 ^ 44 % 4096)

/-- Accesses that read other packages: one request for each line that they name. -/
def State.peerTraffic (s : State) (cluster tenant : Nat) (ts : List Target) : State :=
  s.peerRequests cluster tenant (nubNat (ts.flatMap s.peerLines)).length (slotsNamed (ts.filter Target.isPeer))

/-- The merge line of a core. -/
def State.mergeFind (s : State) (core space line : Nat) : Option MergeLine :=
  s.mem.merge.find? fun m => m.core == core && m.space == space && m.line == line

/-- A byte for another package (R230, R231): written, or, where that package is marked down, a consumption by the gang that stored it. -/
def State.peerByteTo (s : State) (core tenant key : Nat) (b : Byte) (bad : Bool) (owner : Option Nat) : State :=
  if s.peerDown (key / 2 ^ 48) then match owner with | some u => s.consumeStore u core tenant | none => s
  else (s.pokePeer key b).settlePoison [(.peer key, bad)]

/-- Bytes for other packages: the owner is the context that stored them, none for an engine. -/
def State.peerWrite (s : State) (bs : List (Nat × Byte × Bool)) (core tenant : Nat) (owner : Option Nat) : State :=
  bs.foldl (fun s b => s.peerByteTo core tenant b.1 b.2.1 b.2.2 owner) s

/-- Replicas that a store writes: those that can be reached (R160); where none can be, the store goes to a package that is down (R231). -/
def State.replicaTo (s : State) (ks : List Nat) : List Nat :=
  match ks.filter fun k => !s.peerDown (k / 2 ^ 48) with | [] => ks.take 1 | up => up

/-! The driver's fault queue (R156, R228) -/

def State.fqSize (s : State) : Nat := 2 ^ (s.hub.fqCtl.toNat % 32)

/-- KIND and CTX of what a fault is for (Table 11.3): an engine's operation belongs to its node; the walker and a drained line have none. -/
def State.whoCtx (s : State) (w : Who) : Nat :=
  let node (n : Option Nat) : Nat := match n with | some n => 2 * 2 ^ 14 + n % 2 ^ 14 | none => 3 * 2 ^ 14
  match w with
  | .log k _ | .fetch k _ => match s.ctx? k with | some c => c.recKind * 2 ^ 14 + c.recCtx | none => 3 * 2 ^ 14
  | .record n => 2 * 2 ^ 14 + n
  | .chan c ch => node (((s.eng.chans.look (4 * c + ch)).bind (·.queue.head?)).map (·.node))
  | .gather c => node (((s.eng.gathers.look c).bind (·.head?)).map (·.node))
  | .matrix c => node (((s.eng.matrices.look c).bind (·.queue.head?)).map (·.node))
  | .coll h => node (((s.eng.colls.look h).bind (·.head?)).map (·.node))
  | .walker .. | .line .. => 3 * 2 ^ 14

/-- A message-signalled interrupt (R226). -/
def State.msi (s : State) (fn vec : Nat) : State := { s with out := { s.out with msix := s.out.msix ++ [(fn, vec)] } }

/-- Write a fault's record to the driver's queue; while the ring is full it stays parked. -/
def State.fqPost (s : State) (serial : Nat) : State :=
  match s.eng.faults.look serial with
  | none => s
  | some f =>
    let head := s.hub.fqHead.toNat
    let tail := s.hub.fqTail.toNat
    if f.queued.isSome ∨ s.fqSize ≤ tail - head then s
    else
      let a := s.hub.fqBase.toNat + 32 * (tail % s.fqSize)
      let record := [f.va.toNat, s.whoCtx f.who, f.code.toNat * 256 + f.access * 16 + f.tenant, 0]
      let s := s.deviceWrite a 32 (leNat (record.flatMap (bytesOf 8)))
      let fs := s.eng.faults.put serial { f with queued := some tail }
      let s := { s with hub := { s.hub with fqTail := dbl (tail + 1) }, eng := { s.eng with faults := fs } }
      if tail = head then s.msi 0 0 else s

/-- Who resolves a fault (Table 8.4, R156, R159). -/
inductive Resolver where
  | device | driver | software
  /-- no fault: the page is in transit, and the access is tried again (R136) -/
  | transit
  deriving DecidableEq, Repr

def State.resolver (s : State) (tenant : Nat) (f : AFault) : Resolver :=
  if f.code = 0 then .transit
  else if f.code = 0x19 ∨ f.code = 0x1A then .device
  else if f.code = 0x18 then
    match s.walk tenant f.page with
    | .absent _ _ true => .device
    | .absent _ _ false | .leaf .. | .bad | .disabled => if (nth s.hub.ptroot tenant 0#64).getLsbD 1 then .driver else .software
  else .software

def accessCode : Access → Nat
  | .read => 0 | .write => 1 | .atomic => 2 | .fetch => 3

/-- Park a fault that a fault unit or the driver is to resolve. -/
def State.parkFault (s : State) (who : Who) (tenant access : Nat) (f : AFault) (toDriver : Bool) : State :=
  let (n, s) := s.fresh
  let p : PFault :=
    { who := who, code := BitVec.ofNat 8 f.code, tenant := tenant, va := dbl f.page, addr := dbl f.addr, access := access, toDriver := toDriver,
      queued := none }
  let s := { s with eng := { s.eng with faults := s.eng.faults.put n p } }
  if toDriver then s.fqPost n else s

/-- Bytes to a locked code frame are dropped, with XDROP on H0 (R162). -/
def State.dropLocked {α : Type} (s : State) (bs : List (Nat × α)) : State × List (Nat × α) :=
  let bad := bs.filter fun b => s.locked b.1
  let s := (nubNat (bad.map fun b => b.1 / 32)).foldl (fun s q => s.galley (hubRecorder 0) 4 0x83#8 0 3 0 (dbl q)) s
  (s, bs.filter fun b => !(s.locked b.1))

/-- What mapping a drained view line again gives. -/
inductive Remapped where
  /-- a fault that a fault unit or the driver is to resolve -/
  | held (f : AFault) (r : Resolver)
  /-- bytes for memory, for other packages, leaf entries to be marked dirty, and the faults of the dropped elements -/
  | to (s : State) (phys peer : List (Nat × LineByte)) (leaves : List Nat) (dropped : List AFault)

/-- Who translates a drained line at the entry hub: the address space of the storing contexts, and their privilege (R255). -/
def MergeLine.requester (m : MergeLine) (priv : Bool) : Requester :=
  { tenant := m.tenant, priv := priv, cluster := some (m.core / 9), unit := some (.hub (hubOf (m.core / 9))), through := true }

/-- One element of `n` bytes of a drained view line is mapped again, with U for an element that an unprivileged context stored to: its
written bytes go to their locations, and whatever an element below it wrote there is not written (R112). -/
def State.remapElem (s : State) (m : MergeLine) (n e : Nat) (ph pe : List (Nat × LineByte)) (lv : List Nat) (bad : List AFault) : Remapped :=
  let mine := m.written.filter fun b => b.off / n == e
  let (s, r) := s.globalTarget (m.requester (mine.all (·.priv))) .write false ((m.line * 128 + e * n : Nat) : Int) n
  match r with
  | .error f =>
    match s.resolver m.tenant f with
    | .software => .to s ph pe lv (bad ++ [f])
    | .device => .held f .device
    | .driver => .held f .driver
    | .transit => .held f .transit
  | .ok t =>
    let here := mine.map fun b => (nth t.bytes (b.off % n) .zero, b)
    let mem := t.bytes.filterMap fun l => match l with | .phys pa => some pa | _ => none
    let far := t.bytes.flatMap fun l => match l with | .peer k => [k] | .replicas _ _ ks => ks | _ => []
    .to s ((ph.filter fun x => !mem.contains x.1) ++ here.filterMap fun (l, b) => match l with | .phys pa => some (pa, b) | _ => none)
      ((pe.filter fun x => !far.contains x.1) ++ here.flatMap fun (l, b) => match l with
        | .peer k => [(k, b)] | .replicas _ _ ks => (s.replicaTo ks).map (·, b) | _ => []) (lv ++ t.leaves) bad

/-- Bytes of an element of the view that a line belongs to; 1 where no view stands in its slot any more. -/
def State.lineElem (s : State) (m : MergeLine) : Nat :=
  match s.eng.views.look (m.line * 128 / 2 ^ 44 % 4096) with
  | some v => (viewOf v.words).esize
  | none => 1

/-- A drained view line is mapped and checked again at the entry hub, element by element (R112): a faulting element is dropped
whole. -/
def State.remapLine (s : State) (m : MergeLine) : Remapped :=
  let n := s.lineElem m
  let es := (List.range (128 / n)).filter fun e => m.stores.any fun b => b.off / n == e
  es.foldl (fun acc e => match acc with
    | .held f r => .held f r
    | .to s ph pe lv bad => s.remapElem m n e ph pe lv bad) (.to s [] [] [] [])

/-- The FLOG records of dropped elements: the fault code and the shadow address of each (R112, R396). -/
def State.dropRecords (s : State) (m : MergeLine) (bad : List AFault) : State :=
  bad.foldl (fun s f => s.galley (hubRecorder (hubOf (m.core / 9))) 1 0x01#8 m.tenant 3 0 (dbl (f.code * 2 ^ 56 + f.addr % 2 ^ 56))) s

/-- The fault that holds a view line is parked once, for its resolution. -/
def State.parkLine (s : State) (m : MergeLine) (f : AFault) (toDriver : Bool) : State :=
  let w := Who.line m.core m.tenant m.line
  if s.eng.faults.any fun (_, x) => x.who == w then s else s.parkFault w m.tenant 1 f toDriver

/-- Remove a line from its buffer. -/
def State.mergeRemove (s : State) (m : MergeLine) : State :=
  { s with mem := { s.mem with merge := s.mem.merge.filter fun x => !(x.core == m.core && x.space == m.space && x.line == m.line) } }

/-- Bytes of a line accepted at their home slices; the poisoned ones poison their sectors, which no cache keeps. -/
def State.acceptLine (s : State) (cluster : Nat) (bs : List (Nat × LineByte)) : State :=
  let bad := (bs.filter (·.2.bad)).map (·.1)
  let s := (s.acceptPhys (bs.map fun (a, b) => (a, b.byte)) (some cluster) (some cluster)).settlePoison (bad.map fun a => (.phys a, true))
  (nubNat (bad.map (· / 32))).foldl State.forgetSector s

/-- The writer's own copy of a drained view line: Table 6.3 lets it be updated first, and R115 lets an invalidation strike it; the model
always drops it (notes/assumptions/88.md). -/
def State.dropOwnView (s : State) (m : MergeLine) : State :=
  s.dropSectors fun l _ _ => l.cluster == m.core / 9 && l.view == some (m.line * 128 / 2 ^ 44 % 4096) && l.line == m.line

/-- Bytes of a line accepted at other packages: one request for each that can be reached. -/
def State.peerLineTo (s : State) (m : MergeLine) (bs : List (Nat × LineByte)) : State :=
  let pkgs := (nubNat (bs.map fun b => b.1 / 2 ^ 48)).filter fun p => !s.peerDown p
  let s := s.peerRequests (m.core / 9) m.tenant pkgs.length (if m.space = 1 then [m.line * 128 / 2 ^ 44 % 4096] else [])
  bs.foldl (fun s (k, b) => s.peerByteTo m.core m.tenant k b.byte b.bad (some b.owner)) s

/-- A store in flight to a replica that cannot be reached faults with REPLOST (R160). Its context has gone on: the record is the entry
hub's, at the descriptor's offset (notes/assumptions/116.md). -/
def State.lostInFlight (s : State) (m : MergeLine) (desc off : Nat) : State :=
  if (s.replicaList desc 0).any fun k => s.peerDown (k / 2 ^ 48) then s.dropRecords m [{ code := 0x21, addr := desc + off, bva := 0, page := 0 }]
  else s

/-- Write one line of a buffer to its home (R80, R112, R115, R134). A view line stays while a fault that holds it is being resolved. -/
def State.drainOne (s : State) (m : MergeLine) : State :=
  let cluster := m.core / 9
  match s.mergeFind m.core m.space m.line, m.space with
  | none, _ => s
  | some m, 0 =>
    let (s, bs) := s.dropLocked (m.written.map fun b => (m.line * 128 + b.off, b))
    (s.mergeRemove m).acceptLine cluster bs
  | some m, 1 =>
    match s.remapLine m with
    | .held f r => s.parkLine m f (r == .driver)
    | .to s ph pe lv bad =>
      let (s, ph) := (s.dropRecords m bad).dropLocked ph
      ((((s.mergeRemove m).markDirty lv).dropOwnView m).acceptLine cluster ph).peerLineTo m pe
  | some m, 2 => (s.mergeRemove m).peerLineTo m (m.written.map fun b => (m.line * 128 + b.off, b))
  | some m, _ =>
    let d := m.line / 2 ^ 45 * 2 ^ 16
    let off := m.line % 2 ^ 45 * 128
    let s := s.lostInFlight m d off
    let s := s.failDesc d
    (s.mergeRemove m).peerLineTo m (m.written.flatMap fun b => (s.replicaTo (s.replicaList d (off + b.off))).map (·, b))

/-- The line goes to another package: such lines of a core drain in the order of their stores (R230). -/
def State.farLine (s : State) (m : MergeLine) : Bool :=
  match m.space, m.stores with
  | 0, _ => false
  | 1, b :: _ =>
    match (s.globalTarget (m.requester b.priv).peek .write false ((m.line * 128 + b.off : Nat) : Int) 1).2 with
    | .ok t => t.isPeer
    | .error _ => false
  | 1, [] => false
  | _, _ => true

/-- Drain one line: of a line for another package the core's earlier ones first. -/
def State.drainLine (s : State) (m : MergeLine) : State :=
  if s.farLine m then
    let before := (s.mem.merge.takeWhile fun x => !(x.core == m.core && x.space == m.space && x.line == m.line)).filter fun x =>
      x.core == m.core && s.farLine x
    (before.foldl State.drainOne s).drainOne m
  else s.drainOne m

/-- Drain the lines of the buffers that satisfy a test, oldest first. -/
def State.drainWhere (s : State) (p : MergeLine → Bool) : State := (s.mem.merge.filter p).foldl State.drainLine s

/-- Drain a core's buffer (R125). -/
def State.drainCore (s : State) (core : Nat) : State := s.drainWhere (·.core == core)

/-- Lines of a core's buffer. -/
def State.coreLines (s : State) (core : Nat) : List MergeLine := s.mem.merge.filter (·.core == core)

/-- A full buffer drains its oldest line that no fault holds. -/
def State.makeRoom (s : State) (core : Nat) : State :=
  (s.coreLines core).foldl (fun s m => if (s.coreLines core).length < 32 then s else s.drainLine m) s

/-- A byte for another package enters a line that a later such line of its core follows: those drain first, in order (R230). -/
def State.keepOrder (s : State) (core space line : Nat) : State :=
  match s.mergeFind core space line with
  | none => s
  | some m =>
    if s.farLine m && ((s.coreLines core).reverse.takeWhile fun x => !(x.space == space && x.line == line)).any s.farLine then
      s.drainWhere fun x => x.core == core && s.farLine x
    else s

/-- A byte enters a core's merge buffer; a full buffer drains its oldest line first. -/
def State.mergeByte (s : State) (core tenant space line : Nat) (b : LineByte) : State :=
  let s := s.keepOrder core space line
  let s :=
    if (s.mergeFind core space line).isSome then s
    else
      let s := if (s.coreLines core).length < 32 then s else s.makeRoom core
      { s with mem := { s.mem with merge := s.mem.merge ++ [{ core := core, space := space, tenant := tenant, line := line, stores := [],
                                                              since := s.aCyc }] } }
  { s with mem := { s.mem with merge := s.mem.merge.map fun m =>
      if m.core == core && m.space == space && m.line == line then m.put b else m } }

/-- A buffer that could make no room holds more than 32 lines: the store that it was for has to wait (R80). -/
def State.overfull (s : State) (core : Nat) : Bool := decide (32 < (s.coreLines core).length)

/-! Loads and stores of cores -/

/-- A byte read at its home, with the sector of its poison: the sector number, 0 for store words and for packages that are down. -/
def State.homeByte (s : State) (l : Loc) : Byte × Option Nat :=
  let bad := match l.unit with | some u => s.unitPoisoned u | none => false
  match l with
  | .phys pa => (s.physByte pa, if bad then some (pa / 32) else none)
  | .store k => (s.mem.store.byte k, if bad then some 0 else none)
  | .peer k => (s.mem.peer.byte k, if s.peerDown (k / 2 ^ 48) then some 0 else if bad then some (k % 2 ^ 48 / 32) else none)
  | .replicas _ _ ks =>
    match ks.find? fun k => !(s.peerDown (k / 2 ^ 48)) with
    | some k => (s.mem.peer.byte k, if s.mem.poison.contains (2 ^ 60 + k / 32) then some (k % 2 ^ 48 / 32) else none)
    | none => (0#8, some 0)
  | .zero => (0#8, none)

/-- The bytes of a physical sector as the home slice gives them. -/
def State.homeSector (s : State) (q : Nat) : Memory :=
  (List.range 32).foldl (fun m i => m.poke i (s.physByte (q * 32 + i))) []

/-- A cluster cache may keep a sector: the cluster has a way, the sector is not poisoned, and it holds no page-table entries (R141). -/
def State.mayKeep (s : State) (cluster q : Nat) : Bool :=
  !(s.ways cluster).isEmpty && !s.mem.poison.contains q && !s.tables.contains (q / 512 * 16384)

/-- Fill the base sector of a PA into a cluster's cache. -/
def State.fillBase (s : State) (cluster pa cst : Nat) : State :=
  let q := pa / 32
  if !s.mayKeep cluster q then s
  else
    let s := s.fillSector cluster none (q / 4) (q % 4) { bytes := s.homeSector q, lo := q, hi := q, swc := cst == 1 }
    if cst = 0 then s.addSharer (q / 4) cluster else s

/-- Physical sectors of locations. -/
def sectorsOf (ls : List Loc) : List Nat := nubNat (ls.filterMap fun l => match l with | .phys pa => some (pa / 32) | _ => none)

/-- Keep one composed view sector with its span. Sectors with bytes of other packages, of mixed states or of poisoned sectors are not
kept. -/
def State.keepView (s : State) (cluster hub a : Nat) (ls : List Loc) (cs : List Nat) : State :=
  let qs := sectorsOf ls
  let foreign := ls.any fun l => match l with | .peer _ | .replicas .. | .store _ => true | .phys _ | .zero => false
  if foreign || mixedStates cs || !(qs.all (s.mayKeep cluster)) || (s.ways cluster).isEmpty
    || (s.cached cluster (some (a / 2 ^ 44 % 4096)) (a / 128) (a / 32 % 4)).isSome then s
  else
    let lo := qs.foldl min (2 ^ 64)
    let hi := qs.foldl max 0
    let s := if qs.isEmpty then s else s.enterSpan hub lo hi cluster
    let bytes := (List.range 32).foldl (fun (m : Memory) i => m.poke i (s.homeByte (nth ls i .zero)).1) ([] : Memory)
    s.fillSector cluster (some (a / 2 ^ 44 % 4096)) (a / 128) (a / 32 % 4)
      { bytes := bytes, lo := if qs.isEmpty then 1 else lo, hi := hi, swc := cs.contains 1 }

/-- The base sectors that a composed line needs come to their home slices, each once (R107, R108). -/
def State.touchLine (s : State) (bs : List (Option (Loc × Nat))) : State :=
  (sectorsOf (bs.filterMap fun b => b.map (·.1))).foldl State.touchHome s

/-- Compose the view line of shadow address `a` (R107, R108, R114, R116): the entry hub maps its bytes, every base sector that one of
them needs is read once at its home slice, spans enter the filter of the composing hub, which homes the lowest base sector of the line,
and the sectors are kept in the cluster's cache. A byte that the access does not cover may fault: R111 and R100 leave open what happens
then; the model raises nothing, composes the other bytes and does not keep the view sector of that byte (notes/assumptions/110.md). A
remote line is composed at its package and never kept (R104, R118). -/
def State.fillView (s : State) (q : Requester) (cluster a : Nat) : State :=
  if s.farView (a / 2 ^ 44 % 4096) then s
  else
    let line := a / 128
    let (s, bs) := s.composed q line
    let s := s.touchLine bs
    let hub := (s.homeHub ((sectorsOf (bs.filterMap fun b => b.map (·.1))).foldl min (2 ^ 64) * 32)).getD 0
    (List.range 4).foldl (fun s k =>
      let sec := (bs.drop (32 * k)).take 32
      if sec.all (·.isSome) then s.keepView cluster hub (line * 128 + 32 * k) (sec.filterMap fun b => b.map (·.1)) (lineStates sec) else s) s

/-- One byte of a load of a core: merged bytes of the core, then the cluster's cache, then home (R80, R135). A merged byte that is
poisoned reports the sector it is for. -/
def State.loadByte (s : State) (core : Nat) (t : Target) (i : Nat) : Byte × Option Nat :=
  let l := nth t.bytes i .zero
  let cluster := core / 9
  let merged := match lineOf t i l with
    | none => none
    | some (sp, line, off) => (s.mergeFind core sp line).bind (·.at_ off)
  let sector := match l with | .phys pa => pa / 32 | .peer k | .replicas _ _ (k :: _) => k % 2 ^ 48 / 32 | _ => 0
  match merged, l with
  | some b, .phys _ | some b, .peer _ | some b, .replicas .. => (b.byte, if b.bad then some sector else none)
  | _, _ =>
    match t.shadow with
    | some x =>
      let a := x + i
      match s.cached cluster (some (a / 2 ^ 44 % 4096)) (a / 128) (a / 32 % 4) with
      | some c => (c.bytes.byte (a % 32), none)
      | none => s.homeByte l
    | none =>
      match l with
      | .phys pa =>
        match s.cached cluster none (pa / 128) (pa / 32 % 4) with
        | some c => (c.bytes.byte (pa % 32), none)
        | none => s.homeByte l
      | _ => s.homeByte l

/-- The coherence state of the page of a physical sector that a target reaches. -/
def Target.stateOf (t : Target) (q : Nat) : Nat :=
  ((t.bytes.zip t.csts).findSome? fun (l, c) => match l with | .phys pa => if pa / 32 = q then some c else none | _ => none).getD 0

/-- Sectors that a load fills before it reads: base sectors of its PAs, or the view lines of its shadow bytes. -/
def State.fillFor (s : State) (q : Requester) (cluster : Nat) (t : Target) : State :=
  match t.shadow with
  | some x =>
    let ks := nubNat ((List.range t.bytes.length).map fun i => (x + i) / 32)
    ks.foldl (fun s k =>
      if (s.cached cluster (some (k * 32 / 2 ^ 44 % 4096)) (k / 4) (k % 4)).isSome then s else s.fillView q cluster (k * 32)) s
  | none =>
    (sectorsOf t.bytes).foldl (fun s k =>
      if (s.cached cluster none (k / 4) (k % 4)).isSome then s
      else (s.touchHome k).fillBase cluster (k * 32) (t.stateOf k)) s

/-- Replicas that cannot be reached get their failed bit (R160). -/
def State.failReplicas (s : State) (t : Target) : State :=
  t.bytes.foldl (fun s l => match l with | .replicas d _ _ => s.failDesc d | _ => s) s

/-- A load of a core: the bytes and the sector of poison they carry. -/
def State.loadTarget (s : State) (q : Requester) (core : Nat) (t : Target) : State × List Byte × Option Nat :=
  let s := (s.failReplicas t).fillFor q (core / 9) t
  let bs := (List.range t.bytes.length).map fun i => s.loadByte core t i
  (s, bs.map (·.1), bs.findSome? (·.2))

/-- Who stores: the core, and the context with its address space and privilege. -/
structure Storer where
  core : Nat
  tenant : Nat
  owner : Nat
  priv : Bool

def Ctx.storer (c : Ctx) : Storer := { core := c.core, tenant := c.tenant, owner := c.uid, priv := c.priv }

/-- A store of a core, in ascending bytes: global bytes enter the merge buffer, store bytes their bank. `bads` says which bytes are
poisoned. -/
def State.storeTarget (s : State) (o : Storer) (t : Target) (bs : List Byte) (bads : List Bool) : State :=
  let s := (s.failReplicas t).markDirty t.leaves
  let s := (List.range t.bytes.length).foldl (fun s i =>
    match nth t.bytes i .zero with
    | .store k => { s with mem := { s.mem with store := s.mem.store.poke k (nth bs i 0#8) } }
    | l => match lineOf t i l with
      | some (sp, line, off) =>
        s.mergeByte o.core o.tenant sp line { off := off, byte := nth bs i 0#8, owner := o.owner, priv := o.priv, bad := nth bads i false }
      | none => s) s
  s.settlePoison (t.bytes.zipIdx.filterMap fun (l, i) => match l with | .store k => some (.store k, nth bads i false) | _ => none)

/-- Bytes written at their homes by an agent that has no merge buffer: an atomic, an engine. `bads` says which are poisoned; `owner` is
the context on whose behalf an atomic writes. -/
def State.writeHome (s : State) (t : Target) (bs : List Byte) (bads : List Bool) (own : Option Nat) (owner : Option Storer) : State :=
  let s := (s.failReplicas t).markDirty t.leaves
  let each := (t.bytes.zip bs).zipIdx.map fun ((l, b), i) => (l, b, nth bads i false)
  let ph := each.filterMap fun (l, b, _) => match l with | .phys pa => some (pa, b) | _ => none
  let pe := each.flatMap fun (l, b, p) => match l with | .peer k => [(k, b, p)] | .replicas _ _ ks => (s.replicaTo ks).map (·, b, p) | _ => []
  let s := each.foldl (fun s (l, b, _) => match l with
    | .store k => { s with mem := { s.mem with store := s.mem.store.poke k b } }
    | _ => s) s
  let s := if ph.isEmpty then s else s.acceptPhys ph none own
  let s := s.settlePoison (each.filterMap fun (l, _, p) => match l with
    | .store _ => some (l, p) | .phys _ => if p then some (l, true) else none | .peer _ | .replicas .. | .zero => none)
  if pe.isEmpty then s
  else s.peerWrite pe (match owner with | some o => o.core | none => 0) (match owner with | some o => o.tenant | none => 0) (owner.map (·.owner))

/-- Bytes read at their homes, each with the sector of its poison. -/
def State.readUnits (s : State) (t : Target) : State × List (Byte × Option Nat) :=
  let s := s.failReplicas t
  let s := (sectorsOf t.bytes).foldl State.touchHome s
  (s, t.bytes.map s.homeByte)
def State.readHome (s : State) (t : Target) : State × List Byte × Option Nat :=
  let (s, bs) := s.readUnits t
  (s, bs.map (·.1), bs.findSome? (·.2))

/-- Lines of a core's buffer that drain before an atomic: those that hold bytes of its target (R124, R273), and of an atomic at another
package every line for one (R230). -/
def State.linesFor (s : State) (core : Nat) (t : Target) (m : MergeLine) : Bool :=
  let keys := (List.range t.bytes.length).filterMap fun i => (lineOf t i (nth t.bytes i .zero)).map fun (a, b, _) => (a, b)
  m.core == core && (keys.contains (m.space, m.line) || (t.isPeer && s.farLine m))
def State.drainFor (s : State) (core : Nat) (t : Target) : State := s.drainWhere (s.linesFor core t)
/-- One of them is held by a fault that is being resolved: the atomic waits (R121). -/
def State.heldFor (s : State) (core : Nat) (t : Target) : Bool := s.mem.merge.any (s.linesFor core t)

/-! Fences (R125, R300) -/

/-- Codes of Table 7.3. -/
def isRelease (order : Nat) : Bool := order == 1 || order == 2 || order == 3
def isAcquire (order : Nat) : Bool := order == 0 || order == 2 || order == 3

/-- A release at scope 3 or wider ends relaunchability of the gang (R209); a trunk or limb belongs to every gang that its box meets,
those still to be placed included. -/
def State.endRelaunch (s : State) (c : Ctx) : State :=
  let s := if c.symbolic then s.changeNode c.node fun n => { n with released := n.released ++ [c.box] } else s
  (s.groupsOf c).foldl (fun s g =>
    match s.work.groups.look g with
    | some x => match x.gang with | some y => s.changeGang y fun z => { z with relaunchable := false } | none => s
    | none => s) s

/-- A release by a core: its merge buffer drains, invalidations applied (R115, R125). -/
def State.releaseCore (s : State) (c : Ctx) (scope : Nat) : State :=
  let s := s.drainCore c.core
  if 3 ≤ scope then s.endRelaunch c else s

/-- An acquire: at gang scope and at scopes 4-7 every SWC sector of the cluster's cache goes (Table 7.6). -/
def State.acquireCluster (s : State) (cluster scope : Nat) : State :=
  if scope = 2 ∨ 4 ≤ scope then s.dropSectors fun l _ x => l.cluster == cluster && x.swc else s

/-- An operand-log entry that a release must wait for: one not held for a handler (R150 item 6). -/
def Ctx.logPending (c : Ctx) : Bool := c.log.any fun (_, e) => match e.state with | .held | .toDeliver => false | .parked | .resolved => true

/-- A release by a context has to wait: for its operand log (R150 item 6), or for a view line of its core that a fault holds (R112). -/
def State.releaseWaits (s : State) (c : Ctx) : Bool :=
  c.logPending || s.mem.merge.any fun m => m.core == c.core && m.space == 1 &&
    match s.remapLine m with | .held .. => true | .to .. => false

/-- A fence of an order and scope by a context. -/
def State.fenceBy (s : State) (c : Ctx) (order scope : Nat) : State :=
  let s := if isRelease order then s.releaseCore c scope else s
  if isAcquire order then s.acquireCluster c.cluster scope else s

end Sys2Proof.Machine
end

