-- ==== Sys2Proof/Machine/Operands.lean ====
section
/-! DEFINITION. Operand forms: the context, clause and path that issue a word, guards and Active(w), reading and writing operands
of every kind, the register-number check, last-use and reuse bits, and how a word leaves its clause (R36-R38, R72-R74, R239-R245). -/

namespace Sys2Proof

/-- Guard fields of a word: GP and GN (R244). -/
def Instr.guard (i : Instr) : BitVec 3 × BitVec 1 :=
  match i.layout with
  | .reg w => (w.gp, w.gn)
  | .imm w => (w.gp, w.gn)
  | .mem w => (w.gp, w.gn)
  | .pair _ _ | .event => (7#3, 0#1)

/-- SB (R240). -/
def Instr.sbField (i : Instr) : Nat :=
  match i.layout with
  | .reg w => w.sb.toNat
  | .imm w => w.sb.toNat
  | .mem w => w.sb.toNat
  | .pair _ _ | .event => 7

/-- The codes of D, A, B and C. -/
def Instr.codes (i : Instr) : BitVec 8 × BitVec 8 × BitVec 8 × BitVec 8 :=
  match i.layout with
  | .reg w => (w.d, w.a, w.b, w.c)
  | .imm w => (w.d, w.a, 0#8, 0#8)
  | .mem w => (w.d, w.a, 0#8, 0#8)
  | .pair _ _ | .event => (0#8, 0#8, 0#8, 0#8)

/-- The rules of a word; those of an unused word for paired words and events. -/
def Instr.rules (i : Instr) : Spec := i.spec.getD { op := 0#8, c0 := true, c1 := false, guard := false }

/-- The operand is a pair. -/
def Opd.wide (o : Opd) : Bool :=
  match o with
  | .src n | .dst n | .dstAny n | .dstV n => n == 2
  | .none | .srcV | .srcS | .pred | .slot | .predDst | .slotDst | .raw => false

/-- v registers that an operand names. -/
def Opd.vregs (o : Opd) (x : BitVec 8) : List Nat :=
  let n := match o with
    | .src n | .dst n | .dstAny n | .dstV n => n
    | .srcV => 1
    | .none | .srcS | .pred | .slot | .predDst | .slotDst | .raw => 0
  if x.toNat < 0xC0 then (List.range n).map (x.toNat + ·) else []

/-- v registers that a word of a CLASS 0 clause names, encoded (R72). -/
def Instr.vregs (i : Instr) : List Nat :=
  match i with
  | .pairedWord l r => [l.d.toNat, l.a.toNat, l.b.toNat, r.d.toNat, r.a.toNat, r.b.toNat]
  | _ =>
    let (d, a, b, c) := i.codes
    let sp := i.rules
    sp.d.vregs d ++ sp.a.vregs a ++ sp.b.vregs b ++ sp.c.vregs c

/-- v registers that a word reads; `k` is the index that a source-indexed `mov` adds to its code A (R249). -/
def Instr.sources (i : Instr) (k : Nat) : List Nat :=
  match i with
  | .pairedWord l r => [l.d.toNat, l.a.toNat, l.b.toNat, r.d.toNat, r.a.toNat, r.b.toNat]
  | _ =>
    let (d, a, b, c) := i.codes
    let sp := i.rules
    (match sp.d with | .src _ => sp.d.vregs d | _ => []) ++ (sp.a.vregs a).map (· + k) ++ sp.b.vregs b ++ sp.c.vregs c

/-- v registers whose last-use bit is set (R73). -/
def Instr.lastUses (i : Instr) (k : Nat) : List Nat :=
  let sp := i.rules
  match i.layout with
  | .reg w =>
    (if w.lu.getLsbD 2 then (sp.a.vregs w.a).map (· + k) else []) ++ (if w.lu.getLsbD 1 then sp.b.vregs w.b else [])
      ++ (if w.lu.getLsbD 0 then sp.c.vregs w.c else [])
  | .imm w => if w.lua == 1#1 then sp.a.vregs w.a else []
  | .mem w => (if w.lua == 1#1 then sp.a.vregs w.a else []) ++ (if w.lud == 1#1 then sp.d.vregs w.d else [])
  | .pair l r =>
    let half (h : HalfOp) : List Nat := (if h.lu.getLsbD 1 then [h.a.toNat] else []) ++ (if h.lu.getLsbD 0 then [h.b.toNat] else [])
    half l ++ half r
  | .event => []

/-- v registers whose reuse bit is set (R74). -/
def Instr.reuses (i : Instr) (k : Nat) : List Nat :=
  let sp := i.rules
  match i.layout with
  | .reg w =>
    (if w.ru.getLsbD 2 then (sp.a.vregs w.a).map (· + k) else []) ++ (if w.ru.getLsbD 1 then sp.b.vregs w.b else [])
      ++ (if w.ru.getLsbD 0 then sp.c.vregs w.c else [])
  | .imm _ | .mem _ | .pair _ _ | .event => []

/-- The word stands in clauses of a CLASS (R254). -/
def Instr.inClass (i : Instr) (k : Cls) : Bool :=
  match i.layout with
  | .event => false
  | .pair _ _ => k == .vector
  | .reg _ | .imm _ | .mem _ => match k with | .vector => i.rules.c0 | .compositor => i.rules.c1

end Sys2Proof

namespace Sys2Proof.Machine

/-- What issues: the context, its clause in progress, the path and the header. -/
structure Issuer where
  key : Nat
  ctx : Ctx
  clause : Clause
  path : Path
  hdr : Header
  deriving DecidableEq, Repr

def Issuer.cls (u : Issuer) : Cls := u.ctx.cls
def Issuer.symbolic (u : Issuer) : Bool := u.ctx.symbolic

/-- The parts of an issuer belong together: the context is the one on the clause's binding, a clause stages for trunks and limbs alone
(R29), there are six scoreboards (R240), and a compositor has one slot. -/
def Issuer.fits (u : Issuer) : Bool :=
  decide (u.clause.bind < 8) && u.ctx.key == u.key && u.clause.stage.isSome == u.symbolic && u.ctx.sb.length == 6
    && (!u.ctx.isComp || u.path.mask == 1#32)

/-- The issuer of a word: the agent named in State, its clause in progress, where the word stands in clauses of its CLASS. -/
def State.issuing (s : State) (i : Instr) : Option Issuer :=
  match s.issuer with
  | none => none
  | some (c, l) =>
    match (s.lane (laneKey c l)).clause with
    | none => none
    | some cl =>
      match s.ctx? (ctxKey c l cl.bind), parseHeader cl.header with
      | some x, some h =>
        match x.path? cl.path with
        | some p =>
          let u : Issuer := { key := ctxKey c l cl.bind, ctx := x, clause := cl, path := p, hdr := h }
          if i.inClass x.cls && u.fits then some u else none
        | none => none
      | _, _ => none

/-! Rows of trunks and limbs -/

/-- Rows, predicates and s registers as the words of a clause see them: staged over committed (R239). -/
def Ctx.rows (c : Ctx) (st : Option Stage) : Table FormCell :=
  match st with
  | some g => g.forms.foldl (fun t e => t.put e.1 e.2) c.forms
  | none => c.forms
def Ctx.spreds (c : Ctx) (st : Option Stage) : Table SPred :=
  match st with
  | some g => g.sp.foldl (fun t e => t.put e.1 e.2) c.sp
  | none => c.sp
def Ctx.sregs (c : Ctx) (st : Option Stage) : Table Word :=
  match st with
  | some g => g.s.foldl (fun t e => t.put e.1 e.2) c.s
  | none => c.s

/-- A number read as signed. -/
def sInt (x : Dbl) : Int := x.toInt
/-- A component of a form at width W: modulo 2^W, sign-extended (R25). -/
def sxAt (n : Nat) (x : Int) : Dbl := BitVec.ofInt 64 (sextNat (wrapNat x n) n)
/-- Apply a function to b and each coefficient. -/
def Form.mapAt (n : Nat) (f : Int → Int) (x : Form) : Form :=
  { b := sxAt n (f (sInt x.b)), c0 := sxAt n (f (sInt x.c0)), c1 := sxAt n (f (sInt x.c1)), c2 := sxAt n (f (sInt x.c2)),
    c3 := sxAt n (f (sInt x.c3)) }
def Form.zipAt (n : Nat) (f : Int → Int → Int) (x y : Form) : Form :=
  { b := sxAt n (f (sInt x.b) (sInt y.b)), c0 := sxAt n (f (sInt x.c0) (sInt y.c0)), c1 := sxAt n (f (sInt x.c1) (sInt y.c1)),
    c2 := sxAt n (f (sInt x.c2) (sInt y.c2)), c3 := sxAt n (f (sInt x.c3) (sInt y.c3)) }

/-- Coefficients, and the bounds of a box. -/
def Form.coefs (x : Form) : List Int := [sInt x.c0, sInt x.c1, sInt x.c2, sInt x.c3]
def Box.los (b : Box) : List Nat := [b.lo.d0, b.lo.d1, b.lo.d2, b.lo.d3]
def Box.his (b : Box) : List Nat := [b.hi.d0, b.hi.d1, b.hi.d2, b.hi.d3]
def Quad.list (q : Quad) : List Nat := [q.d0, q.d1, q.d2, q.d3]

/-- b read in a type of width W (R26). -/
def Form.baseIn (signed : Bool) (n : Nat) (x : Form) : Int :=
  if signed then sInt x.b else ((x.b.toNat % 2 ^ n : Nat) : Int)

/-- NoWrap (R26). -/
def noWrap (x : Form) (box : Box) (signed : Bool) (n : Nat) : Bool :=
  let ends := (x.coefs.zip (box.los.zip box.his)).map fun (c, l, h) => (c * (l : Int), c * (h : Int))
  let lo := x.baseIn signed n + (ends.map fun (p, q) => min p q).foldl (· + ·) 0
  let hi := x.baseIn signed n + (ends.map fun (p, q) => max p q).foldl (· + ·) 0
  if signed then decide (-(2 ^ (n - 1) : Nat) ≤ lo) && decide (hi < (2 ^ (n - 1) : Nat))
  else decide (0 ≤ lo) && decide (hi < (2 ^ n : Nat))

/-- A form at one item, modulo 2^64 (R25). -/
def Form.eval (x : Form) (item : Quad) : Dbl :=
  x.b + x.c0 * dbl item.d0 + x.c1 * dbl item.d1 + x.c2 * dbl item.d2 + x.c3 * dbl item.d3

/-- A 32-bit or 64-bit read of a row. For a word that widens (`widen`), a pair whose low row is a 32-bit form and whose high row is
zero widens it under NoWrap as an unsigned value (Table 2.6); other mixed rows keep no form. -/
def rowRead (t : Table FormCell) (box : Box) (n : Nat) (wide widen : Bool) : Option Form :=
  match t.formAt n with
  | .high _ => none
  | .form f =>
    if wide then
      match t.formAt (n + 1) with
      | .high g => if g = f then some f else none
      | .form g =>
        if f.isUni && g.isUni then some (Form.uni (((g.b.setWidth 32 : Word) ++ (f.b.setWidth 32 : Word) : BitVec 64)))
        else if widen && g == Form.zero && noWrap f box false 32 then some { f with b := dbl (f.b.toNat % 2 ^ 32) }
        else none
    else some (f.mapAt 32 id)

/-- The rows that a context reads during a clause. -/
structure Sym where
  rows : Table FormCell
  sp : Table SPred
  s : Table Word
  box : Box
  deriving DecidableEq, Repr

def Ctx.sym (c : Ctx) (st : Option Stage) : Sym := { rows := c.rows st, sp := c.spreds st, s := c.sregs st, box := c.box }

/-- The predicate of a bit as a form. -/
def Form.ofBool (b : Bool) : Form := Form.uni (if b then 1#64 else 0#64)

/-- An operand of a trunk or limb as a form, a 32-bit one sign-extended from bit 31 (R25); none where it has none that is a value. -/
def Sym.read (v : Sym) (o : Opd) (x : BitVec 8) (widen : Bool := false) : Option Form :=
  match o with
  | .none | .raw | .predDst | .slot | .slotDst => some Form.zero
  | .pred => match v.sp.spredAt x.toNat with | .uni b => some (Form.ofBool b) | .range .. => none
  | .src n | .dst n | .dstAny n | .dstV n =>
    if x.toNat < 0xC0 then rowRead v.rows v.box x.toNat (n == 2) widen
    else
      let k := x.toNat - 0xC0
      let lo := (v.s.look k).getD 0#32
      some (Form.uni (if n = 2 then (((v.s.look (k + 1)).getD 0#32 ++ lo : BitVec 64)) else lo.signExtend 64))
  | .srcV => if x.toNat < 0xC0 then rowRead v.rows v.box x.toNat false false else none
  | .srcS => some (Form.uni (((v.s.look (x.toNat - 0xC0)).getD 0#32).signExtend 64))

/-- The U value of an operand, as the low n registers' bits. -/
def Sym.value (v : Sym) (o : Opd) (x : BitVec 8) : Option Dbl :=
  match v.read o x with
  | none => none
  | some f =>
    if !f.isUni then none
    else
      some (if o.wide then f.b else dbl (f.b.toNat % 2 ^ 32))

/-! Concrete operands -/

/-- A v or s operand of `n` registers at a slot, lowest register first (at most two). -/
def State.readReg (s : State) (c : Ctx) (t n : Nat) (x : BitVec 8) : Dbl :=
  let one (k : Nat) : Word := if k < 0xC0 then s.readV c t k else c.readS (k - 0xC0)
  if n = 2 then one (x.toNat + 1) ++ one x.toNat else (one x.toNat).setWidth 64

/-- ReadOperand and ReadPair of a warp or compositor at a slot. -/
def State.readOpd (s : State) (c : Ctx) (t : Nat) (o : Opd) (x : BitVec 8) : Dbl :=
  match o with
  | .none | .raw | .predDst | .slot | .slotDst => 0#64
  | .pred => if c.readP t x.toNat then 1#64 else 0#64
  | .src n | .dst n | .dstAny n | .dstV n => if c.isComp then c.readX x.toNat else s.readReg c t n x
  | .srcV | .srcS => s.readReg c t 1 x

/-- Four registers at a slot as 128 bits, ascending (R248, R364). -/
def State.readQuad (s : State) (c : Ctx) (t : Nat) (x : BitVec 8) : BitVec 128 :=
  s.readReg c t 2 (x + 2#8) ++ s.readReg c t 2 x

/-- ReadSlot (Table 2.7): a v or s code of another slot; zero for a slot that has exited or was never launched. -/
def State.readSlot (s : State) (c : Ctx) (t n : Nat) (x : BitVec 8) : Dbl :=
  if 0xC0 ≤ x.toNat || c.live.getLsbD t then s.readReg c t n x else 0#64

/-- An operand of the issuing word: its U value in a trunk or limb. -/
def State.operand (s : State) (u : Issuer) (t : Nat) (o : Opd) (x : BitVec 8) : Dbl :=
  if u.symbolic then ((u.ctx.sym u.clause.stage).value o x).getD 0#64 else s.readOpd u.ctx t o x

/-- The writes of a result to destination code `x` of `n` registers at a slot. -/
def regWrites (t n : Nat) (x : BitVec 8) (r : BitVec 128) : List RegWrite :=
  (List.range n).map fun i =>
    let y : Word := r.extractLsb' (32 * i) 32
    if x.toNat < 0xC0 then RegWrite.v t (x.toNat + i) y else RegWrite.s (x.toNat - 0xC0 + i) y

/-- A U result of a trunk or limb: one register, a pair, or four 32-bit registers each with a form of its own (R25). -/
def uniWrites (n : Nat) (x : BitVec 8) (r : BitVec 128) : List RegWrite :=
  if 0xC0 ≤ x.toNat then regWrites 0 n x r
  else if n = 1 then [.form x.toNat false (Form.uni (sx32 (r.setWidth 64)))]
  else if n = 2 then [.form x.toNat true (Form.uni (r.setWidth 64))]
  else (List.range n).map fun i => .form (x.toNat + i) false (Form.uni (sx32 ((r.extractLsb' (32 * i) 32).setWidth 64)))

/-- Writes of one result to the destination of a word at the slots of a mask: once for s, x, predicates of trunks and limbs. -/
def Issuer.writes (u : Issuer) (slots : List Nat) (o : Opd) (x : BitVec 8) (r : BitVec 128) : List RegWrite :=
  match o with
  | .none | .src _ | .srcV | .srcS | .pred | .slot | .raw => []
  | .predDst =>
    if u.symbolic then [.spred x.toNat (.uni (r.getLsbD 0))] else slots.map fun t => .p t x.toNat (r.getLsbD 0)
  | .slotDst => []
  | .dst n | .dstAny n | .dstV n =>
    if u.ctx.isComp then [.x x.toNat (r.setWidth 64)]
    else if u.symbolic then uniWrites n x r
    else if 0xC0 ≤ x.toNat then regWrites 0 n x r
    else slots.flatMap fun t => regWrites t n x r

/-! Guards and Active(w) -/

/-- The guard predicate of a trunk or limb, negated as the word says. -/
def SPred.flip (neg : Bool) : SPred → SPred
  | .uni b => .uni (b != neg)
  | .range k l h o => .range k l h (o != neg)

def Issuer.sguard (u : Issuer) (i : Instr) : SPred :=
  ((u.ctx.spreds u.clause.stage).spredAt i.guard.1.toNat).flip (i.guard.2 == 1#1)

/-- Active(w) (R38, R244); none for a guard of a trunk or limb that is a range predicate. -/
def Issuer.active (u : Issuer) (i : Instr) : Option Word :=
  if u.symbolic then
    match u.sguard i with
    | .uni b => some (if b then u.path.mask else 0#32)
    | .range .. => none
  else
    let (gp, gn) := i.guard
    some (maskOf ((slotsOf u.path.mask).filter fun t => u.ctx.readP t gp.toNat != (gn == 1#1)))

/-- The guard mask of a word: the slots at which its guard holds (R244). -/
def Issuer.guardMask (u : Issuer) (i : Instr) : Word :=
  if u.symbolic then (match u.sguard i with | .uni b => if b then 0xFFFFFFFF#32 else 0#32 | .range .. => 0#32)
  else maskOf ((List.range 32).filter fun t => u.ctx.readP t i.guard.1.toNat != (i.guard.2 == 1#1))

/-- A register number beyond the allocation (R72); the compositor has none. -/
def Issuer.ridx (u : Issuer) (i : Instr) : Bool :=
  !u.ctx.isComp && i.vregs.any fun n => decide (8 * u.ctx.map.length ≤ n)

/-! Leaving the word -/

/-- How a word ends. -/
inductive Ending where
  /-- it is done: its register writes, flags, and the sector of poisoned data they carry -/
  | on (ws : List RegWrite) (flags : Word) (poison : Option Nat)
  /-- it stands in the operand log (R150); a word with field 7 whose fault has reached software counts no more -/
  | logged (counts : Bool)
  /-- it holds the path and issues again -/
  | hold
  /-- a precise trap: code, TRADDR and TRMASK (R257) -/
  | trap (code : BitVec 8) (addr : Dbl) (mask : Word)
  /-- the clause ends and the path goes on at `pc`, once what it waits for is there -/
  | goto (pc : Dbl) (wait : Wait) (ws : List RegWrite)
  /-- the body has said everything -/
  | left
  deriving DecidableEq, Repr

/-- A word done without a result. -/
def Ending.done : Ending := .on [] 0#32 none

/-- Stage writes of a clause of a trunk or limb (R29). -/
def Stage.add (c : Ctx) (g : Stage) (ws : List RegWrite) (f : Word) : Stage :=
  ws.foldl (fun g w =>
    match w with
    | .form n pair f =>
      let rows := c.rows (some g)
      let rows' := formPut rows n pair f
      { g with forms := ([n - 1, n, n + 1].filter fun k => rows.formAt k != rows'.formAt k || k == n).foldl
                 (fun t k => t.put k (rows'.formAt k)) g.forms,
               dead := g.dead.filter fun k => k != n && !(pair && k == n + 1) }
    | .spred n p => if n = 7 then g else { g with sp := g.sp.put n p }
    | .s n x => { g with s := g.s.put n x }
    | .v .. | .p .. | .x .. | .d .. | .mprog .. => g) { g with flags := raiseFlags g.flags f }

/-- Commit a stage at the end of its clause. -/
def Ctx.commitStage (c : Ctx) (st : Option Stage) : Ctx :=
  match st with
  | none => c
  | some g =>
    { c with forms := c.rows st, sp := c.spreds st, s := c.sregs st, astat := raiseFlags c.astat g.flags,
             dead := g.dead.foldl (fun t n => t.put n 0xFFFFFFFF#32) (g.forms.foldl (fun t e => t.del e.1) c.dead) }

/-- Scoreboard k, or the path's clause counter for 7, changes by one (R240). -/
def State.count (s : State) (k path sb : Nat) (up : Bool) : State :=
  s.changeCtx k fun c =>
    if sb = 7 then c.changePath path fun p => { p with ctr := if up then p.ctr + 1 else p.ctr - 1 }
    else { c with sb := c.sb.set sb (if up then nth c.sb sb 0 + 1 else nth c.sb sb 0 - 1) }

/-- The next word of the clause, or its end. -/
def State.endClause (s : State) (u : Issuer) (pc : Dbl) (w : Wait) : State :=
  let st := (s.lane (u.key / 8)).clause.bind (·.stage)
  let s := s.changeCtx u.key fun c =>
    { ((c.commitStage st).changePath u.path.id fun p => { p with pc := pc, came := u.clause.pc, start := 0, skip := 0, wait := w, entry := false }) with
      joined := none }
  s.changeLane (u.key / 8) fun l => { l with clause := none, yielded := l.yielded || u.hdr.yield }

def State.advance (s : State) (u : Issuer) : State :=
  if u.clause.pos < u.clause.words.length then
    s.changeLane (u.key / 8) fun l => { l with clause := l.clause.map fun c => { c with pos := c.pos + 1, await := false } }
  else s.endClause u u.clause.after .none

/-- Place a register in the latch (R74): over its own entry, else over the one filled longer ago. An entry that already holds the
register keeps its place in that order: the model's choice (notes/assumptions/106.md). -/
def latchPut (l : List Latch) (e : Latch) : List Latch :=
  if l.contains e then l else (if l.length < 2 then l else l.drop 1) ++ [e]

/-- The index that a word adds to its operand code A: `s(C)` of a source-indexed `mov` (R249). -/
def Issuer.index (u : Issuer) (i : Instr) : Nat :=
  match i with
  | .mov w =>
    if w.modAt 22 2 = 1 then (((u.ctx.sregs u.clause.stage).look (w.c.toNat - 0xC0)).getD 0#32).toNat else 0
  | _ => 0
/-- The v registers that the bits of a word name, as it reads them. -/
def Issuer.lastUses (u : Issuer) (i : Instr) : List Nat := i.lastUses (u.index i)
def Issuer.reuses (u : Issuer) (i : Instr) : List Nat := i.reuses (u.index i)

/-- Last-use and reuse bits take effect at the end of a word (R73, R74). -/
def State.useBits (s : State) (u : Issuer) (i : Instr) : State :=
  let regs := u.lastUses i
  let s :=
    if regs.isEmpty then s
    else if u.symbolic then
      s.changeLane (u.key / 8) fun l =>
        { l with clause := l.clause.map fun c => { c with stage := c.stage.map fun g => { g with dead := nubNat (g.dead ++ regs) } } }
    else s.changeCtx u.key fun c =>
      { c with dead := regs.foldl (fun t n => t.put n (((t.look n).getD 0#32) ||| u.path.mask)) c.dead }
  if (u.reuses i).isEmpty then s
  else s.changeLane (u.key / 8) fun l =>
    { l with latch := (u.reuses i).foldl (fun t n => latchPut t { bind := u.key % 8, path := u.path.id, reg := n }) l.latch }

/-- Commit the results of a word now: staged in a trunk or limb. -/
def State.commitWord (s : State) (u : Issuer) (ws : List RegWrite) (f : Word) : State :=
  if u.symbolic then
    s.changeLane (u.key / 8) fun l =>
      { l with clause := l.clause.map fun c => { c with stage := c.stage.map fun g => g.add u.ctx ws f },
               latch := latchAfter (u.key % 8) ws l.latch }
  else (s.commitWrites u.key ws).raise u.key f

/-- A word of variable latency is in flight until its commit (R240). -/
def State.launch (s : State) (u : Issuer) (sb : Nat) (ws : List RegWrite) (f : Word) (poison : Option Nat) : State :=
  let (n, s) := s.fresh
  let s := s.changeCtx u.key fun c =>
    { c with inflight := c.inflight ++ [{ serial := n, sb := sb, path := u.path.id, writes := ws, flags := f, poison := poison }] }
  s.count u.key u.path.id sb true

/-- How the word ends takes effect. -/
def State.settle (s : State) (u : Issuer) (i : Instr) (e : Ending) : State :=
  match e with
  | .hold | .left => s
  | .trap code addr mask => s.trapAt u.key u.clause code addr (if u.ctx.isComp then 0#32 else mask)
  | .logged counts =>
    let s := s.useBits u i
    (if counts then s.count u.key u.path.id i.sbField true else s).advance u
  | .on ws f poison =>
    let s := s.useBits u i
    if i.rules.var && !(ws.isEmpty && poison.isNone) then (s.launch u i.sbField ws f poison).advance u
    else match poison with
      | none => (s.commitWord u ws f).advance u
      | some q => (s.changeLane (u.key / 8) fun l => { l with clause := none }).consume u.key q
  | .goto pc w ws => ((s.useBits u i).commitWord u ws 0#32).endClause u pc w

/-- The slot that `shfl` reads (R365). -/
def shflSource (mode t b : Nat) : Nat :=
  match mode with
  | 0 => b % 32
  | 1 => if b ≤ t then t - b else t
  | 2 => if t + b ≤ 31 then t + b else t
  | _ => t ^^^ (b % 32)

/-- Slots and v registers that a word reads for slot `t`: `shfl` reads A at another slot, a scaled dot product its scales at two slots of
its block and its addend in D (R176, R365). -/
def State.readsAt (s : State) (u : Issuer) (i : Instr) (t : Nat) : List (Nat × Nat) :=
  let own := (i.sources (u.index i)).map (t, ·)
  let scaled (w : RegWord) : List (Nat × Nat) :=
    let at_ (x : BitVec 8) : List Nat := Opd.vregs (.src 1) x
    ((at_ w.d ++ at_ w.a ++ at_ w.b).map (t, ·)) ++ (at_ w.c).flatMap fun n => [(t / 8 * 8, n), (t / 8 * 8 + 4, n)]
  match i with
  | .shfl w =>
    let from_ := shflSource (w.modAt 17 2) t ((s.operand u t i.rules.b w.b).toNat % 2 ^ 32)
    (i.rules.a.vregs w.a).map (from_, ·) ++ (i.rules.b.vregs w.b).map (t, ·)
  | .fdot4 w | .lgdot4 w => if w.modAt 21 1 = 0 then own else scaled w
  | _ => own

/-- A word that would commit a value computed from a poisoned register row word consumes it (R207). -/
def State.poisonRead (s : State) (u : Issuer) (i : Instr) (m : Word) (e : Ending) : Ending :=
  match e with
  | .on ws f none =>
    let bad := (slotsOf m).any fun t => (s.readsAt u i t).any fun (t, n) =>
      match u.ctx.vPlace t n with | some a => u.ctx.live.getLsbD t && s.mem.storePoison.contains a | none => false
    if !s.mem.storePoison.isEmpty && !ws.isEmpty && !u.ctx.isComp && !u.symbolic && bad then .on ws f (some 0) else e
  | .on _ _ (some _) | .logged _ | .hold | .trap .. | .goto .. | .left => e

/-- Issue a word (R239, R240, R244, R255, R257): the checks that every word passes, then its own body on Active(w). -/
def State.issueWord (s : State) (i : Instr) (body : State → Issuer → Word → State × Ending) : Host.Outcome State Fault Refusal :=
  match s.issuing i with
  | none => .fault .noIssuer
  | some u =>
    if u.ctx.stopped then .next (s.changeLane (u.key / 8) fun l => { l with clause := none })
    else
      let m := (u.active i).getD 0#32
      let sb := i.sbField
      if i.rules.priv && !u.ctx.priv && u.cls == .vector then .next (s.settle u i (.trap 0x04#8 0#64 m))
      else if m != 0#32 && u.ridx i then .next (s.settle u i (.trap 0x02#8 0#64 m))
      else if i.rules.var && decide (sb < 6) && decide (15 ≤ nth u.ctx.sb sb 0) then .next s
      else if i.rules.ends && u.path.ctr != 0 then .next s
      else
        let e := body s u m
        .next (e.1.settle u i (s.poisonRead u i m e.2))

/-- A warp operation (R268): its body runs at the lead slot, the lowest of Active(w); with none it does nothing. -/
def warpOp (f : State → Issuer → Nat → Word → State × Ending) (s : State) (u : Issuer) (m : Word) : State × Ending :=
  match slotsOf m with
  | [] => (s, .done)
  | t :: _ => f s u t m

/-- A warp operation that ends its clause: with no active slot the path goes on at the next header. -/
def warpEnd (f : State → Issuer → Nat → Word → State × Ending) (s : State) (u : Issuer) (m : Word) : State × Ending :=
  match slotsOf m with
  | [] => (s, .goto u.clause.after .none [])
  | t :: _ => f s u t m

/-- Operands A, B, C and D of the issuing word at a slot. -/
def State.argA (s : State) (u : Issuer) (i : Instr) (t : Nat) : Dbl := s.operand u t i.rules.a i.codes.2.1
def State.argB (s : State) (u : Issuer) (i : Instr) (t : Nat) : Dbl := s.operand u t i.rules.b i.codes.2.2.1
def State.argC (s : State) (u : Issuer) (i : Instr) (t : Nat) : Dbl := s.operand u t i.rules.c i.codes.2.2.2
def State.argD (s : State) (u : Issuer) (i : Instr) (t : Nat) : Dbl := s.operand u t i.rules.d i.codes.1

/-- One result to D of every slot of a mask. -/
def Issuer.result (u : Issuer) (i : Instr) (m : Word) (r : BitVec 128) : List RegWrite := u.writes (slotsOf m) i.rules.d i.codes.1 r

end Sys2Proof.Machine
end

