-- ==== Sys2Proof/Machine/Symbolic.lean ====
section
/-! DEFINITION. Words of trunks and limbs: forms and range predicates of Table 2.6, and the test of whether a clause keeps the
context symbolic (R25-R29, R32, R315, R317, R318, R326, R337, R344). -/

namespace Sys2Proof

/-- `pack` of the 8-bit types reads its destination. -/
def Instr.readsD (i : Instr) : Bool := match i with | .pack w => !(w.fmt == 1#4 || w.fmt == 2#4) | _ => false

/-- D of `icmp` immediate names its predicate in bits [2:0]. -/
def Instr.predCode (i : Instr) : BitVec 8 :=
  match i with
  | .icmpImm w => w.d &&& 7#8
  | _ => i.codes.1
/-- Words inside which a 32-bit form A widens to 64 bits (Table 2.6): `lea`, `imad`, and additions of 64 bits. -/
def Instr.widens (i : Instr) : Bool :=
  match i with
  | .lea _ | .imad _ | .iadd _ | .iadd3 _ => true
  | _ => false
/-- Kind of the destination, with the predicate of `icmp` immediate named. -/
def Instr.dKind (i : Instr) : Opd := match i with | .icmpImm _ => .predDst | _ => i.rules.d

end Sys2Proof

namespace Sys2Proof.Machine

/-- The pure function of a word whose result depends on its operands alone; none for every other word. -/
def aluFn (i : Instr) : Option (Args → Res) :=
  match i with
  | .and w => some (andOp w)
  | .andImm w => some (andImmOp w)
  | .bfe w => some (bfeOp w)
  | .bfi w => some (bfiOp w)
  | .brev w => some (brevOp w)
  | .clz w => some (clzOp w)
  | .ctz w => some (ctzOp w)
  | .cvt w => some (cvtOp w)
  | .fadd w => some (faddOp w)
  | .faddImm w => some (faddImmOp w)
  | .fsub w => some (fsubOp w)
  | .fmul w => some (fmulOp w)
  | .fmulImm w => some (fmulImmOp w)
  | .ffma w => some (ffmaOp w)
  | .fscale w => some (fscaleOp w)
  | .fround w => some (froundOp w)
  | .fmin w => some (fminOp w)
  | .fminImm w => some (fminImmOp w)
  | .fmax w => some (fmaxOp w)
  | .fmaxImm w => some (fmaxImmOp w)
  | .fclass w => some (fclassOp w)
  | .fcmp w => some (fcmpOp w)
  | .fdiv w => some (fdivOp w)
  | .frcp w => some (frcpOp w)
  | .frsq w => some (frsqOp w)
  | .fsqrt w => some (fsqrtOp w)
  | .fexp2 w => some (fexp2Op w)
  | .flog2 w => some (flog2Op w)
  | .fsin w => some (fsinOp w)
  | .fcos w => some (fcosOp w)
  | .ftanh w => some (ftanhOp w)
  | .fdot2 w => some (fdot2Op w)
  | .fdot4 w => if w.modAt 21 1 = 0 then some (fdot4Op w) else none
  | .lgdot4 w => if w.modAt 21 1 = 0 then some (lgdot4Op w) else none
  | .hadd2 w => some (hadd2Op w)
  | .hmul2 w => some (hmul2Op w)
  | .hfma2 w => some (hfma2Op w)
  | .iadd w => some (iaddOp w)
  | .iaddImm w => some (iaddImmOp w)
  | .isub w => some (isubOp w)
  | .isubImm w => some (isubImmOp w)
  | .iadd3 w => some (iadd3Op w)
  | .imul w => some (imulOp w)
  | .imulImm w => some (imulImmOp w)
  | .imulhi w => some (imulhiOp w)
  | .imad w => some (imadOp w)
  | .imadw w => some (imadwOp w)
  | .iabs w => some (iabsOp w)
  | .imin w => some (iminOp w)
  | .iminImm w => some (iminImmOp w)
  | .imax w => some (imaxOp w)
  | .imaxImm w => some (imaxImmOp w)
  | .idiv w => some (idivOp w)
  | .irem w => some (iremOp w)
  | .icmp w => some (icmpOp w)
  | .icmpImm w => some (icmpImmOp w)
  | .lea w => some (leaOp w)
  | .lop3 w => some (lop3Op w)
  | .mov w => if w.modAt 22 2 = 0 then some (movOp w) else none
  | .movi w => some (moviOp w)
  | .movhi w => some (movhiOp w)
  | .nop w => some (nopOp w)
  | .not w => some (notOp w)
  | .or w => some (orOp w)
  | .orImm w => some (orImmOp w)
  | .xor w => some (xorOp w)
  | .xorImm w => some (xorImmOp w)
  | .popc w => some (popcOp w)
  | .shl w => some (shlOp w)
  | .shlImm w => some (shlImmOp w)
  | .shr w => some (shrOp w)
  | .shrImm w => some (shrImmOp w)
  | .sar w => some (sarOp w)
  | .sarImm w => some (sarImmOp w)
  | .shf w => some (shfOp w)
  | .prmt w => some (prmtOp w)
  | .sel w => some (selOp w)
  | .pack w => some (packOp w)
  | .unpack w => some (unpackOp w)
  | .pand w => some (pandOp w)
  | _ => none

/-! Range predicates (R28) -/

/-- A predicate reduced to a box: U where it is the same at every item. -/
def SPred.reduce (b : Box) (p : SPred) : SPred :=
  match p with
  | .uni x => .uni x
  | .range k lo hi out =>
    let l := nth b.los k 0
    let h := nth b.his k 0
    if h < lo ∨ hi < l then .uni out
    else if lo ≤ l ∧ h ≤ hi then .uni (!out)
    else .range k lo hi out

/-- The items of an axis where ik ≤ t, as a predicate over a box. -/
def belowPred (b : Box) (k : Nat) (t : Int) : SPred :=
  if t < ((nth b.los k 0 : Nat) : Int) then .uni false else SPred.reduce b (.range k (nth b.los k 0) t.toNat false)
/-- The items of an axis where ik ≥ t. -/
def abovePred (b : Box) (k : Nat) (t : Int) : SPred :=
  if ((nth b.his k 0 : Nat) : Int) < t then .uni false else SPred.reduce b (.range k t.toNat (nth b.his k 0) false)

/-- B + c·i < u on axis k, c nonzero. -/
def lessPred (b : Box) (k : Nat) (base c u : Int) : SPred :=
  if 0 < c then belowPred b k ((u - base - 1).fdiv c) else abovePred b k ((base - u).fdiv (-c) + 1)
/-- B + c·i ≥ u on axis k. -/
def atLeastPred (b : Box) (k : Nat) (base c u : Int) : SPred :=
  if 0 < c then abovePred b k ((u - base - 1).fdiv c + 1) else belowPred b k ((base - u).fdiv (-c))

/-- B + c·i compared with u (Table 15.6). -/
def condPred (b : Box) (k : Nat) (base c u : Int) (cond : Nat) : SPred :=
  match cond with
  | 0 | 1 =>
    if (u - base).fmod c = 0 ∧ 0 ≤ (u - base).fdiv c then
      SPred.reduce b (.range k ((u - base).fdiv c).toNat ((u - base).fdiv c).toNat (cond == 1))
    else .uni (cond == 1)
  | 2 => lessPred b k base c u
  | 3 => lessPred b k base c (u + 1)
  | 4 => atLeastPred b k base c (u + 1)
  | _ => atLeastPred b k base c u

/-- The condition with its sides exchanged (R317). -/
def revCond (cond : Nat) : Nat := match cond with | 2 => 4 | 3 => 5 | 4 => 2 | 5 => 3 | c => c

/-- `icmp` of a form A against a U value in a type of width n (R28); none: the context materialises. The model's choice where R28 is
open: NoWrap is tested on the form as it stands, before coefficients of axes of extent 1 are folded into b, and the folded b is not
reduced modulo 2^W (notes/assumptions/85.md). -/
def rangeOf (box : Box) (x : Form) (u : Dbl) (signed : Bool) (n cond : Nat) : Option SPred :=
  let uv := Form.baseIn signed n (Form.uni u)
  let axes := (List.range 4).filter fun k => nth x.coefs k 0 != 0 && nth box.los k 0 != nth box.his k 0
  let base := ((List.range 4).filter fun k => nth box.los k 0 == nth box.his k 0).foldl
    (fun acc k => acc + nth x.coefs k 0 * ((nth box.los k 0 : Nat) : Int)) (x.baseIn signed n)
  match axes with
  | [] =>
    let v := sxAt n base
    some (.uni (intCond cond (Form.baseIn signed n (Form.uni v)) uv))
  | [k] => if noWrap x box signed n then some (condPred box k base (nth x.coefs k 0) uv cond) else none
  | _ => none

/-! Forms of integer words (Table 2.6) -/

/-- Product of two forms, one of them U. -/
def formMul (n : Nat) (x y : Form) : Option Form :=
  if y.isUni then some (x.mapAt n (· * sInt y.b)) else if x.isUni then some (y.mapAt n (· * sInt x.b)) else none
/-- A form shifted left by a U amount (R344). -/
def formShl (n : Nat) (x : Form) (m : Nat) : Form := if n ≤ m then Form.zero else x.mapAt n (· * (2 ^ m : Nat))
def formAdd (n : Nat) (x y : Form) : Form := x.zipAt n (· + ·) y

/-- The form that an integer word gives when some source is form A; none: the context materialises. -/
def formOp (box : Box) (i : Instr) (a b c : Form) : Option Form :=
  match i with
  | .mov w => if w.modAt 22 2 = 0 then some a else none
  | .iadd w => if w.sat then none else some (formAdd w.width a b)
  | .isub w => if w.sat then none else some (a.zipAt w.width (· - ·) b)
  | .iadd3 w => if w.sat then none else some (formAdd w.width (formAdd w.width a b) c)
  | .imul w => if w.sat then none else formMul w.width a b
  | .imad w => if w.sat then none else (formMul w.width a b).map fun p => formAdd w.width p c
  | .shl w => if b.isUni then some (formShl w.width a (amount b.b)) else none
  | .lea w =>
    let sh := w.modAt 17 6
    if w.fmt == 0xA#4 then
      let signed := w.modAt 23 1 == 1
      if noWrap b box signed 32 then
        some (formAdd 64 a (formShl 64 { b with b := BitVec.ofInt 64 (b.baseIn signed 32) } sh))
      else none
    else some (formAdd 32 a (formShl 32 b sh))
  | .iaddImm w => some (formAdd 32 a (Form.uni (w.imm.signExtend 64)))
  | .isubImm w => some (a.zipAt 32 (· - ·) (Form.uni (w.imm.signExtend 64)))
  | .imulImm w => formMul 32 a (Form.uni (w.imm.signExtend 64))
  | .shlImm w => some (formShl 32 a (w.imm.toNat % 32))
  | _ => none

/-- `icmp` with a form-A source (R317). -/
def formCmp (box : Box) (i : Instr) (a b : Form) : Option SPred :=
  match i with
  | .icmp w =>
    let signed := w.fmt != 9#4
    if b.isUni then rangeOf box a b.b signed w.width (w.modAt 17 3)
    else if a.isUni then rangeOf box b a.b signed w.width (revCond (w.modAt 17 3))
    else none
  | .icmpImm w => rangeOf box a (w.imm.signExtend 64) (!w.cmpUnsigned) 32 w.cmpCond
  | _ => none

/-- Writes of a form result: none to an s register, which holds no form. -/
def writeForm (o : Opd) (x : BitVec 8) (f : Form) : Option (List RegWrite) :=
  if 0xC0 ≤ x.toNat then none else some [.form x.toNat o.wide (if o.wide then f else f.mapAt 32 id)]

/-- A word computed by its pure function in a trunk or limb: once over U sources, else by its forms. -/
def Sym.alu (v : Sym) (i : Instr) (f : Args → Res) : Option (List RegWrite × Word) :=
  let sp := i.rules
  let (dc, ac, bc, cc) := i.codes
  let d := if i.readsD then v.value sp.d dc else some 0#64
  match v.value sp.a ac, v.value sp.b bc, v.value sp.c cc, d with
  | some a, some b, some c, some d =>
    let r := f { cls := .vector, a := a, b := b, c := c, d := d }
    match i.dKind with
    | .predDst => some ([.spred i.predCode.toNat (.uni (r.val.getLsbD 0))], r.flags)
    | .none => some ([], r.flags)
    | o =>
      if 0xC0 ≤ dc.toNat then some (regWrites 0 (if o.wide then 2 else 1) dc (r.val.setWidth 128), r.flags)
      else (writeForm o dc (Form.uni (if o.wide then r.val else sx32 r.val))).map (·, r.flags)
  | _, _, _, _ =>
    match v.read sp.a ac i.widens, v.read sp.b bc i.widens, v.read sp.c cc i.widens with
    | some a, some b, some c =>
      match i.dKind with
      | .predDst => (formCmp v.box i a b).map fun p => ([.spred i.predCode.toNat p], 0#32)
      | o => match formOp v.box i a b c with
        | some g => (writeForm o dc g).map (·, 0#32)
        | none => none
    | _, _, _ => none

/-- `mov` through an index (R249, R337): the register numbers of source and destination. -/
def movIndex (w : RegWord) (sk : Word) : Nat × Nat :=
  if w.modAt 22 2 = 1 then (w.a.toNat + sk.toNat, w.d.toNat)
  else if w.modAt 22 2 = 2 then (w.a.toNat, w.d.toNat + sk.toNat)
  else (w.a.toNat, w.d.toNat)

/-- An indexed `mov` of a trunk or limb copies the form; RIDX is the word's own trap. -/
def Sym.movIndexed (v : Sym) (w : RegWord) : Option (List RegWrite) :=
  let (a, d) := movIndex w ((v.s.look (w.c.toNat - 0xC0)).getD 0#32)
  if 191 < a ∨ 191 < d then some []
  else
    let src := if w.modAt 22 2 = 2 ∧ 0xC0 ≤ w.a.toNat then v.read (.src 1) w.a else rowRead v.rows v.box a false false
    src.map fun f => [.form d false (f.mapAt 32 id)]

/-- `idx` (R318): coefficient 1 on its axis. -/
def idxForm (k : Nat) : Form :=
  { b := 0#64, c0 := if k = 0 then 1#64 else 0#64, c1 := if k = 1 then 1#64 else 0#64, c2 := if k = 2 then 1#64 else 0#64,
    c3 := if k = 3 then 1#64 else 0#64 }

/-- Predicates under a mask, each U. -/
def Sym.preds (v : Sym) (mask : BitVec 7) : Option Word :=
  ((List.range 7).filter fun k => mask.getLsbD k).foldl (fun (acc : Option Word) k =>
    match acc, v.sp.spredAt k with
    | some m, .uni b => some (setBit m k b)
    | _, _ => none) (some 0#32)

/-- `pmov` in a trunk or limb (R347). -/
def Sym.pmov (v : Sym) (w : RegWord) : Option (List RegWrite) :=
  if w.fmt == 0#4 then
    match v.preds w.mod with
    | some m => writeForm (.dstV 1) w.d (Form.uni (m.setWidth 64))
    | none => none
  else
    match v.value (.src 1) w.a with
    | some a => some (((List.range 7).filter fun k => w.mod.getLsbD k).map fun k => .spred k (.uni (a.getLsbD k)))
    | none => none

/-- Special registers that give U in a trunk or limb (Table 16.8). -/
def rdsrUni (n : Nat) : Bool := (4 ≤ n ∧ n ≤ 0x10) ∨ (0x12 ≤ n ∧ n ≤ 0x19) ∨ n = 0x1B ∨ n = 0x1C

/-- What a paired word stages: each half as its own instruction does (R251). -/
def Sym.pair (v : Sym) (l r : HalfOp) : Option (List RegWrite × Word) :=
  let half (h : HalfOp) : Option (List RegWrite × Word) :=
    match h.instr with
    | none => none
    | some i => match aluFn i with | some f => v.alu i f | none => none
  match half l, half r with
  | some (a, f), some (b, g) => some (a ++ b, f ||| g)
  | _, _ => none

/-- The U row of a result that the word itself computes when it issues. -/
def uniRow (o : Opd) (x : BitVec 8) : List RegWrite := if 0xC0 ≤ x.toNat then [] else [.form x.toNat o.wide Form.zero]

/-- What a covered word stages at once; the empty list for words whose effect is elsewhere. None: not covered for these forms. -/
def Sym.word (v : Sym) (i : Instr) : Option (List RegWrite × Word) :=
  let uni (o : Opd) (x : BitVec 8) : Option (List RegWrite × Word) := (v.value o x).map fun _ => ([], 0#32)
  match i with
  | .pairedWord l r => v.pair l r
  | .idx w => (writeForm (.dstV 1) w.d (idxForm w.imm.toNat)).map (·, 0#32)
  | .mov w => if w.modAt 22 2 = 0 then v.alu i (movOp w) else (v.movIndexed w).map (·, 0#32)
  | .pmov w => (v.pmov w).map (·, 0#32)
  | .ld w =>
    if w.seg == 0#3 || w.seg == 4#3 then uni i.rules.a w.a else none
  | .ldm w => uni i.rules.a w.a
  | .pref w => uni i.rules.a w.a
  | .rdsr w =>
    if rdsrUni w.a.toNat then some (uniRow i.rules.d w.d, 0#32) else none
  | .mark w => uni i.rules.a w.a
  | .brx w => uni i.rules.a w.a
  | .trapSet w => uni i.rules.a w.a
  | .bmode w => match v.value (.src 1) w.a, v.value (.src 1) w.b with
    | some _, some _ => some (uniRow i.rules.d w.d, 0#32)
    | _, _ => none
  | .bra _ | .exit _ | .tail _ | .trap _ | .yield _ | .ret _ | .tret _ | .halt _ | .fence _ | .join _ | .frz _ => some ([], 0#32)
  | _ =>
    match aluFn i with
    | some f => v.alu i f
    | none => none

/-- The guard of a word as a trunk or limb sees it. -/
def Sym.guard (v : Sym) (i : Instr) : SPred := (v.sp.spredAt i.guard.1.toNat).flip (i.guard.2 == 1#1)

/-- The test of R32 for one word with the rows as staged so far: the stage after it, or none when the context must materialise. -/
def symStep (c : Ctx) (g : Stage) (i : Instr) : Option Stage :=
  let v := c.sym (some g)
  let isBra := match i with | .bra _ => true | _ => false
  match v.guard i, v.word i with
  | .range .., some _ => if isBra then some g else none
  | .uni b, some (ws, f) => some (if b && !i.rules.var then g.add c ws f else g)
  | _, none => none

/-- An empty stage. -/
def Stage.fresh : Stage := { forms := [], sp := [], s := [], flags := 0#32, dead := [] }

/-- R32: every word of a clause, from body word `j` on, is covered by Table 2.6 for the forms present. -/
def clauseSymbolic (c : Ctx) (h : Header) : Nat → List Dbl → Stage → Bool
  | _, [], _ => true
  | j, w :: r, g =>
    match decode .vector (h.paired j) w with
    | .error _ => true
    | .ok i => match symStep c g i with
      | some g => clauseSymbolic c h (j + 1) r g
      | none => false

end Sys2Proof.Machine
end

