-- ==== Sys2Proof/Machine/Access.lean ====
section
/-! DEFINITION. Memory accesses of contexts: segments, Translate, the operand log, the driver's fault queue, and issuing or
replaying a memory word (R75-R81, R84, R147-R153, R156, R228, R266). -/

namespace Sys2Proof

/-- SEG of a memory word, as an index of Table 4.4; 0 also for words whose A is a VA, 6 for words that name no address in A. -/
def Instr.memSeg (i : Instr) : Nat :=
  match i with
  | .ld w | .st w => w.seg.toNat
  | .atom w | .red w => match w.modAt 21 2 with | 0 => 0 | 1 => 1 | _ => 3
  | .ldm _ | .stm _ | .scat _ | .pref _ | .cinv _ | .cwb _ | .gath _ | .psel _ | .cpyt _ | .vinfo _ => 0
  | .dld w | .dsv w => if w.modAt 17 1 = 1 then 1 else 0
  | .binit w | .barv w | .bwait w | .btest w => if w.modAt 17 1 = 1 then 3 else 1
  | _ => 6

/-- Sext(OFF, 14) of a memory layout. -/
def MemWord.offset (w : MemWord) : Int := w.off.toInt

end Sys2Proof

namespace Sys2Proof.Machine

/-! Segments -/

def Seg.off : Seg := { base := 0#64, limit := 0#32, en := false }
def Ctx.seg (c : Ctx) (k : Nat) : Seg := nth c.segs k Seg.off

/-- Who translates for a context. -/
def Ctx.requester (c : Ctx) : Requester :=
  { tenant := c.tenant, priv := c.priv, cluster := some c.cluster, unit := some (.core c.core) }

/-- Bytes of a cluster store. -/
def storeTargetAt (cluster a n : Nat) : Target :=
  { bytes := (List.range n).map fun i => .store (storeKey cluster (a + i)), csts := [], leaves := [], shadow := none }

/-- A segment fault: TRADDR is the offset. -/
def segFault (code : Nat) (off : Int) : AFault := { code := code, addr := wrapNat off 64, bva := 0, page := 0 }

/-- The warp of a group by WARP number. -/
def State.warpOf (s : State) (g n : Nat) : Option Ctx :=
  (s.work.ctxs.find? fun (_, c) => c.group == some g && c.warpNo == n && !c.stopped && (c.kind == .warp || c.kind == .leaf)).map (·.2)

/-- Group j of the gang of the context's launch whose number SEG.D names (Table 4.4). A group whose scratch has been freed keeps its
addresses there: R76 does not say what an access to it does, the model lets it reach them (notes/assumptions/94.md). -/
def State.gangMember (s : State) (c : Ctx) (j : Nat) : Option Group :=
  match (s.work.gangs.find? fun (_, g) => g.node == c.node && g.number == (c.seg 3).base.toNat).map (·.2) with
  | some g => match g.members[j]? with | some k => s.work.groups.look k | none => none
  | none => none

/-- Translate (R266) of segments G, S, W, D and K for one slot: offset exact, `n` bytes. SEG.W also says whether its warp is the
issuing one. -/
def State.segTarget (s : State) (c : Ctx) (seg : Nat) (k : Access) (aligned : Bool) (off : Int) (n : Nat) : State × Except AFault Target :=
  let g := c.seg seg
  let out := off < 0 ∨ (g.limit.toNat : Int) < off + n
  let o := off.toNat
  let bad (code : Nat) : State × Except AFault Target := (s, .error (segFault code off))
  if !g.en then bad 0x10
  else match seg with
  | 0 => s.globalTarget c.requester k aligned off n
  | 1 =>
    let scr (b : Nat) : Bool := bankMode (s.bankWord c.cluster b) == 1 && bankState (s.bankWord c.cluster b) != 2
    if out ∨ 2 ^ 24 < g.base.toNat + o + n then bad 0x10
    else if c.isComp && !(scr (o / 32768) && scr ((o + n - 1) / 32768)) then bad 0x10
    else if aligned && o % n != 0 then bad 0x13
    else (s, .ok (storeTargetAt c.cluster (g.base.toNat + o) n))
  | 2 =>
    if out ∨ o % n ≠ 0 then bad 0x10
    else match s.warpOf g.base.toNat (o / 2 ^ 15 % 32) with
    | none => bad 0x10
    | some x => match x.vPlace (o / 4 % 32) (o / 128 % 256) with
      | none => bad 0x10
      | some p => (s, .ok { bytes := (List.range n).map fun i => .store (p + o % 4 + i), csts := [], leaves := [], shadow := none })
  | 3 =>
    if out then bad 0x10
    else match s.gangMember c (o / 2 ^ 18) with
    | none => bad 0x10
    | some x =>
      if x.kib * 1024 < o % 2 ^ 18 + n then bad 0x10
      else if aligned && o % n != 0 then bad 0x13
      else (s, .ok (storeTargetAt x.cluster (x.base + o % 2 ^ 18) n))
  | 4 => if out ∨ k ≠ .read then bad 0x10 else s.globalTarget c.requester k aligned ((g.base.toNat : Int) + off) n
  | _ => bad 0x10

/-- FIFO bank of a SEG.F offset for a batch entry of `n` bytes (R81): a fault code, or the bank. -/
def State.fifoBank (s : State) (c : Ctx) (push : Bool) (off : Int) (n : Nat) : Except Nat Nat :=
  let g := c.seg 5
  if !g.en || off < 0 || (g.limit.toNat : Int) < off + n || off.toNat % 2 ^ 15 != 0 || !([4, 8, 16].contains n) then .error 0x10
  else
    let bank := g.base.toNat + off.toNat / 2 ^ 15
    let w := s.bankWord c.cluster bank
    if 512 ≤ bank then .error 0x10
    else if bankMode w != 3 || bankState w == 2 || (push && bankState w != 0) then .error 0x11
    else .ok bank

/-! The operand log (R149, R150) -/

/-- The base VA range that a logged or issued access of `n` bytes names, as 64 KiB regions. -/
def Ctx.regions (c : Ctx) (seg : Nat) (r : Req) (n : Nat) : List Int :=
  match seg with
  | 0 => [r.addr / 65536, (r.addr + n - 1) / 65536]
  | 4 => [((c.seg 4).base.toNat + r.addr) / 65536, ((c.seg 4).base.toNat + r.addr + n - 1) / 65536]
  | _ => []

/-- Bytes that a memory word moves per slot. -/
def memBytes (i : Instr) : Nat :=
  match i with
  | .ld w | .st w => typeBytes w.mfmt.toNat
  | .atom w | .red w | .scat w => typeBytes w.fmt.toNat
  | .ldm _ | .stm _ => 4
  | .vset _ | .vinfo _ => 128
  | _ => 64

/-- What a memory word accesses of global memory, for the region rule: `vset` reads at its operand B. -/
def Ctx.touched (c : Ctx) (i : Instr) (r : Req) : List Int :=
  match i with
  | .vset _ => c.regions 0 { r with addr := (r.b.toNat : Int) } 128
  | _ => c.regions i.memSeg r (memBytes i)

/-- R150 item 5: an access to a region of an entry that is not held for a handler waits. -/
def Ctx.regionBusy (c : Ctx) (i : Instr) (reqs : List Req) : Bool :=
  let mine := reqs.flatMap (c.touched i)
  c.log.any fun (_, e) =>
    (match e.state with | .parked | .resolved => true | .toDeliver | .held => false) &&
      (e.reqs.any fun r => (c.touched e.word r).any fun x => mine.contains x)

/-- What performing a memory word gives. -/
inductive MemOut where
  | done (ws : List RegWrite) (flags : Word) (poison : Option Nat)
  /-- RaiseFault: the fault of the lowest faulting slot, the slots that faulted with its code, and what the others translated to -/
  | fault (f : AFault) (mask : Word) (k : Access) (got : List (Nat × Target))
  | wait
  /-- it waits with a first part done, which stands -/
  | begun
  deriving DecidableEq, Repr

/-- A memory word as a function of its captured operands, for issue and for replay. -/
abbrev MemAct := State → Ctx → List Req → State × MemOut

/-- RaiseFault (R266). -/
def raiseFault (k : Access) (bad : List (Nat × AFault)) (got : List (Nat × Target) := []) : MemOut :=
  match bad with
  | [] => .done [] 0#32 none
  | (t, f) :: r => .fault f (maskOf (t :: (r.filter fun e => e.2.code == f.code).map (·.1))) k got

/-- Requests with the translated addresses of the slots that did not fault (R149). -/
def withGot (reqs : List Req) (got : List (Nat × Target)) : List Req :=
  reqs.map fun r => { r with got := (got.find? fun g => g.1 == r.slot).map (·.2) }

/-- Logged words that satisfy a test of their translated addresses translate again: what they reached has changed (R92, R136, R139). -/
def State.forgetGot (s : State) (p : Target → Bool) : State :=
  let req (r : Req) : Req := if r.got.any p then { r with got := none } else r
  let ctx (c : Ctx) : Ctx := { c with log := c.log.map fun (n, e) => (n, { e with reqs := e.reqs.map req }) }
  let saved (x : SavedCtx) : SavedCtx := { x with ctx := ctx x.ctx }
  s.setWork { s.work with
    ctxs := s.work.ctxs.map fun (k, c) => (k, ctx c), limbQueue := s.work.limbQueue.map ctx, leafSaved := s.work.leafSaved.map saved,
    saved := s.work.saved.map fun u => { u with ctxs := u.ctxs.map saved } }

/-- The pages that a context's `pgattr` has marked are no longer in transit (R136). -/
def State.endTransit (s : State) (uid : Nat) : State :=
  let clear (s : State) (x : Nat × Nat) : State :=
    s.deviceWrite x.2 16 (pteWith (BitVec.ofNat 128 (s.mem.phys.num x.2 16)) (2 ^ 27) 0).toNat
  if s.eng.transit.any (·.1 == uid) then
    let s := (s.eng.transit.filter (·.1 == uid)).foldl clear s
    { s with eng := { s.eng with transit := s.eng.transit.filter (·.1 != uid) } }
  else s

/-- Log a faulted word (R149, R150): entry, FLOG record, and the fault on its way to a fault unit, the driver or the handler; an access to
a page in transit parks with no fault, and replays (R136). Answers whether the word still counts on its scoreboard or clause counter. -/
def State.logFault (s : State) (u : Issuer) (i : Instr) (reqs : List Req) (f : AFault) (mask : Word) (a : Access) : State × Bool :=
  let k := u.key
  match s.ctx? k with
  | none => (s, false)
  | some c =>
    let e := (c.log.freeBelow 8).getD 0
    let (n, s) := s.fresh
    let r := s.resolver c.tenant f
    let entry : LogEntry :=
      { serial := n, word := i, reqs := reqs, path := u.path.id, pc := u.clause.pc, pos := u.clause.pos, sb := i.sbField,
        active := u.path.mask, guarded := u.guardMask i,
        state := (match r with | .software => .toDeliver | .device | .driver => .parked | .transit => .resolved),
        code := BitVec.ofNat 8 f.code, addr := dbl f.addr, bva := dbl f.bva, mask := mask }
    let s := if r = .transit then s else s.galleyCtx c 1 0x01#8 (dbl (f.code * 2 ^ 56 + f.addr % 2 ^ 56))
    let s := (s.changeCtx k fun c => { c with log := c.log.put e entry }).clearLatch (k / 8)
    match r with
    | .transit => (s, true)
    | .software => (s, i.sbField != 7)
    | .device => (s.parkFault (.log k e) c.tenant (accessCode a) f false, true)
    | .driver => (s.parkFault (.log k e) c.tenant (accessCode a) f true, true)

/-- Bytes of a stored value that come from a poisoned register word: they are stored poisoned (R207). -/
def State.storeBads (s : State) (c : Ctx) (d : BitVec 8) (n slot : Nat) : List Bool :=
  if s.mem.storePoison.isEmpty || c.isComp then []
  else (List.range n).map fun i =>
    match c.vPlace slot (d.toNat + i / 4) with
    | some a => d.toNat < 0xC0 && s.mem.storePoison.contains a
    | none => false

/-- Bytes of the data that a word writes to memory which come from poisoned register words. -/
def State.dataBads (s : State) (c : Ctx) (i : Instr) (t : Nat) : List Bool :=
  let at_ (x : BitVec 8) : List Bool := s.storeBads c x (memBytes i) t
  match i with
  | .st w => at_ w.d
  | .atom w | .red w | .scat w => if w.modAt 17 4 = 7 then (at_ w.b).zipWith (· || ·) (at_ w.c) else at_ w.b
  | _ => []

/-- Capture the operands of the active slots (R240): `off` is added to the address operand. -/
def State.capture (s : State) (u : Issuer) (i : Instr) (slots : List Nat) (off : Int) : List Req :=
  slots.map fun t =>
    let a := s.argA u i t
    let addr : Int := (if i.memSeg = 0 then (a.toNat : Int) else ((a.toNat % 2 ^ 32 : Nat) : Int)) + off
    let sp := i.rules
    let dc := i.codes.1
    { slot := t, addr := addr, a := a, b := s.argB u i t, c := s.argC u i t,
      data := if sp.d == .src 4 then s.readQuad u.ctx t dc else (s.argD u i t).setWidth 128, bads := s.dataBads u.ctx i t }

/-- The slots at which a word with destination D acts: one for a uniform word with an s destination (R243). -/
def Issuer.actSlots (u : Issuer) (i : Instr) (m : Word) : List Nat :=
  let l := slotsOf m
  match i.rules.d with
  | .dst _ | .dstAny _ => if !u.ctx.isComp && 0xC0 ≤ i.codes.1.toNat then l.take 1 else l
  | .none | .src _ | .srcV | .srcS | .pred | .slot | .dstV _ | .predDst | .slotDst | .raw => l

/-- Body of a memory word: it waits for a free log entry and for logged regions, then translates, and performs or is logged. -/
def memBody (i : Instr) (off : Int) (act : MemAct) (s : State) (u : Issuer) (m : Word) : State × Ending :=
  match u.actSlots i m with
  | [] => (s, .done)
  | slots =>
    let reqs := s.capture u i slots off
    if (u.ctx.log.freeBelow 8).isNone || u.ctx.regionBusy i reqs then (s, .hold)
    else
      let (s', out) := act s u.ctx reqs
      match out with
      | .done ws f p => (s', .on ws f p)
      | .wait => (s, .hold)
      | .begun => (s', .hold)
      | .fault f mask a got =>
        let (s', counts) := s'.logFault u i (withGot reqs got) f mask a
        (s', .logged counts)

/-- The entry of the word at the clause's position waits for a resolution or its replay. -/
def Issuer.pendingHere (u : Issuer) (c : Ctx) : Bool :=
  c.log.any fun (_, e) => e.path == u.path.id && e.pc == u.clause.pc && e.pos == u.clause.pos &&
    match e.state with | .parked | .resolved => true | .toDeliver | .held => false

/-- Body of a memory word that holds its path until it has ended, its replay included (R379). One whose fault has gone to software ends
there: the path goes on to the clause boundary where it takes its handler (R148). -/
def heldMemBody (i : Instr) (off : Int) (act : MemAct) (s : State) (u : Issuer) (m : Word) : State × Ending :=
  if u.clause.await then (s, if u.pendingHere u.ctx then .hold else .done)
  else
    match memBody i off act s u m with
    | (s, .logged true) =>
      if (s.ctx? u.key).any u.pendingHere then
        (((s.useBits u i).count u.key u.path.id i.sbField true).changeLane (u.key / 8) fun l =>
          { l with clause := l.clause.map fun c => { c with await := true } }, .hold)
      else (s, .logged true)
    | r => r

/-- Issue a memory word. -/
def State.issueMem (s : State) (i : Instr) (off : Int) (act : MemAct) : Host.Outcome State Fault Refusal :=
  s.issueWord i (memBody i off act)

/-- Translate every request: the targets, and the faults by slot. A replayed request that did not fault has its target already
(R144, R149). -/
def State.targetsFrom (s : State) (c : Ctx) (seg n : Nat) (k : Access) (aligned : Bool) :
    List Req → List (Req × Target) → List (Nat × AFault) → State × List (Req × Target) × List (Nat × AFault)
  | [], ts, bad => (s, ts.reverse, bad.reverse)
  | r :: rs, ts, bad =>
    let (s, x) := match r.got with | some t => (s, Except.ok t) | none => s.segTarget c seg k aligned r.addr n
    match x with
    | .ok t => s.targetsFrom c seg n k aligned rs ((r, t) :: ts) bad
    | .error f => s.targetsFrom c seg n k aligned rs ts ((r.slot, f) :: bad)

/-- Every slot translates before any effect (R150): the continuation runs only when none faults. -/
def State.withTargets (s : State) (c : Ctx) (seg n : Nat) (k : Access) (aligned : Bool) (reqs : List Req)
    (go : State → List (Req × Target) → State × MemOut) : State × MemOut :=
  let (s, ts, bad) := s.targetsFrom c seg n k aligned reqs [] []
  if bad.isEmpty then go s ts else (s, raiseFault k bad ((ts.filter fun (r, _) => !bad.any (·.1 == r.slot)).map fun (r, t) => (r.slot, t)))

/-- Writes of a slot's result, by the kind of context. -/
def Ctx.slotWrites (c : Ctx) (i : Instr) (t : Nat) (r : BitVec 128) : List RegWrite :=
  let n := match i.rules.d with
    | .dst n | .dstAny n | .dstV n => n
    | .none | .src _ | .srcV | .srcS | .pred | .slot | .predDst | .slotDst | .raw => 0
  let x := i.codes.1
  if n = 0 then []
  else if c.isComp then [.x x.toNat (r.setWidth 64)]
  else if c.symbolic then uniWrites n x r
  else regWrites t n x r

/-- Objects of barriers: SEG.S or SEG.D offset to the store key of a 16-byte object (R84); none: SEGLIM. -/
def State.objectAt (s : State) (c : Ctx) (gangSeg : Bool) (off : Nat) : Option Nat :=
  if off % 16 ≠ 0 then none
  else if c.isComp then
    let w := s.bankWord c.cluster (off / 32768)
    if off < 2 ^ 24 ∧ bankMode w = 1 ∧ bankState w ≠ 2 then some (storeKey c.cluster off) else none
  else
    let (_, r) := s.segTarget c (if gangSeg then 3 else 1) .write false (off : Int) 16
    match r with
    | .ok t => match t.bytes with
      | .store k :: _ =>
        let w := s.bankWord (k / 2 ^ 24) (k % 2 ^ 24 / 32768)
        if bankMode w = 1 ∧ bankState w ≠ 2 then some k else none
      | _ => none
    | .error _ => none

end Sys2Proof.Machine
end

