-- ==== Sys2Proof/Machine/Launch.lean ====
section
/-! DEFINITION. Free bindings, scratch allocation, and placing groups, gangs and contexts (R23, R33, R50, R68, R71, R75, R77, R185). -/

namespace Sys2Proof.Machine

/-! Free bindings (R50, R68, R71) -/

/-- Contexts on a lane. -/
def State.onLane (s : State) (cluster lane : Nat) : List Ctx :=
  (s.work.ctxs.filter fun (_, c) => c.cluster == cluster && c.lane == lane).map (·.2)
/-- Free granules of a lane's bank, lowest first. -/
def State.freeGranules (s : State) (cluster lane : Nat) : List Nat :=
  let used := (s.onLane cluster lane).flatMap (·.map)
  (List.range 32).filter fun g => !used.contains g
/-- Free bindings of a lane for a number of granules. -/
def State.freeBinds (s : State) (cluster lane regs : Nat) : List Nat :=
  if s.stableBank cluster lane 0 && !s.clusterDropped cluster && decide (regs ≤ (s.freeGranules cluster lane).length) then
    (List.range 8).filter fun b => (s.ctx? (ctxKey cluster lane b)).isNone
  else []
/-- The free bindings of a cluster. -/
def State.freeCount (s : State) (cluster regs : Nat) : Nat :=
  ((List.range 512).map fun l => (s.freeBinds cluster l regs).length).foldl (· + ·) 0
/-- The lowest lane with a free binding, and the binding. -/
def State.freeBinding (s : State) (cluster regs : Nat) : Option (Nat × Nat) :=
  (List.range 512).findSome? fun l => match s.freeBinds cluster l regs with | b :: _ => some (l, b) | [] => none

/-- A node may run on a cluster: PLACE (Table 3.1), and its die is there. -/
def State.permits (s : State) (n : Node) (cluster : Nat) : Bool :=
  (n.place == 0#128 || n.place.getLsbD cluster) && !s.clusterDropped cluster

/-- The best of a list by a score, ties to the first. -/
def bestOf (score : Nat → Nat) : List Nat → Option Nat
  | [] => none
  | x :: r => match bestOf score r with
    | none => some x
    | some y => if score x ≥ score y then some x else some y

/-! Scratch (R77) -/

/-- Allocations of a cluster: (start, end). -/
def State.allocs (s : State) (cluster : Nat) : List (Nat × Nat) :=
  (s.work.groups.filter fun (_, g) => g.cluster == cluster && g.kib != 0 && !g.freed && !g.saved).map fun (_, g) => (g.base, g.base + g.kib * 1024)

/-- The lowest suitable address for `kib` KiB beside the allocations of a list. -/
def State.findScratch (s : State) (cluster kib : Nat) (taken : List (Nat × Nat)) : Option Nat :=
  if kib = 0 then some 0
  else
    let size := kib * 1024
    let fits (a : Nat) : Bool :=
      decide (a + size ≤ 2 ^ 24) && (taken.all fun (lo, hi) => decide (a + size ≤ lo ∨ hi ≤ a))
        && ((List.range ((a + size - 1) / 32768 + 1 - a / 32768)).all fun i => s.stableBank cluster (a / 32768 + i) 1)
    let starts := ((List.range 512).filter fun b => s.stableBank cluster b 1).map (· * 32768) ++ taken.map (·.2)
    (starts.filter fits).foldl (fun best a => match best with | none => some a | some b => some (min a b)) none

/-- Zero-fill store bytes. -/
def State.zeroStore (s : State) (cluster base n : Nat) : State :=
  let a := storeKey cluster base
  { s with mem := { s.mem with store := s.mem.store.clear a n,
                               storePoison := s.mem.storePoison.filter fun w => !(decide (a ≤ w) && decide (w < a + n)) } }

/-! Groups and gangs (R23, R50) -/

def Group.fresh (node number : Nat) (box : Box) (cluster base kib gang age : Nat) : Group :=
  { node := node, number := number, box := box, cluster := cluster, base := base, kib := kib, gang := some gang, gen := 0#32,
    arrived := [], named := [], nextWarp := 0, age := age, freed := false, saved := false }

/-- A placed group of a launch. -/
def State.groupNo (s : State) (node number : Nat) : Option Nat :=
  (s.work.groups.find? fun (_, g) => g.node == node && g.number == number && !g.freed).map (·.1)

/-- Put a list of groups (number, cluster, scratch base) into one gang. -/
def State.placeGang (s : State) (node : Nat) (n : Node) (gangNo : Nat) (box : Box) (gs : List (Nat × Nat × Nat)) : State :=
  let (gk, s) := s.fresh
  let (keys, s) := gs.foldl (fun (ks, s) (number, cluster, base) =>
    let (k, s) := s.fresh
    let s := s.zeroStore cluster base (n.scratchKib * 1024)
    let g := Group.fresh node number (n.boxAt 0 number) cluster base n.scratchKib gk s.fCyc
    (ks ++ [k], { s with work := { s.work with groups := s.work.groups.put k g } })) (([] : List Nat), s)
  let gang : Gang := { node := node, number := gangNo, box := box, members := keys, gen := 0#32, arrived := [], relaunchable := n.relaunch && !n.released.any box.meets }
  { s with work := { s.work with gangs := s.work.gangs.put gk gang } }

/-- Where a box of a level was placed. -/
def State.placedAt (s : State) (node level box : Nat) : Option Nat :=
  (s.work.placed.find? fun p => p.node == node && p.level == level && p.box == box).map (·.cluster)

/-- Note where the enclosing boxes of a group were placed. -/
def State.notePlaced (s : State) (node : Nat) (n : Node) (item : Quad) (cluster : Nat) : State :=
  (([3, 4].filterMap n.levelOf).filter fun l => (s.placedAt node l (n.boxNumber l item)).isNone).foldl (fun s l =>
    { s with work := { s.work with placed := s.work.placed ++ [{ node := node, level := l, box := n.boxNumber l item, cluster := cluster }] } }) s

/-- Clusters that a new group may take: permitted, and on the die of its die-level box. -/
def State.candidates (s : State) (node : Nat) (n : Node) (item : Quad) : List Nat :=
  let onDie (c : Nat) : Bool := match n.levelOf 4 with
    | none => true
    | some l => match s.placedAt node l (n.boxNumber l item) with | some d => d / 16 == c / 16 | none => true
  (List.range 128).filter fun c => s.permits n c && onDie c

/-- Allocations for a list of clusters, one group each. -/
def State.allocAll (s : State) (kib : Nat) : List Nat → List (Nat × Nat) → Option (List Nat)
  | [], _ => some []
  | c :: r, extra =>
    match s.findScratch c kib (s.allocs c ++ (extra.filter fun e => e.1 == c).map fun e => (e.2, e.2 + kib * 1024)) with
    | none => none
    | some a => (s.allocAll kib r (extra ++ [(c, a)])).map (a :: ·)

/-- Place the gang of a group on an aligned set of four clusters (R50); none when it cannot be placed whole. -/
def State.placeWhole (s : State) (node : Nat) (n : Node) (l : Nat) (item : Quad) : Option State :=
  let gangNo := n.boxNumber l item
  let box := n.boxAt l gangNo
  let numbers := n.groupsIn box
  let cs (f : Nat) : List Nat := (List.range numbers.length).map (f + ·)
  let sets := (List.range 32).map (4 * ·) |>.filter fun f => (List.range 4).all fun j => (s.candidates node n item).contains (f + j)
  let free (f : Nat) : Nat := ((List.range 4).map fun j => s.freeCount (f + j) n.regs).foldl (· + ·) 0
  let fits (f : Nat) : Bool := (s.allocAll n.scratchKib (cs f) []).isSome
  let first := match n.levelOf 3 with
    | some cl => match s.placedAt node cl (n.boxNumber cl item) with
      | some f => some f
      | none => bestOf free sets
    | none => bestOf free (sets.filter fits)
  match first with
  | none => none
  | some f =>
    match s.allocAll n.scratchKib (cs f) [] with
    | none => none
    | some bases =>
      some ((s.notePlaced node n item f).placeGang node n gangNo box (numbers.zip ((cs f).zip bases)))

/-! Room for a saved unit (R60, R62) -/

/-- Granules that a saved context needs: its own, and what its paths wait for in `rgrow`; a request that would go beyond 24 will raise
RGROW and takes none (R71, R360). -/
def Ctx.need (c : Ctx) : Nat :=
  (c.paths.map fun p => match p.wait with | .grow g _ _ _ => g | _ => 0).foldl (fun n g => if n + g ≤ 24 then n + g else n) c.map.length

/-- Free bindings of a cluster for contexts that need these granules, in order: (lane, binding). -/
def State.assign (s : State) (cluster : Nat) : List Nat → List (Nat × Nat × Nat) → Option (List (Nat × Nat))
  | [], acc => some (acc.reverse.map fun x => (x.1, x.2.1))
  | g :: r, acc =>
    let onLane (l : Nat) : List (Nat × Nat × Nat) := acc.filter fun x => x.1 == l
    let room (l : Nat) : Nat := ((onLane l).map fun x => x.2.2).foldl (· + ·) g
    let pick (l : Nat) : Option (Nat × Nat) :=
      ((s.freeBinds cluster l (room l)).find? fun b => !(onLane l).any fun x => x.2.1 == b).map (l, ·)
    match (List.range 512).findSome? pick with
    | none => none
    | some (l, b) => s.assign cluster r ((l, b, g) :: acc)

/-- The group of a saved unit, by position, whose cluster a context goes to: its own, or the first that its box meets. -/
def SavedUnit.groupOf (u : SavedUnit) (c : Ctx) : Nat :=
  (u.groups.findIdx? fun (k, g) => match c.group with
    | some x => x == k
    | none => decide ((c.box.inter g.box).lo.d0 ≤ (c.box.inter g.box).hi.d0) && decide ((c.box.inter g.box).lo.d1 ≤ (c.box.inter g.box).hi.d1)
        && decide ((c.box.inter g.box).lo.d2 ≤ (c.box.inter g.box).hi.d2) && decide ((c.box.inter g.box).lo.d3 ≤ (c.box.inter g.box).hi.d3)).getD 0
def SavedUnit.onGroup (u : SavedUnit) (j : Nat) : List Ctx := (u.ctxs.map (·.ctx)).filter fun c => u.groupOf c == j

/-- Where the groups and contexts of a saved unit would go, group j to cluster `f j`: scratch bases and bindings. -/
def State.fitAt (s : State) (u : SavedUnit) (kib : Nat) (f : Nat → Nat) : Option (List (Nat × Nat × List (Nat × Nat))) :=
  (List.range u.groups.length).mapM fun j =>
    match s.findScratch (f j) kib (s.allocs (f j)), s.assign (f j) ((u.onGroup j).map Ctx.need) [] with
    | some a, some bs => some (f j, a, bs)
    | _, _ => none

/-- Where a saved unit fits on permitted clusters, chosen as R50 chooses for a new group or gang: per group its cluster, scratch base
and bindings. -/
def State.findHome (s : State) (u : SavedUnit) : Option (List (Nat × Nat × List (Nat × Nat))) :=
  match s.node? u.node, u.groups with
  | some n, (_, g) :: _ =>
    let fixed := (n.levelOf 3).bind fun l => (s.placedAt u.node l (n.boxNumber l g.box.lo)).bind fun c =>
      if s.clusterDropped c then none else some c
    let cands := s.candidates u.node n g.box.lo
    if (n.levelOf 2).isSome then
      let sets := ((List.range 32).map (4 * ·)).filter fun f => (List.range 4).all fun j => cands.contains (f + j)
      let free (f : Nat) : Nat := ((List.range 4).map fun j => s.freeCount (f + j) n.regs).foldl (· + ·) 0
      let sets := match fixed with | some f => [f] | none => sets
      (bestOf free (sets.filter fun f => (s.fitAt u n.scratchKib (f + ·)).isSome)).bind fun f => s.fitAt u n.scratchKib (f + ·)
    else
      let cands := match fixed with | some c => [c] | none => cands
      (bestOf (s.freeCount · n.regs) (cands.filter fun c => (s.fitAt u n.scratchKib fun _ => c).isSome)).bind fun c =>
        s.fitAt u n.scratchKib fun _ => c
  | _, _ => none

/-- A unit saved by the break of register growth fits somewhere: it is placed before any new group (R62). -/
def State.growthFirst (s : State) : Bool := s.work.saved.any fun u => u.growth && (s.findHome u).isSome

/-- Place a group by number, unless it is placed already (R33, R50); none when it has to wait. -/
def State.placeGroup (s : State) (node number : Nat) : Option (State × Nat) :=
  match s.groupNo node number, s.node? node with
  | some k, _ => if ((s.work.groups.look k).map (·.saved)).getD false then none else some (s, k)
  | none, none => none
  | none, some n =>
    if s.growthFirst then none
    else
    let item := (n.boxAt 0 number).lo
    let placed := match n.levelOf 2 with
      | some l => s.placeWhole node n l item
      | none =>
        let cands := s.candidates node n item
        let fits (c : Nat) : Bool := (s.findScratch c n.scratchKib (s.allocs c)).isSome
        let pick := match n.levelOf 3 with
          | some cl => match s.placedAt node cl (n.boxNumber cl item) with
            | some c => some c
            | none => bestOf (s.freeCount · n.regs) cands
          | none => bestOf (s.freeCount · n.regs) (cands.filter fits)
        match pick with
        | none => none
        | some c => match s.findScratch c n.scratchKib (s.allocs c) with
          | none => none
          | some a => some ((s.notePlaced node n item c).placeGang node n number (n.boxAt 0 number) [(number, c, a)])
    match placed with
    | none => none
    | some s => (s.groupNo node number).map (s, ·)

/-! Contexts -/

/-- Segments at placement (R75): G, S, W, D, K, F. SEG.F is disabled until `segld` loads it. -/
def State.segsFor (s : State) (n : Node) (group : Option Nat) : List Seg :=
  let g := { base := 0#64, limit := 0#32, en := true : Seg }
  let k : Seg := { base := dbl n.kbase, limit := word n.ksize, en := true }
  match group.bind (s.work.groups.look ·) with
  | none => [g, Seg.off, Seg.off, Seg.off, k, Seg.off]
  | some x =>
    [g, { base := dbl x.base, limit := word (x.kib * 1024), en := true }, { base := dbl (group.getD 0), limit := 0x100000#32, en := true },
     { base := dbl (match x.gang.bind (s.work.gangs.look ·) with | some y => y.number | none => x.number), limit := 0x100000#32, en := true }, k, Seg.off]

/-- Segments of a compositor program (R184): G, S over its cluster's store, K. -/
def compSegs (kbase ksize : Nat) : List Seg :=
  [{ base := 0#64, limit := 0#32, en := true }, { base := 0#64, limit := 0x1000000#32, en := true }, Seg.off, Seg.off,
   { base := dbl kbase, limit := word ksize, en := true }, Seg.off]

/-- A path on all slots of a mask at a header. -/
def Path.at (id : Nat) (mask : Word) (pc : Dbl) (entry : Bool) : Path :=
  { id := id, mask := mask, pc := pc, came := pc, age := 0, start := 0, stack := [], ctr := 0, wait := .none, deliver := none, entry := entry }

/-- A context without registers, at a binding. -/
def Ctx.fresh (uid : Nat) (kind : CtxKind) (node : Nat) (n : Node) (cluster lane bind : Nat) (box : Box) (map : List Nat) (pc : Dbl) : Ctx :=
  { uid := uid, kind := kind, node := node, cluster := cluster, lane := lane, bind := bind, tenant := n.tenant, priv := n.priv, box := box,
    base := 0, launched := 1#32, exited := 0#32, warpNo := 0, group := none, map := map, s := [], p := [], forms := [], sp := [],
    x := [], d := [], segs := [], paths := [Path.at 0 1#32 pc true], sb := List.replicate 6 0, inflight := [], log := [], astat := 0#32,
    thand := 0#64, trap := none, dead := [], joinAt := [], joined := none, alone := false, must := false, part := none, rest := none,
    pre := .none, stopped := false }

/-- Zero the rows of granules of a lane (R71). -/
def State.zeroGranules (s : State) (cluster lane : Nat) (gs : List Nat) : State :=
  gs.foldl (fun s g => s.zeroStore cluster (lane * 0x8000 + g * 1024) 1024) s

/-- Take `regs` granules of a lane for a new binding: the map, zero-filled. -/
def State.takeGranules (s : State) (cluster lane regs : Nat) : List Nat × State :=
  let gs := (s.freeGranules cluster lane).take regs
  (gs, s.zeroGranules cluster lane gs)

end Sys2Proof.Machine
end

