-- ==== Sys2Proof/Machine/Groups.lean ====
section
/-! DEFINITION. Barriers of groups and gangs, named barriers, barrier objects, chain control blocks, ends of slots, and waits of
paths (R41, R42, R52-R54, R84-R86, R275, R304-R307, R335, R340, R366). -/

namespace Sys2Proof.Machine

/-! Group and gang barriers (R304) -/

/-- Every context that holds items: on bindings, in limb queues and in save areas. -/
def State.holders (s : State) : List Ctx :=
  s.work.ctxs.map (·.2) ++ s.waiting

/-- A context holds an item of a box that has neither arrived nor exited. -/
def State.outstanding (s : State) (node : Nat) (box : Box) (arrived : List Nat) (c : Ctx) : Bool :=
  if c.node != node || c.live == 0#32 then false
  else if c.symbolic then (s.partBox c).meets box && decide (c.rest.getD 0 < (s.partBox c).volume)
  else (slotsOf c.live).any fun t => box.holds (s.itemOf c t) && !arrived.contains (s.itemNo c t)

/-- The current generation of a barrier is complete. -/
def State.allArrived (s : State) (node : Nat) (box : Box) (arrived : List Nat) : Bool :=
  !s.holders.any (s.outstanding node box arrived)

/-- Test a group's generation; when it completes, G rises and no item has arrived in the next. With no arrival nobody waits. -/
def State.testGroup (s : State) (k : Nat) : State :=
  match s.work.groups.look k with
  | none => s
  | some g =>
    if !g.arrived.isEmpty && s.allArrived g.node g.box g.arrived then
      s.changeGroup k fun g => { g with gen := g.gen + 1#32, arrived := [] }
    else s

def State.testGang (s : State) (k : Nat) : State :=
  match s.work.gangs.look k with
  | none => s
  | some g =>
    if !g.arrived.isEmpty && s.allArrived g.node g.box g.arrived then
      s.changeGang k fun g => { g with gen := g.gen + 1#32, arrived := [] }
    else s

/-- Items arrive in the current generation of a group barrier, of a gang barrier. -/
def State.arriveGroup (s : State) (k : Nat) (items : List Nat) : State :=
  (s.changeGroup k fun g => { g with arrived := nubNat (g.arrived ++ items) }).testGroup k
def State.arriveGang (s : State) (k : Nat) (items : List Nat) : State :=
  (s.changeGang k fun g => { g with arrived := nubNat (g.arrived ++ items) }).testGang k

/-- Group and gang of a context. -/
def State.groupOf (s : State) (c : Ctx) : Option Group := c.group.bind (s.work.groups.look ·)
def State.gangKey (s : State) (c : Ctx) : Option Nat := (s.groupOf c).bind (·.gang)
def State.gangOf (s : State) (c : Ctx) : Option Gang := (s.gangKey c).bind (s.work.gangs.look ·)

/-- An exit may complete a generation of every barrier whose boxes it touches. -/
def State.testBarriers (s : State) (node : Nat) (box : Box) : State :=
  let s := ((s.work.groups.filter fun (_, g) => g.node == node && g.box.meets box).map (·.1)).foldl State.testGroup s
  ((s.work.gangs.filter fun (_, g) => g.node == node && g.box.meets box).map (·.1)).foldl State.testGang s

/-! Ends of slots (R42, R282) -/

/-- Slots of a context end. With its last live slot its core drains every line that holds bytes of its stores. -/
def State.exitSlots (s : State) (k : Nat) (mask : Word) : State :=
  match s.ctx? k with
  | none => s
  | some c =>
    let s := s.changeCtx k fun c =>
      let paths := (c.paths.map fun p => { p with mask := p.mask &&& ~~~mask }).filter fun p => p.mask != 0#32
      { c with exited := c.exited ||| mask, paths := paths }
    let done := c.live &&& ~~~mask == 0#32
    let s := if done then s.drainWhere fun m => m.core == c.core && m.owners.contains c.uid else s
    s.testBarriers c.node (s.partBox c)

/-! Chain control blocks (R52, R54) -/

def State.ccbAt (s : State) (chain off : Nat) : Nat := s.hub.chtbl.toNat + 64 * chain + off
def State.ccb (s : State) (chain off : Nat) : Nat := s.mem.phys.num (s.ccbAt chain off) 8
def State.setCcb (s : State) (chain off x : Nat) : State :=
  s.deviceWrite (s.ccbAt chain off) 8 x
def State.chainBase (s : State) (c : Nat) : Nat := s.ccb c 0
def State.chainCtl (s : State) (c : Nat) : Nat := s.ccb c 8
def State.chainTail (s : State) (c : Nat) : Nat := s.ccb c 0x10
def State.chainHead (s : State) (c : Nat) : Nat := s.ccb c 0x18
def State.chainSeq (s : State) (c : Nat) : Nat := s.ccb c 0x20
def State.chainTenant (s : State) (c : Nat) : Nat := s.chainCtl c / 2 ^ 12 % 16
def State.chainPrv (s : State) (c : Nat) : Bool := s.chainCtl c / 2 ^ 11 % 2 == 1
def State.chainDevice (s : State) (c : Nat) : Bool := s.chainCtl c / 2 ^ 8 % 2 == 1
def State.chainRing (s : State) (c : Nat) : Nat := 2 ^ (s.chainCtl c % 64)

/-! Barrier objects (R84-R86) -/

def State.objExp (s : State) (k : Nat) : Nat := s.mem.store.num k 4
def State.objArr (s : State) (k : Nat) : Nat := s.mem.store.num (k + 4) 4
def State.objCnt (s : State) (k : Nat) : Nat := s.mem.store.num (k + 8) 2
def State.objPhase (s : State) (k : Nat) : Bool := (s.mem.store.byte (k + 10)).getLsbD 0
def State.objErr (s : State) (k : Nat) : Nat := (s.mem.store.byte (k + 11)).toNat
/-- The object has flipped since serial number `n` was the next one (R86). -/
def State.flippedSince (s : State) (k n : Nat) : Bool := match s.eng.flips.look k with | some f => decide (n ≤ f) | none => false
def State.pokeStore (s : State) (a n x : Nat) : State := { s with mem := { s.mem with store := s.mem.store.pokeNum a n x } }

/-- The recorder, KIND, CTX and tenant under which an arrival or operation is recorded. -/
structure Source where
  recorder : Nat
  tenant : Nat
  kind : Nat
  ctx : Nat
  deriving DecidableEq, Repr
def Ctx.source (c : Ctx) : Source := { recorder := c.core, tenant := c.tenant, kind := c.recKind, ctx := c.recCtx }

/-- The object flips (R85, R86): PHASE turns, ARR and CNT go to zero, ERR takes bits; SEND for the flip. -/
def State.flipObj (s : State) (f : Source) (k err : Nat) : State :=
  let e := s.objErr k ||| err
  let p := if s.objPhase k then 0 else 1
  let s := (((s.pokeStore (k + 4) 4 0).pokeStore (k + 8) 2 0).pokeStore (k + 10) 1 p).pokeStore (k + 11) 1 e
  let (n, s) := s.fresh
  let s := { s with eng := { s.eng with flips := s.eng.flips.put k n } }.unheard (flipKey k)
  s.send f.recorder f.tenant f.kind f.ctx .flip (flipKey k)

/-- An arrival of `n` bytes (R85). -/
def State.arriveObj (s : State) (f : Source) (k n : Nat) : State :=
  let sum := s.objArr k + n
  let cnt := min 0xFFFF (s.objCnt k + 1)
  if s.objExp k ≤ sum then s.flipObj f k (if s.objExp k < sum then 2 else 0)
  else (s.pokeStore (k + 4) 4 sum).pokeStore (k + 8) 2 cnt

/-- `binit` (R85, R275): EXP, ARR, CNT and ERR; PHASE stays. Whatever the scratch held, PHASE is 0 or 1 and the reserved bytes 12-15 read as
zero from then on (R8, Table 4.5, notes/assumptions/95.md). -/
def State.initObj (s : State) (f : Source) (k exp : Nat) : State :=
  let phase := if s.objPhase k then 1 else 0
  let s := ((s.pokeStore k 4 exp).pokeStore (k + 4) 4 0).pokeStore (k + 8) 2 0
  let s := ((s.pokeStore (k + 10) 1 phase).pokeStore (k + 11) 1 0).pokeStore (k + 12) 4 0
  if exp = 0 then s.flipObj f k 0 else s

/-- An operation ends at its object through failure (R86): FAIL, and LINK for a lost link; a flip only when none came since. -/
def State.failObj (s : State) (f : Source) (r : Option ObjRef) (link : Bool) : State :=
  match r with
  | none => s
  | some o =>
    let bits := if link then 5 else 1
    if s.flippedSince o.key o.issued then s.pokeStore (o.key + 11) 1 (s.objErr o.key ||| bits) else s.flipObj f o.key bits

def State.objRef (s : State) (k : Nat) : ObjRef := { key := k, issued := s.serial }

/-- The group whose scratch holds a store byte. -/
def State.scratchGroup (s : State) (key : Nat) : Option (Nat × Group) :=
  s.work.groups.find? fun (_, g) => !g.freed && !g.saved && decide (storeKey g.cluster g.base ≤ key) && decide (key < storeKey g.cluster g.base + g.kib * 1024)

/-- An object lies in the scratch of the context's own gang (R209). -/
def State.ownScratch (s : State) (c : Ctx) (key : Nat) : Bool :=
  match s.scratchGroup key, s.groupOf c with
  | some (_, g), some h => g.gang == h.gang
  | _, _ => false

/-- A compositor observes the flip of an object in a gang's scratch: the gang is relaunchable no more (R209). -/
def State.endScratchGang (s : State) (key : Nat) : State :=
  match s.scratchGroup key with
  | some (_, g) => match g.gang with | some k => s.changeGang k fun x => { x with relaunchable := false } | none => s
  | none => s

/-! Waits of paths -/

/-- Operations of a cluster's matrix unit that remain (R335). -/
def Matrix.fresh : Matrix :=
  { queue := [], mprog := 0#64, started := false, rowBand := 0, from_ := 0, finished := false, trapped := false, held := false }
def State.matrix (s : State) (cluster : Nat) : Matrix := (s.eng.matrices.look cluster).getD Matrix.fresh
def State.setMatrix (s : State) (cluster : Nat) (f : Matrix → Matrix) : State :=
  { s with eng := { s.eng with matrices := s.eng.matrices.put cluster (f (s.matrix cluster)) } }

/-- What a path waits for is there. -/
def State.waitOver (s : State) (c : Ctx) (p : Path) : Bool :=
  match p.wait with
  | .none => true
  | .groupBar g => match s.groupOf c with | some x => x.gen != g | none => true
  | .gangBar g => match s.gangOf c with | some x => x.gen != g | none => true
  | .named id g => match s.groupOf c with
    | some x => (match x.named.look id with | some b => b.gen | none => 0#32) != g
    | none => true
  | .object k ph _ _ _ => s.objPhase k != ph
  | .chain ch q _ _ => decide (q ≤ s.chainSeq ch)
  | .matrix n => decide ((s.matrix c.cluster).queue.length ≤ n)
  | .grow .. | .halting | .joining | .fetching _ | .saving => false

/-- The path waits on a group, gang or named barrier that has not completed (R34). -/
def State.onBarrier (s : State) (c : Ctx) (p : Path) : Bool :=
  match p.wait with
  | .groupBar _ | .gangBar _ | .named _ _ => !s.waitOver c p
  | .none | .object .. | .chain .. | .matrix _ | .grow .. | .halting | .joining | .fetching _ | .saving => false

/-- Write a result at every slot of a mask. -/
def Ctx.writesAt (c : Ctx) (d : BitVec 8) (n : Nat) (slots : Word) (x : Dbl) : List RegWrite :=
  if c.isComp then [.x d.toNat x]
  else if 0xC0 ≤ d.toNat then regWrites 0 n d (x.setWidth 128)
  else (slotsOf slots).flatMap fun t => regWrites t n d (x.setWidth 128)

/-- A path sees that an object has flipped: the acquire, and of a compositor's the end of relaunch (R86, R209). -/
def State.seeFlip (s : State) (c : Ctx) (key : Nat) (gangScope : Bool) : State :=
  let s := s.acquireCluster c.cluster (if gangScope then 2 else 3)
  if c.isComp then s.endScratchGang key else s

/-- The wait of a path ends: its acquire, and the result it waited for. -/
def State.finishWait (s : State) (k id : Nat) : State :=
  match s.ctx? k with
  | none => s
  | some c => match c.path? id with
    | none => s
    | some p =>
      let s := s.changeCtx k fun c => c.changePath id fun p => { p with wait := .none }
      match p.wait with
      | .none | .grow .. | .halting | .joining | .fetching _ | .saving => s
      | .groupBar _ | .named _ _ => s.acquireCluster c.cluster 1
      | .gangBar _ => s.acquireCluster c.cluster 2
      | .matrix _ => s.acquireCluster c.cluster 3
      | .object key _ gangScope d slots =>
        let s := (s.seeFlip c key gangScope).recvFlip c (flipKey key)
        s.commitWrites k (c.writesAt d 1 slots (dbl (s.objErr key)))
      | .chain ch _ d slots =>
        (s.acquireCluster c.cluster 5).commitWrites k (c.writesAt d 2 slots (dbl (s.chainSeq ch)))

end Sys2Proof.Machine
end

