-- ==== Sys2Proof/Machine/Issue.lean ====
section
/-! DEFINITION. Issue: words computed by a pure function, fetching a clause, materialising and grafting, the choice of binding and
path, and the start of a clause (R25-R34, R36-R39, R57, R162, R237, R261, R320, R375). -/

namespace Sys2Proof.Machine

/-! Words computed by a pure function of their operands -/

/-- The context materialises: staged forms are discarded and the clause runs concretely from its first word (R32). -/
def State.makeConcrete (s : State) (u : Issuer) : State × Ending :=
  ((s.changeCtx u.key fun c => { c with must := true }).changeLane (u.key / 8) fun l => { l with clause := none }, .left)

/-- Operands of a word at a slot. -/
def State.args (s : State) (u : Issuer) (i : Instr) (t : Nat) : Args :=
  { cls := u.cls, a := s.argA u i t, b := s.argB u i t, c := s.argC u i t, d := if i.readsD then s.argD u i t else 0#64 }

/-- Writes of a result at one slot (or once, for an s or x register). -/
def Issuer.resultAt (u : Issuer) (i : Instr) (t : Nat) (r : Dbl) : List RegWrite :=
  match i.dKind with
  | .predDst => [.p t i.predCode.toNat (r.getLsbD 0)]
  | o => u.writes [t] o i.codes.1 (r.setWidth 128)

/-- Body of a word computed by a pure function: per slot, or once in a trunk or limb (R27, R36, R243). -/
def aluBody (i : Instr) (f : Args → Res) (s : State) (u : Issuer) (m : Word) : State × Ending :=
  if u.symbolic then
    match u.sguard i, (u.ctx.sym u.clause.stage).alu i f with
    | .uni b, some (ws, fl) => (s, if b then .on ws fl none else .done)
    | .uni _, none | .range .., _ => s.makeConcrete u
  else
    let rs := (u.actSlots i m).map fun t => (t, f (s.args u i t))
    (s, .on (rs.flatMap fun (t, r) => u.resultAt i t r.val) (rs.foldl (fun acc (_, r) => acc ||| r.flags) 0#32) none)

/-- Issue a word that is computed by a pure function. -/
def State.issueAlu (s : State) (i : Instr) (f : Args → Res) : Host.Outcome State Fault Refusal := s.issueWord i (aluBody i f)

/-! Fetching (R237, R162, R261) -/

/-- What fetching gives: words, a frame that is to be scanned first, or a fault. -/
inductive Fetched where
  | words (ws : List Dbl)
  | scan (frame : Nat)
  | fault (f : AFault)
  deriving DecidableEq, Repr

/-- Fetch one word for a context. A page of another package has no frame that this package's scanner could lock: NOEXEC. -/
def State.fetchWord (s : State) (q : Requester) (a : Nat) : State × Fetched :=
  let (s, r) := s.globalTarget q .fetch false (a : Int) 8
  match r with
  | .error f => (s, .fault f)
  | .ok t =>
    let pas := t.bytes.filterMap fun l => match l with | .phys pa => some pa | _ => none
    if pas.length < 8 then (s, .fault { code := 0x1D, addr := a, bva := 0, page := a })
    else match pas.find? fun pa => !s.scanned (pa / 65536) with
      | some pa => (s, .scan (pa / 65536))
      | none =>
        let s := if q.unit.isSome then (nubNat (pas.map (· / 32))).foldl State.touchHome s else s
        (s, .words [BitVec.ofNat 64 (leNat (pas.map s.physByte))])

/-- Fetch `n` words in ascending order. -/
def State.fetchWords (s : State) (q : Requester) : Nat → Nat → List Dbl → State × Fetched
  | 0, _, acc => (s, .words acc.reverse)
  | n + 1, a, acc =>
    let (s, r) := s.fetchWord q a
    match r with
    | .words (w :: _) => s.fetchWords q n (a + 8) (w :: acc)
    | .words [] => (s, .words acc.reverse)
    | r => (s, r)

/-- The header at an address, checked as the target of a transfer (R261). -/
inductive Target261 where
  | header (h : Dbl) (hdr : Header)
  | bad
  | scan (frame : Nat)
  | fault (f : AFault)
  deriving DecidableEq, Repr

/-- The target is fetched first (of a misaligned one, the aligned word it lies in), then it is judged. -/
def State.fetchHeader (s : State) (q : Requester) (k : Cls) (pc : Dbl) : State × Target261 :=
  let (s, r) := s.fetchWord q (pc.toNat / 8 * 8)
  match r with
  | .fault f => (s, .fault f)
  | .scan f => (s, .scan f)
  | .words ws =>
    if pc.toNat % 8 ≠ 0 then (s, .bad)
    else match parseHeader (ws.headD 0#64) with
      | some h => if h.klass = some k then (s, .header (ws.headD 0#64) h) else (s, .bad)
      | none => (s, .bad)

/-- The header at a pc, where one can be read without a fault. -/
def State.peekHeader (s : State) (c : Ctx) (pc : Dbl) : Option Header :=
  match (s.fetchHeader c.requester.peek c.cls pc).2 with
  | .header _ h => some h
  | .bad | .scan _ | .fault _ => none

/-- A fetch that a fault unit, the driver or the scanner is to resolve holds the path; none: the fault reaches software. -/
def State.parkFetch (s : State) (c : Ctx) (id : Nat) (f : Fetched) : Option State :=
  let hold (fr : Option Nat) (s : State) : State := s.changeCtx c.key fun c => c.changePath id fun p => { p with wait := .fetching fr }
  match f with
  | .words _ => none
  | .scan fr => some (hold (some fr) { s with eng := { s.eng with scans := if s.eng.scans.contains fr then s.eng.scans else s.eng.scans ++ [fr] } })
  | .fault f =>
    match s.resolver c.tenant f with
    | .software => none
    | .transit => some s
    | .device => some (hold none (s.parkFault (.fetch c.key id) c.tenant 3 f false))
    | .driver => some (hold none (s.parkFault (.fetch c.key id) c.tenant 3 f true))

/-! Materialisation (R33, R34) -/

/-- A predicate at an item. -/
def SPred.at_ (p : SPred) (i : Quad) : Bool :=
  match p with
  | .uni b => b
  | .range k lo hi out => (decide (lo ≤ nth i.list k 0) && decide (nth i.list k 0 ≤ hi)) != out

/-- A v register of a trunk or limb at an item (R25). -/
def Ctx.rowAt (c : Ctx) (n : Nat) (i : Quad) : Word :=
  match c.forms.formAt n with
  | .form f => (f.eval i).setWidth 32
  | .high f => (f.eval i).extractLsb' 32 32

/-- Slots 0 to n - 1. -/
def firstSlots (n : Nat) : Word := maskOf (List.range n)

/-- A warp (or leaf warp) of a part, from item `r` on, at a binding (R33, R34). The group's age is the time of its first warp (R61). A
group whose limbs round up to more than 32 warps gets numbers from 32 on: the model's choice (notes/assumptions/104.md). -/
def State.makeWarp (s : State) (c : Ctx) (gk r lane bind cluster : Nat) (map : List Nat) (leaf : Bool) : State :=
  let box := s.partBox c
  let n := min 32 (box.volume - r)
  let (uid, s) := s.fresh
  let no := match s.work.groups.look gk with | some g => g.nextWarp | none => 0
  let age (g : Group) : Nat := if g.nextWarp = 0 then s.fCyc else g.age
  let slots := List.range n
  let item (t : Nat) : Quad := box.item (r + t)
  let old := c.paths.headD (Path.at 0 1#32 0#64 false)
  let path (id : Nat) (m : Word) : Path := { old with id := id, mask := m, age := 0, ctr := 0, wait := .none }
  let paths := if leaf then slots.map fun t => path t (1#32 <<< t) else [path 0 (firstSlots n)]
  let preds := (List.range 7).map fun k => (k, maskOf (slots.filter fun t => (c.sp.spredAt k).at_ (item t)))
  let log := c.log.map fun (e, x) =>
    (e, { x with reqs := slots.flatMap fun t => x.reqs.map fun q => { q with slot := t }, active := firstSlots n, guarded := firstSlots n })
  let segs := match s.node? c.node with | some nd => s.segsFor nd (some gk) | none => c.segs
  let w : Ctx := { c with
    uid := uid, kind := if leaf then .leaf else .warp, cluster := cluster, lane := lane, bind := bind, base := r,
    launched := firstSlots n, exited := 0#32, warpNo := no, group := some gk, map := map, p := preds, forms := [], sp := [],
    segs := segs, paths := paths, log := log, dead := c.dead, joinAt := [], joined := none, alone := false, must := false,
    part := none, rest := none }
  let s := s.zeroGranules cluster lane map
  let s := s.putCtx w
  let rows := (List.range (8 * map.length)).flatMap fun k => slots.map fun t => (t, k, c.rowAt k (item t))
  let s := (rows.filter fun x => x.2.2 != 0#32).foldl (fun s x => s.writeV w x.1 x.2.1 x.2.2) s
  s.changeGroup gk fun g => { g with nextWarp := g.nextWarp + 1, age := age g }

/-- Warps on the free bindings of a cluster, from item `r` on; the first item without a warp. -/
def State.makeWarps (s : State) (c : Ctx) (gk cluster regs : Nat) : Nat → Nat → State × Nat
  | 0, r => (s, r)
  | n + 1, r =>
    if (s.partBox c).volume ≤ r then (s, r)
    else match s.freeBinding cluster regs with
      | none => (s, r)
      | some (lane, bind) =>
        let map := (s.freeGranules cluster lane).take regs
        (s.makeWarp c gk r lane bind cluster map false).makeWarps c gk cluster regs n (r + 32)

/-- A limb without a binding waits in its cluster's queue (R30). -/
def State.queueLimb (s : State) (c : Ctx) : State := { s with work := { s.work with limbQueue := s.work.limbQueue ++ [c] } }

/-- The group of a part is placed, if need be, and its items get warps; what is left runs in leaf mode on the limb's own binding
when `own`, or waits in the queue. Answers whether the own binding was used, the warps made, and the items run or left as leaf. -/
def State.placePart (s : State) (c : Ctx) (own : Bool) : State × Bool × Nat × Nat :=
  match c.part, s.node? c.node with
  | some no, some n =>
    match s.placeGroup c.node no with
    | none => (s.queueLimb c, false, 0, 0)
    | some (s, gk) =>
      let cluster := match s.work.groups.look gk with | some g => g.cluster | none => c.cluster
      let r := c.rest.getD 0
      let vol := (s.partBox c).volume
      let (s, r') := s.makeWarps c gk cluster n.regs 32 r
      let warps := (r' - r + 31) / 32
      if vol ≤ r' then (s, false, warps, 0)
      else if own && cluster == c.cluster then
        let s := s.makeWarp c gk r' c.lane c.bind cluster c.map true
        let s := if r' + 32 < vol then s.queueLimb { c with rest := some (r' + 32) } else s
        (s, true, warps, vol - r')
      else (s.queueLimb { c with cluster := cluster, rest := some r' }, false, warps, vol - r')
  | _, _ => (s, false, 0, 0)

/-- A trunk or limb materialises (R33): its box divides along group boxes, and its own binding is freed when no leaf warp runs there. -/
def State.materialise (s : State) (k : Nat) : State :=
  match s.ctx? k with
  | none => s
  | some c => match s.node? c.node with
    | none => s
    | some n =>
      let parts := match c.part with | some g => [g] | none => n.groupsIn c.box
      let limb (g : Nat) : Ctx := { c with kind := .limb, part := some g, rest := some (c.rest.getD 0), must := true }
      let (s, used, warps, leaf) := parts.foldl (fun (s, used, ws, ls) g =>
        let (s, u, w, l) := s.placePart (limb g) (!used)
        (s, used || u, ws + w, ls + l)) (s.clearLatch (k / 8), false, 0, 0)
      let s := s.galleyCtx c 2 0x03#8 (dbl (leaf % 2 ^ 32 * 2 ^ 16 + warps % 2 ^ 16))
      if used then s else s.dropCtx k

/-! Grafts (R31, R375) -/

/-- The axis along which two boxes abut when they are equal in every other. -/
def abutAxis (a b : Box) : Option Nat :=
  match (List.range 4).filter fun k => nth a.los k 0 != nth b.los k 0 || nth a.his k 0 != nth b.his k 0 with
  | [k] => if nth a.his k 0 + 1 = nth b.los k 0 ∨ nth b.his k 0 + 1 = nth a.los k 0 then some k else none
  | _ => none

/-- Two predicates that a graft accepts, as one. -/
def graftPred (k : Nat) (ba bb : Box) (a b : SPred) : Option SPred :=
  if a = b then some a
  else match a, b with
    | .uni true, .uni false => some (.range k (nth ba.los k 0) (nth ba.his k 0) false)
    | .uni false, .uni true => some (.range k (nth bb.los k 0) (nth bb.his k 0) false)
    | _, _ => none

/-- What a limb still has to receive: the results in flight, the logged words, and what is held or to be delivered. -/
def Ctx.pending (c : Ctx) : List (Nat × List RegWrite × Word × Option Nat) × Table LogEntry × Option TrapState × List (Option TrapState) :=
  (c.inflight.map fun e => (e.sb, e.writes, e.flags, e.poison), c.log.map fun (n, e) => (n, { e with serial := 0, path := 0 }), c.trap,
   c.paths.map (·.deliver))

/-- The axis along which two limbs graft (R31); none: they do not. A register that only one of the limbs has freed must be equal: the
model's reading where R31 is open (notes/assumptions/87.md). Limbs with words in flight graft when the same results are on their way
to both: a result that one of them alone awaits would reach the other's items, which no graft changes (notes/assumptions/13.md). -/
def graftAxis (a b : Ctx) : Option Nat :=
  let dead (c : Ctx) (n : Nat) : Bool := (c.dead.look n).isSome
  let rows := (List.range (8 * a.map.length)).all fun n =>
    (dead a n && dead b n) || a.forms.formAt n == b.forms.formAt n
  let sregs := (List.range 64).all fun n => a.readS n == b.readS n
  match abutAxis a.box b.box with
  | none => none
  | some k =>
    let preds := (List.range 7).all fun p => (graftPred k a.box b.box (a.sp.spredAt p) (b.sp.spredAt p)).isSome
    if rows && sregs && preds && a.thand == b.thand && a.map.length == b.map.length && a.pending == b.pending && a.sb == b.sb then some k else none

/-- Payload of SPLIT and GRAFT: an axis and an interval (Table 11.6). -/
def axisPayload (k lo hi : Nat) : Dbl := dbl (k * 2 ^ 62 + lo % 2 ^ 31 * 2 ^ 31 + hi % 2 ^ 31)

/-- The limb that two limbs make; `a` has the lower origin and keeps its binding. -/
def Ctx.graft (a b : Ctx) (k : Nat) : Ctx :=
  let box := a.box.slice k (nth a.box.los k 0) (nth b.box.his k 0)
  let sp := (List.range 7).map fun p => (p, (graftPred k a.box b.box (a.sp.spredAt p) (b.sp.spredAt p)).getD (.uni false))
  let since := b.joinAt.foldl (fun t e => t.put e.1 (min e.2 ((t.look e.1).getD e.2))) a.joinAt
  { a with kind := .limb, box := box, sp := sp, astat := a.astat ||| b.astat, joinAt := since, must := a.must || b.must,
           dead := a.dead.filter fun e => (b.dead.look e.1).isSome,
           paths := a.paths.map fun p => { p with entry := false } }

/-- The pc of a trunk or limb, and whether it waits at a join point. -/
def Ctx.pcOf (c : Ctx) : Dbl := match c.paths with | p :: _ => p.pc | [] => 0#64
def Ctx.atJoin (c : Ctx) : Bool := match c.paths with | p :: _ => p.wait == .joining | [] => false

/-- A limb that waits at the same join point and grafts with this one. -/
def State.partner (s : State) (c : Ctx) : Option Ctx :=
  (s.work.ctxs.find? fun (_, x) => x.uid != c.uid && x.symbolic && !x.stopped && x.node == c.node && x.cluster == c.cluster
    && x.atJoin && x.pcOf == c.pcOf && (graftAxis c x).isSome).map (·.2)

/-- Graft a waiting limb with every partner that it finds; the key of the limb that results. -/
def State.graftAll (s : State) : Nat → Nat → State × Nat
  | 0, k => (s, k)
  | fuel + 1, k =>
    match s.ctx? k with
    | none => (s, k)
    | some c => match s.partner c with
      | none => (s, k)
      | some x => match graftAxis c x with
        | none => (s, k)
        | some ax =>
          let low := decide (nth c.box.los ax 0 < nth x.box.los ax 0)
          let g := if low then c.graft x ax else x.graft c ax
          let gone := if low then x else c
          let s := ((s.dropFaults fun y => y.uid == gone.uid).dropCtx gone.key).putCtx g
          let s := s.galleyCtx g 2 0x02#8 (axisPayload ax (nth g.box.los ax 0) (nth g.box.his ax 0))
          s.graftAll fuel g.key

/-- Another limb of the launch on the cluster is live and does not wait at a join point. What is left of a materialised limb, queued
for warps, is no limb any more: the model's choice where R31 is open (notes/assumptions/103.md). -/
def State.othersRun (s : State) (c : Ctx) : Bool :=
  let runs (x : Ctx) : Bool := x.symbolic && !x.stopped && x.node == c.node && x.cluster == c.cluster && x.rest.isNone
  (s.work.ctxs.any fun (_, x) => x.uid != c.uid && runs x && x.live != 0#32 && !x.atJoin) || s.work.limbQueue.any runs

/-- A limb at a join point need wait no longer. -/
def State.joinOver (s : State) (c : Ctx) : Bool := c.alone || !s.othersRun c || (s.partner c).isSome

/-! Faults and traps that reach a path at a clause boundary (R148, R59, R194) -/

/-- The context belongs to a unit that is being pre-empted through its handler (R59). -/
def State.underPreemption (s : State) (c : Ctx) : Bool :=
  match c.group with
  | some g => s.work.units.any fun u => !u.forced && (s.gangMembers u.group).contains g
  | none => false

/-- PREEMPT has arrived at a context: its node has a handler, and it has not taken the trap yet. -/
def State.preemptPending (s : State) (c : Ctx) : Bool :=
  c.pre == .none && s.underPreemption c && s.phandler c != 0#64 && !c.symbolic
/-- PREEMPT is due on a context: no trap is held (R375). -/
def State.preemptDue (s : State) (c : Ctx) : Bool := s.preemptPending c && c.trap.isNone

/-- After `psig` a warp issues nothing further until the save (R353). -/
def Ctx.declared (c : Ctx) : Bool := match c.pre with | .declared _ _ => true | .none | .handler => false

/-- A path stands at a clause boundary where something is to be delivered. A clause that is being resumed is no boundary (R241): there a
failure to fetch it again is taken, and nothing else. -/
def State.deliverable (s : State) (c : Ctx) (p : Path) : Bool :=
  let here := match p.wait with
    | .none | .joining => true
    | .matrix _ | .halting => p.msparse.isSome
    | _ => s.waitOver c p
  let boundary := p.start == 0 && p.skip == 0
  here && (p.deliver.isSome || (boundary && (p.msparse.isSome || (c.pendingLog p.id).isSome || s.preemptDue c)))

/-- The failing word of a frame at PA `pa` as an address in the frame fetched through `pc` (R162, R258). -/
def badCodeAt (pc pa : Dbl) : Dbl := dbl (pc.toNat / 65536 * 65536 + pa.toNat % 65536)

/-- A PREEMPT trap reaches a context of a unit, or would but for the trap held there (R375): the time of the first is kept (R59). -/
def State.firstPreempt (s : State) (c : Ctx) : State :=
  let mine (u : PreUnit) : Bool := match c.group with | some g => (s.gangMembers u.group).contains g | none => false
  let units := s.work.units.map fun u => if mine u then { u with since := some (u.since.getD s.aCyc) } else u
  s.setWork { s.work with units := units }

/-- Deliver what is due: a trap of the matrix unit, a failed fetch, else the oldest logged fault, else PREEMPT. A fetch that failed while
a matrix trap is delivered is made again after the handler. -/
def State.deliverTo (s : State) (k id : Nat) : State :=
  match s.ctx? k with
  | none => s
  | some c => match c.path? id with
    | none => s
    | some p =>
      let s := s.changeCtx k fun c => c.changePath id fun p => { p with deliver := none, msparse := if p.start = 0 ∧ p.skip = 0 then none else p.msparse }
      match (if p.start = 0 ∧ p.skip = 0 then p.msparse else none), p.deliver, c.pendingLog id with
      | some t, _, _ => s.takeTrap k id { t with ret := match p.wait with | .matrix _ | .halting => p.came | _ => p.pc }
      | none, some t, _ =>
        let t := if t.code = 0x1E#8 then { t with addr := badCodeAt p.pc t.addr } else t
        -- an ENTRY or handler entry has no handler to receive a fault of its fetch (R261)
        if p.entry && 0x10 ≤ t.code.toNat then (s.trapRecord c t).endLaunch c.node (completionOf t.code) (detailOf t.code t.addr)
        else s.takeTrap k id { t with ret := p.pc, start := p.start, skip := p.skip }
      | none, none, some (n, e) =>
        let s := s.changeCtx k fun c => { c with log := c.log.put n { e with state := .held } }
        s.takeTrap k id (e.trapState n p.pc)
      | none, none, none =>
        let s := (s.changeCtx k fun c => { c with pre := .handler }).firstPreempt c
        s.takeTrap k id { code := 0x07#8, pc := p.pc, word := 0#5, addr := 0#64, bva := 0#64, mask := if c.isComp then 0#32 else p.mask,
                          log := 0xF#4, ret := p.pc }

/-! Which path and which binding (R39, R57) -/

/-- Every scoreboard that WAIT names is zero; a resumed clause does not test it again (R241). -/
def Ctx.waitMet (c : Ctx) (p : Path) (h : Header) : Bool :=
  p.start != 0 || (List.range 6).all fun k => !h.wait.getLsbD k || nth c.sb k 0 == 0

/-- A logged word that the context owes since its resumption has not replayed (R152); one that has reached software waits for its
handler and not the handler for it. -/
def Ctx.owes (c : Ctx) : Bool := c.log.any fun (_, e) => c.owed.contains e.serial && (e.state == .parked || e.state == .resolved)

/-- The compositor's program is under pre-emption: it starts no clause (R186). -/
def State.compPreempted (s : State) (c : Ctx) : Bool := c.isComp && s.work.units.any fun u => u.node == c.node

/-- A path is ready: something is to be delivered, or it waits for nothing and the WAIT of its clause is met. A context that is to
materialise is ready once its scoreboards are zero (R32). -/
def State.pathReady (s : State) (c : Ctx) (p : Path) : Bool :=
  !c.stopped && !c.declared && !c.owes && !s.compPreempted c && p.ctr == 0 && (s.deliverable c p ||
    ((match p.wait with | .joining => s.joinOver c | _ => s.waitOver c p) && (!c.must || c.sb.all (· == 0)) &&
      match s.peekHeader c p.pc with | some h => c.waitMet p h | none => true))

/-- Lowest slot of a path. -/
def Path.low (p : Path) : Nat := (slotsOf p.mask).headD 32

/-- Which of two ready paths issues: lowest pc, then lowest slot; in leaf mode the lowest slot. -/
def Path.before (leaf : Bool) (a b : Path) : Bool :=
  if leaf then decide (a.low < b.low) else decide (a.pc.toNat < b.pc.toNat ∨ (a.pc.toNat = b.pc.toNat ∧ a.low < b.low))

def firstPath (leaf : Bool) : List Path → Option Path
  | [] => none
  | p :: r => match firstPath leaf r with
    | none => some p
    | some q => if q.before leaf p then some q else some p

/-- The path that issues among those ready (R39): one whose counter has reached 256, if any; in leaf mode the slot that runs goes on
while it is ready (R34). Of several ready paths whose counters have reached 256 the model's choice is the one of the lowest pc, then
of the lowest slot: R39 names none (notes/assumptions/86.md). -/
def choosePath (leaf : Bool) (running : Option Nat) (ready : List Path) : Option Path :=
  match firstPath false (ready.filter fun p => p.age == 256) with
  | some p => some p
  | none => match (if leaf then ready.find? fun p => some p.id == running else none) with
    | some p => some p
    | none => firstPath leaf ready

/-- The slot that a leaf warp runs after an opportunity: an aged path has one clause, and the slot that ran before goes on after it
(notes/assumptions/86.md). -/
def Ctx.run (c : Ctx) (p : Path) (ready : List Nat) : Ctx :=
  if p.age == 256 && c.running.any ready.contains then c else { c with running := some p.id }

/-- Ageing counters after an opportunity. -/
def Ctx.age (c : Ctx) (ready : List Nat) (chosen : Nat) : Ctx :=
  { c with paths := c.paths.map fun p =>
      if p.id = chosen then { p with age := 0 } else if ready.contains p.id then { p with age := min 256 (p.age + 1) } else p }

/-- Two paths that stand at the same clause with JOIN merge (R39, R281). One that has something to be delivered there takes it first:
the model's choice where R39 is open (notes/assumptions/105.md). -/
def State.mergePaths (s : State) (k : Nat) : State :=
  match s.ctx? k with
  | none => s
  | some c =>
    if c.symbolic || c.isComp then s
    else
      let free (p : Path) : Bool := p.wait == .none && p.deliver.isNone && p.ctr == 0 && p.start == 0
      let join (pc : Dbl) : Bool := match s.peekHeader c pc with | some h => h.join | none => false
      let (ps, moved) := c.paths.foldl (fun (acc : List Path × List (Nat × Nat)) p =>
        match acc.1.find? fun q => free q && free p && q.pc == p.pc && q.stack == p.stack && join p.pc with
        | none => (acc.1 ++ [p], acc.2)
        | some q =>
          (acc.1.map fun x => if x.id = q.id then { x with mask := x.mask ||| p.mask, age := 0, entry := x.entry && p.entry } else x,
           acc.2 ++ [(p.id, q.id)])) ([], [])
      if moved.isEmpty then s
      else
        let dest (n : Nat) : Nat := match moved.find? fun e => e.1 == n with | some e => e.2 | none => n
        s.changeCtx k fun c => { c with paths := ps, inflight := c.inflight.map fun e => { e with path := dest e.path },
                                        log := c.log.map fun (n, e) => (n, { e with path := dest e.path }) }

/-- Every wait of a context that is over ends. -/
def State.finishWaits (s : State) (k : Nat) : State :=
  match s.ctx? k with
  | none => s
  | some c => (c.paths.filter fun p => p.wait != .none && s.waitOver c p).foldl (fun s p => s.finishWait k p.id) s

/-- Paths of the context on a binding that are ready. -/
def State.readyPaths (s : State) (k : Nat) : List Path :=
  match s.ctx? k with
  | none => []
  | some c => c.paths.filter (s.pathReady c)

/-- Ready bindings of a lane. -/
def State.readyBinds (s : State) (lk : Nat) : List Nat := (List.range 8).filter fun b => !(s.readyPaths (8 * lk + b)).isEmpty

/-- The binding that issues (R57), with the length of its run: consecutive clauses that began while another binding was ready
(notes/assumptions/24.md). -/
def chooseBind (l : Lane) (ready : List Nat) : Option (Nat × Nat) :=
  let others (b : Nat) : Bool := ready.any (· != b)
  if ready.contains l.last && !l.yielded && (decide (l.run < 8) || !others l.last) then
    some (l.last, if others l.last then l.run + 1 else 0)
  else
    match (List.range 8).find? fun j => ready.contains ((l.last + 1 + j) % 8) with
    | some j => let b := (l.last + 1 + j) % 8; some (b, if others b then 1 else 0)
    | none => none

/-! Starting a clause -/

/-- A failure to enter the clause at a path's pc (R237, R261): without a handler for entries, else at the boundary. -/
def State.fetchFails (s : State) (c : Ctx) (p : Path) (code : BitVec 8) (addr bva : Dbl) : State :=
  let mask := if c.isComp then 0#32 else p.mask
  let target := code == 0x03#8
  let t : TrapState := { code := code, pc := if target then p.came else p.pc, word := 0#5, addr := addr, bva := bva, mask := mask,
                         log := 0xF#4, ret := p.pc, start := p.start, skip := p.skip }
  if p.entry then (s.trapRecord c t).endLaunch c.node (completionOf code) (detailOf code addr) else s.takeTrap c.key p.id t

/-- `nop` (R342): the word that stands for one that `tret.skip` passes over in a trunk or limb. -/
def nopWord : Dbl := 0x000000000001DC00#64

/-- A clause with the word that its path passes over replaced: `tret.skip` of a trap in a trunk or limb, whose clause runs again from
word 1 (R241, notes/assumptions/14.md). -/
def Path.passOver (p : Path) (h : Dbl) (ws : List Dbl) : Dbl × List Dbl :=
  if p.skip = 0 then (h, ws) else (h &&& ~~~(1#64 <<< (37 + p.skip)), ws.set (p.skip - 1) nopWord)

/-- Put the fetched clause on the lane, at the word at which it is resumed (R241). -/
def State.putClause (s : State) (c : Ctx) (p : Path) (h : Dbl) (hdr : Header) (ws : List Dbl) : State :=
  let (h, ws) := p.passOver h ws
  let cl : Clause := { bind := c.bind, path := p.id, pc := p.pc, header := h, words := ws, pos := max 1 p.start,
                       stage := if c.symbolic then some Stage.fresh else none }
  (s.changeCtx c.key fun c => c.changePath p.id fun p => { p with entry := false }).changeLane (c.key / 8) fun l =>
    { l with clause := some cl, yielded := hdr.yield }

/-- A trunk or limb at a clause: it joins first, materialises where a word is not covered, or runs symbolically (R31, R32, R320). -/
def State.startSymbolic (s : State) (c : Ctx) (p : Path) (h : Dbl) (hdr : Header) (ws : List Dbl) : State :=
  if hdr.join && c.joined != some p.pc then
    if p.wait == .joining then
      let (s, k) := s.graftAll 512 c.key
      match s.ctx? k with
      | none => s
      | some x =>
        if x.alone || !s.othersRun x then
          s.changeCtx k fun x => { (x.changePath p.id fun p => { p with wait := .none }) with joined := some p.pc, joinAt := x.joinAt.del p.pc.toNat, alone := false }
        else s
    else
      let s := s.changeCtx c.key fun c =>
        { (c.changePath p.id fun p => { p with wait := .joining }) with joinAt := c.joinAt.put p.pc.toNat ((c.joinAt.look p.pc.toNat).getD s.aCyc), alone := false }
      (s.graftAll 512 c.key).1
  else if c.must || !(clauseSymbolic c ((parseHeader (p.passOver h ws).1).getD hdr) 1 (p.passOver h ws).2 Stage.fresh) then
    if c.sb.all (· == 0) then s.materialise c.key else s.changeCtx c.key fun c => { c with must := true }
  else s.putClause c p h hdr ws

/-- Fetch the clause at a path's pc and start it. -/
def State.startClause (s : State) (k id : Nat) : State :=
  match s.ctx? k with
  | none => s
  | some c => match c.path? id with
    | none => s
    | some p =>
      let (s, t) := s.fetchHeader c.requester c.cls p.pc
      let stop (s : State) (f : Fetched) : State :=
        match s.parkFetch c id f, f with
        | some s, _ => s
        | none, .fault f => s.fetchFails c p (BitVec.ofNat 8 f.code) (dbl f.addr) 0#64
        | none, _ => s
      match t with
      | .bad => s.fetchFails c p 0x03#8 p.pc 0#64
      | .scan f => stop s (.scan f)
      | .fault f => stop s (.fault f)
      | .header h hdr =>
        let (s, r) := s.fetchWords c.requester hdr.n (p.pc.toNat + 8) []
        match r with
        | .words ws =>
          if ws.length < p.start then
            s.changeCtx k fun c => c.changePath id fun p => { p with pc := p.pc + dbl (8 * (ws.length + 1)), came := p.pc, start := 0, skip := 0 }
          else if c.symbolic then s.startSymbolic c p h hdr ws
          else s.putClause c p h hdr ws
        | f => stop s f

/-! Leaf warps (R34) -/

/-- Rows of a context that hold a value, as (slot, register, value). -/
def State.keptRows (s : State) (c : Ctx) : List (Nat × Nat × Word) :=
  ((List.range (8 * c.map.length)).flatMap fun n =>
    ((slotsOf c.launched).filter fun t => !((c.dead.look n).getD 0#32).getLsbD t).map fun t => (t, n, s.readV c t n)).filter
      fun x => x.2.2 != 0#32

/-- The part of a context that the save area holds. -/
def State.saveCtx (s : State) (c : Ctx) : SavedCtx :=
  let bad (t n : Nat) : Bool := match c.vPlace t n with | some a => s.mem.storePoison.contains a | none => false
  let regs := if s.mem.storePoison.isEmpty then [] else
    (List.range (8 * c.map.length)).flatMap fun n => ((List.range 32).filter fun t => bad t n).map (·, n)
  { ctx := c, rows := s.keptRows c, bad := regs }

/-- A context as it will go on after a save: logged words replay before it issues, parked fetches are made again (R152), and the rows
that a last-use bit freed are not kept (R73). -/
def Ctx.rested (c : Ctx) : Ctx :=
  let open_ (e : LogEntry) : Bool := e.state == .parked || e.state == .resolved
  let entry (e : LogEntry) : LogEntry := if e.state == .parked then { e with state := .resolved } else e
  let path (p : Path) : Path := match p.wait with
    | .fetching _ | .saving => { p with wait := .none }
    | _ => p
  { c with log := c.log.map (fun (k, e) => (k, entry e)), paths := c.paths.map path, pre := .none, joined := none,
           forms := c.forms.filter (fun e => (c.dead.look e.1).isNone), owed := (c.log.having open_).map (·.2.serial) }

/-- A leaf warp whose every live path waits on a group, gang or named barrier goes to the save area (R34), with its words in flight,
its operand log and the trap it holds; the next would-be warp of its part is loaded in its place, also while the lane's bank drains: the
model's choice where R34 and R70 are open (notes/assumptions/108.md). -/
def State.saveLeaf (s : State) (k : Nat) : State :=
  match s.ctx? k with
  | none => s
  | some c =>
    if c.kind == .leaf && !c.stopped && !c.paths.isEmpty && c.paths.all (s.onBarrier c) then
      let x := { s.saveCtx c with ctx := { c.rested with pre := c.pre } }
      let s := (s.dropFaults fun y => y.uid == c.uid).clearLatch (k / 8)
      let s := { s with work := { s.work with leafSaved := s.work.leafSaved ++ [x] } }
      let no := (s.groupOf c).map (·.number)
      match s.work.limbQueue.find? fun l => l.node == c.node && l.rest.isSome && l.part == no, c.group with
      | some l, some g =>
        let r := l.rest.getD 0
        let vol := (s.partBox l).volume
        let q := s.work.limbQueue.filter fun y => y != l
        let s := { s with work := { s.work with limbQueue := if r + 32 < vol then { l with rest := some (r + 32) } :: q else q } }
        s.makeWarp l g r c.lane c.bind c.cluster c.map true
      | _, _ => s.dropCtx k
    else s

/-! The issue opportunity (R57, R39) -/

/-- One issue opportunity of a lane without a clause in progress: a binding, a path, and what the path is due: a delivery, or its
next clause. What R57 counts are the clauses that bindings run: an opportunity in which none begins leaves `last` and `run`. -/
def State.opportunity (s : State) (lk : Nat) : State :=
  let s := (List.range 8).foldl (fun s b => s.saveLeaf (8 * lk + b)) s
  match chooseBind (s.lane lk) (s.readyBinds lk) with
  | none => s
  | some (b, run) =>
    let k := 8 * lk + b
    let s := (s.finishWaits k).mergePaths k
    let ready := s.readyPaths k
    match s.ctx? k with
    | none => s
    | some c => match choosePath (c.kind == .leaf) c.running ready with
      | none => s
      | some p =>
        let s := s.changeCtx k fun c => (c.run p (ready.map (·.id))).age (ready.map (·.id)) p.id
        let keep (e : Latch) : Bool := e.bind == b && e.path == p.id
        let s := s.changeLane lk fun l => { l with latch := l.latch.filter keep }
        -- a PREEMPT that has to wait for a held trap: its budget runs (R375)
        let s := if s.preemptPending c && c.trap.isSome then s.firstPreempt c else s
        let s := if s.deliverable c p then s.deliverTo k p.id else s.startClause k p.id
        -- the binding has run a clause once one has begun
        s.changeLane lk fun l => if l.clause.isSome then { l with last := b, run := run } else l

/-- No lane or compositor issues: full freeze, a halt of the package, or too hot a die (R221, R235, Table 11.4). -/
def State.stalled (s : State) : Bool := s.rel.fullFreeze || s.rel.halted || s.rel.tooHot

end Sys2Proof.Machine
end

