-- ==== Sys2Proof/Machine/Control.lean ====
section
/-! DEFINITION. Transfers, ends of slots, yield, traps raised by words, join and halt; issue opportunities, scans of code frames, commits,
and the events of limbs, leaf warps and retirement (R30-R34, R41, R42, R57, R237-R241, R258, R261, R279-R282, R311, R320, R359,
R373, R376, R382). -/

namespace Sys2Proof.Machine

/-! Transfers -/

/-- The target of a direct transfer (R279). -/
def directTarget (u : Issuer) (w : ImmWord) : Dbl := u.clause.pc + (w.imm.signExtend 64) * 8#64

/-- Two addresses lie in one 64 KiB frame. -/
def sameFrame (a b : Dbl) : Bool := a.toNat / 65536 == b.toNat / 65536

/-- A checked target (R261): none when it may be entered; else how the transfer word ends. A fault kept with the path is that of the
fetch that held this word. -/
def State.checkTarget (s : State) (u : Issuer) (m : Word) (pc : Dbl) : State × Option Ending :=
  let (s, r) := s.fetchHeader u.ctx.requester u.cls pc
  let clear : State := s.changeCtx u.key fun c => c.changePath u.path.id fun p => { p with deliver := none }
  let park (f : Fetched) : Option State := s.parkFetch u.ctx u.path.id f
  match u.path.wait, r, u.path.deliver with
  | .fetching _, _, _ => (s, some .hold)
  | _, .header _ _, _ => (s, none)
  | _, .bad, _ => (s, some (.trap 0x03#8 pc m))
  | _, .scan f, d =>
    if d.any fun t => t.code == 0x1E#8 && t.addr.toNat / 65536 == f then
      (clear, some (.trap 0x1E#8 (badCodeAt pc ((d.map (·.addr)).getD 0#64)) m))
    else ((park (.scan f)).getD s, some .hold)
  | _, .fault f, some t =>
    if 0x10 ≤ t.code.toNat then (clear, some (.trap t.code t.addr m))
    else match park (.fault f) with
      | some s => (s, some .hold)
      | none => (s, some (.trap (BitVec.ofNat 8 f.code) (dbl f.addr) m))
  | _, .fault f, none =>
    match park (.fault f) with
    | some s => (s, some .hold)
    | none => (s, some (.trap (BitVec.ofNat 8 f.code) (dbl f.addr) m))

/-- Check several targets, those of lower slots first. -/
def State.checkTargets (s : State) (u : Issuer) (m : Word) : List Dbl → State × Option Ending
  | [] => (s, none)
  | pc :: r =>
    match s.checkTarget u m pc with
    | (s, none) => s.checkTargets u m r
    | x => x

/-- Where a part of a path goes: its slots, pc and return stack. -/
structure Part where
  mask : Word
  pc : Dbl
  stack : List Dbl
  deriving DecidableEq, Repr

/-- The clause ends and its path divides (R39, R279, R281): the first part keeps the path's number; counters start at zero. -/
def State.divide (s : State) (u : Issuer) (i : Instr) (parts : List Part) : State :=
  match parts with
  | [] => s
  | a :: r =>
    let s := (s.useBits u i).endClause u a.pc .none
    s.changeCtx u.key fun c =>
      let top := (c.paths.map (·.id)).foldl max 0
      let first (p : Path) : Path := { p with mask := a.mask, stack := a.stack, age := if r.isEmpty then p.age else 0 }
      let c := c.changePath u.path.id first
      let old := (c.path? u.path.id).getD (Path.at 0 0#32 0#64 false)
      let new (x : Nat × Part) : Path := { old with id := top + 1 + x.1, mask := x.2.mask, pc := x.2.pc, stack := x.2.stack, age := 0 }
      { c with paths := c.paths ++ ((List.range r.length).zip r).map new }

/-- Active slots go to `pc` with a return stack, the others to the next header. -/
def State.branchTo (s : State) (u : Issuer) (i : Instr) (m : Word) (pc : Dbl) (stack : List Dbl) : State :=
  let rest := u.path.mask &&& ~~~m
  let go : Part := { mask := m, pc := pc, stack := stack }
  let stay : Part := { mask := rest, pc := u.clause.after, stack := u.path.stack }
  s.divide u i (if rest == 0#32 then [go] else [stay, go])

/-- The sub-boxes of a box on an axis where a predicate is constant: lower bound, upper bound, value (R30). -/
def subBoxes (b : Box) (k lo hi : Nat) (out : Bool) : List (Nat × Nat × Bool) :=
  let l := nth b.los k 0
  let h := nth b.his k 0
  let below := if l < lo then [(l, min h (lo - 1), out)] else []
  let mid := if max l lo ≤ min h hi then [(max l lo, min h hi, !out)] else []
  let above := if hi < h then [(max l (hi + 1), h, out)] else []
  below ++ mid ++ above

/-- The limb of a sub-box (R30). -/
def Ctx.limbOn (c : Ctx) (k lo hi : Nat) (pc : Dbl) : Ctx :=
  let box := c.box.slice k lo hi
  { c with kind := .limb, box := box, sp := c.sp.map fun e => (e.1, SPred.reduce box e.2),
           paths := c.paths.map fun p => { p with pc := pc } }

/-- A split (R30): the lowest sub-box keeps the binding, each other takes a free one on the cluster or waits in the limb queue. -/
def State.split (s : State) (u : Issuer) (i : Instr) (k lo hi : Nat) (out : Bool) (target : Dbl) : State :=
  let s := (s.useBits u i).endClause u u.clause.after .none
  match s.ctx? u.key with
  | none => s
  | some c =>
    let boxes := subBoxes c.box k lo hi out
    let limb (x : Nat × Nat × Bool) : Ctx := c.limbOn k x.1 x.2.1 (if x.2.2 then target else u.clause.after)
    let s := boxes.foldl (fun s x => s.galleyCtx c 2 0x01#8 (axisPayload k x.1 x.2.1)) s
    match boxes with
    | [] => s
    | a :: r =>
      r.foldl (fun s x =>
        let (uid, s) := s.fresh
        let y := { limb x with uid := uid }
        match s.freeBinding c.cluster c.map.length with
        | some (lane, bind) =>
          let (map, s) := s.takeGranules c.cluster lane c.map.length
          s.putCtx { y with lane := lane, bind := bind, map := map }
        | none => s.queueLimb y) (s.putCtx (limb a))

/-- BRA (R279). -/
def braBody (w : ImmWord) (s : State) (u : Issuer) (m : Word) : State × Ending :=
  let t := directTarget u w
  let after := u.clause.after
  let check (m : Word) : State × Option Ending := if sameFrame t u.clause.pc then (s, none) else s.checkTarget u m t
  if u.symbolic then
    match u.sguard (.bra w) with
    | .uni false => (s, .goto after .none [])
    | .uni true => match check 1#32 with | (s, some e) => (s, e) | (s, none) => (s, .goto t .none [])
    | .range k lo hi out =>
      if !u.ctx.sb.all (· == 0) then (s, .hold)
      else match check 1#32 with | (s, some e) => (s, e) | (s, none) => (s.split u (.bra w) k lo hi out t, .left)
  else if m = 0#32 then (s, .goto after .none [])
  else match check m with
    | (s, some e) => (s, e)
    | (s, none) => (s.branchTo u (.bra w) m t u.path.stack, .left)

def execBra (w : ImmWord) (s : State) : Host.Outcome State Fault Refusal := s.issueWord (.bra w) (braBody w)

/-- The distinct targets of active slots, those of lower slots first. -/
def targetsOf (f : Nat → Dbl) (slots : List Nat) : List Dbl :=
  (slots.map f).foldl (fun acc x => if acc.contains x then acc else acc ++ [x]) []

/-- BRX (R280). -/
def brxBody (w : RegWord) (s : State) (u : Issuer) (m : Word) : State × Ending :=
  let i := Instr.brx w
  let after := u.clause.after
  if u.symbolic then
    match u.sguard i, (u.ctx.sym u.clause.stage).value i.rules.a w.a with
    | .uni false, some _ => (s, .goto after .none [])
    | .uni true, some t => match s.checkTarget u 1#32 t with | (s, some e) => (s, e) | (s, none) => (s, .goto t .none [])
    | _, _ => s.makeConcrete u
  else if m = 0#32 then (s, .goto after .none [])
  else
    let f (t : Nat) : Dbl := s.argA u i t
    let ts := targetsOf f (slotsOf m)
    match s.checkTargets u m ts with
    | (s, some e) => (s, e)
    | (s, none) =>
      let rest := u.path.mask &&& ~~~m
      let stay : List Part := if rest == 0#32 then [] else [{ mask := rest, pc := after, stack := u.path.stack }]
      let go (t : Dbl) : Part := { mask := maskOf ((slotsOf m).filter fun k => f k == t), pc := t, stack := u.path.stack }
      (s.divide u i (stay ++ ts.map go), .left)

def execBrx (w : RegWord) (s : State) : Host.Outcome State Fault Refusal := s.issueWord (.brx w) (brxBody w)

/-- CALL (R281). -/
def callBody (w : ImmWord) (s : State) (u : Issuer) (m : Word) : State × Ending :=
  let t := directTarget u w
  let after := u.clause.after
  if u.symbolic then s.makeConcrete u
  else if m = 0#32 then (s, .goto after .none [])
  else if 16 ≤ u.path.stack.length then (s, .trap 0x09#8 0#64 m)
  else
    match (if sameFrame t u.clause.pc then (s, none) else s.checkTarget u m t) with
    | (s, some e) => (s, e)
    | (s, none) => (s.branchTo u (.call w) m t (after :: u.path.stack), .left)

def execCall (w : ImmWord) (s : State) : Host.Outcome State Fault Refusal := s.issueWord (.call w) (callBody w)

/-- RET (R359). -/
def retBody (w : RegWord) (s : State) (u : Issuer) (m : Word) : State × Ending :=
  let i := Instr.ret w
  let after := u.clause.after
  if u.symbolic then
    match u.sguard i with
    | .uni false => (s, .goto after .none [])
    | .uni true => (s, .trap 0x09#8 0#64 1#32)
    | .range .. => s.makeConcrete u
  else if m = 0#32 then (s, .goto after .none [])
  else match u.path.stack with
    | [] => (s, .trap 0x09#8 0#64 m)
    | t :: r => match s.checkTarget u m t with
      | (s, some e) => (s, e)
      | (s, none) => (s.branchTo u i m t r, .left)

def execRet (w : RegWord) (s : State) : Host.Outcome State Fault Refusal := s.issueWord (.ret w) (retBody w)

/-! Ends of slots -/

/-- The active slots end; the others go on at the next header. In a trunk or limb a U guard ends the context (R282). -/
def State.endSlots (s : State) (u : Issuer) (i : Instr) (m : Word) : State :=
  (((s.useBits u i).endClause u u.clause.after .none).exitSlots u.key m).noPathLeft u.key

/-- EXIT (R282). -/
def exitBody (w : RegWord) (s : State) (u : Issuer) (m : Word) : State × Ending :=
  let i := Instr.exit w
  if u.symbolic then
    match u.sguard i with
    | .uni true => (s.endSlots u i u.ctx.launched, .left)
    | .uni false => (s, .goto u.clause.after .none [])
    | .range .. => s.makeConcrete u
  else (s.endSlots u i m, .left)

def execExit (w : RegWord) (s : State) : Host.Outcome State Fault Refusal := s.issueWord (.exit w) (exitBody w)

/-- A context whose last slot ended by `tail` hands its obligations to a free tracker entry (R42, R373). One with words in its
operand log keeps its binding, as `exit` does: a logged word still has to replay (notes/assumptions/15.md). -/
def State.handOff (s : State) (k : Nat) : State :=
  match s.ctx? k with
  | none => s
  | some c =>
    if c.live != 0#32 || !c.log.isEmpty then s
    else if c.symbolic then s.dropCtx k
    else if (s.work.trackers.filter fun t => t.cluster == c.cluster).length < 16 then
      let t : Tracker := { cluster := c.cluster, owner := c.uid, node := c.node, group := c.group }
      ({ s with work := { s.work with trackers := s.work.trackers ++ [t] } }).dropCtx k
    else s

/-- TAIL (R373). -/
def tailBody (w : RegWord) (s : State) (u : Issuer) (m : Word) : State × Ending :=
  let i := Instr.tail w
  if u.symbolic then
    match u.sguard i with
    | .uni true => ((s.endSlots u i u.ctx.launched).handOff u.key, .left)
    | .uni false => (s, .goto u.clause.after .none [])
    | .range .. => s.makeConcrete u
  else ((s.endSlots u i m).handOff u.key, .left)

def execTail (w : RegWord) (s : State) : Host.Outcome State Fault Refusal := s.issueWord (.tail w) (tailBody w)

/-! Other words that end a clause, and join -/

/-- YIELD (R382): the lane prefers another binding. -/
def yieldBody (s : State) (u : Issuer) (_m : Word) : State × Ending :=
  (s.changeLane (u.key / 8) fun l => { l with yielded := true }, .goto u.clause.after .none [])

def execYield (w : RegWord) (s : State) : Host.Outcome State Fault Refusal := s.issueWord (.yield w) yieldBody

/-- TRAP (R376): TRAPI with the immediate. -/
def trapBody (w : ImmWord) (s : State) (u : Issuer) (m : Word) : State × Ending :=
  if u.symbolic && (match u.sguard (.trap w) with | .range .. => true | .uni _ => false) then s.makeConcrete u
  else if m = 0#32 then (s, .goto u.clause.after .none []) else (s, .trap 0x01#8 (w.imm.setWidth 64) m)

def execTrap (w : ImmWord) (s : State) : Host.Outcome State Fault Refusal := s.issueWord (.trap w) (trapBody w)

/-- TRAP_SET (R376): THAND. -/
def trapSetBody (w : ImmWord) (s : State) (u : Issuer) (m : Word) : State × Ending :=
  let i := Instr.trapSet w
  let set (v : Dbl) : State × Ending := (s.changeCtx u.key fun c => { c with thand := v }, .goto u.clause.after .none [])
  if u.symbolic then
    match u.sguard i, (u.ctx.sym u.clause.stage).value i.rules.a w.a with
    | .uni true, some v => set v
    | .uni false, some _ => (s, .goto u.clause.after .none [])
    | _, _ => s.makeConcrete u
  else match slotsOf m with
    | [] => (s, .goto u.clause.after .none [])
    | t :: _ => set (s.argA u i t)

def execTrapSet (w : ImmWord) (s : State) : Host.Outcome State Fault Refusal := s.issueWord (.trapSet w) (trapSetBody w)

/-- JOIN (R320): the merge or graft was made when the clause started. -/
def joinBody (s : State) (_u : Issuer) (_m : Word) : State × Ending := (s, .done)

def execJoin (w : RegWord) (s : State) : Host.Outcome State Fault Refusal := s.issueWord (.join w) joinBody

/-- HALT (R311): the compositor's program waits for its node to complete; a launch ends with OK. -/
def haltBody (s : State) (u : Issuer) (_m : Word) : State × Ending :=
  if u.ctx.isComp then (s, .goto u.clause.after .halting [])
  else ((s.changeLane (u.key / 8) fun l => { l with clause := none }).endLaunch u.ctx.node 0#8 0, .left)

def execHalt (w : RegWord) (s : State) : Host.Outcome State Fault Refusal := s.issueWord (.halt w) haltBody

/-! Issue opportunities, scans and commits -/

/-- ISSUE_OPPORTUNITY (R57). -/
def execIssueOpportunity (cluster lane : Nat) (s : State) : Host.Outcome State Fault Refusal :=
  if s.stalled || (s.lane (laneKey cluster lane)).clause.isSome then .next s
  else .next ({ s with issuer := some (cluster, lane) }.opportunity (laneKey cluster lane))

/-- Check the words of a clause body from word `j` on: the address of the first that fails (R259). -/
def scanBody (m : Memory) (h : Header) (k : Cls) (limit : Nat) : Nat → Nat → Nat → Option Nat
  | 0, _, _ => none
  | n + 1, a, j =>
    if limit ≤ a then none
    else match decode k (h.paired j) (m.dbl a) with
      | .error _ => some a
      | .ok i => if placeOk h j i then scanBody m h k limit n (a + 8) (j + 1) else some a

/-- The walk of R258 from header `a`: where it fails, if it does, and the headers found, as (address, CLASS, length). -/
def scanWalk (m : Memory) (limit : Nat) : Nat → Nat → List (Nat × Nat × Nat) → Option Nat × List (Nat × Nat × Nat)
  | 0, _, hs => (none, hs.reverse)
  | fuel + 1, a, hs =>
    if limit ≤ a then (none, hs.reverse)
    else match parseHeader (m.dbl a) with
      | none => (some a, hs.reverse)
      | some h =>
        if !h.ok then (some a, hs.reverse)
        else
          let body := match h.klass with | some k => scanBody m h k limit h.n (a + 8) 1 | none => none
          match body with
          | some x => (some x, ((a, h.cls.toNat, h.n) :: hs).reverse)
          | none =>
            if limit < a + 8 * (h.n + 1) then (some a, hs.reverse)
            else scanWalk m limit fuel (a + 8 * (h.n + 1)) ((a, h.cls.toNat, h.n) :: hs)

/-- The word of a direct transfer whose target in the same frame is no header of its CLASS; judged below `x` only (R258). -/
def badDirect (m : Memory) (hs : List (Nat × Nat × Nat)) (x : Nat) (h : Nat × Nat × Nat) : Option Nat :=
  let a := h.1 + 8 * h.2.2
  let w := m.dbl a
  let op := w.toNat / 2 ^ 56
  let paired := match parseHeader (m.dbl h.1) with | some p => p.paired h.2.2 | none => true
  let t := (h.1 : Int) + 8 * (parseImm w).imm.toInt
  if paired || !(op == 0x80 || op == 0x82) || h.2.1 == 2 || decide (x ≤ a) then none
  else if t < (h.1 / 65536 * 65536 : Nat) ∨ (h.1 / 65536 * 65536 + 65536 : Nat) ≤ t ∨ (x : Int) ≤ t then none
  else if hs.any fun g => (g.1 : Int) == t && g.2.1 == h.2.1 then none
  else some a

/-- The lowest address at which a judged check of a frame fails (R258); none: it passes. -/
def scanFrame (m : Memory) (frame : Nat) : Option Nat :=
  let limit := (frame + 1) * 65536
  let (x, hs) := scanWalk m limit 8192 (frame * 65536) []
  match hs.findSome? (badDirect m hs (x.getD limit)) with
  | some a => some a
  | none => x

/-- Every path that waits for a frame's scan goes on: it fetches again, or has BADCODE to be reported, the failing PA kept (R162). -/
def State.wakeScan (s : State) (frame : Nat) (bad : Option Nat) : State :=
  let wake (c : Ctx) (p : Path) : Path :=
    if p.wait == .fetching (some frame) then
      { p with wait := .none, deliver := match bad with
          | none => none
          | some a => some { code := 0x1E#8, pc := p.pc, word := 0#5, addr := dbl a, bva := 0#64,
                             mask := if c.isComp then 0#32 else p.mask, log := 0xF#4, ret := p.pc } }
    else p
  { s with work := { s.work with ctxs := s.work.ctxs.map fun (k, c) => (k, { c with paths := c.paths.map (wake c) }) } }

/-- CODE_SCAN (R258, R162) of a frame that a fetch waits for. -/
def execCodeScan (frame : Nat) (s : State) : Host.Outcome State Fault Refusal :=
  if s.eng.scans.contains frame then
    let s := { s with eng := { s.eng with scans := s.eng.scans.filter (· != frame) } }
    match scanFrame s.mem.phys frame with
    | none => .next ((s.writeFdt frame (s.fdt frame ||| 0x800000#64)).wakeScan frame none)
    | some a => .next (s.wakeScan frame (some a))
  else .next s

/-- Commit a word in flight (R240): its writes and flags, and its count falls. Poisoned data is consumed instead (R207). -/
def State.commitInflight (s : State) (k : Nat) (e : Inflight) : State :=
  let s := s.changeCtx k fun c => { c with inflight := c.inflight.filter fun x => x.serial != e.serial }
  match e.poison with
  | some q => s.consume k q
  | none => ((s.commitWrites k e.writes).raise k e.flags).count k e.path e.sb false

/-- VARIABLE_LATENCY_COMMIT (R240). -/
def execVariableLatencyCommit (ctx serial : Nat) (s : State) : Host.Outcome State Fault Refusal :=
  match s.ctx? ctx with
  | none => .next s
  | some c =>
    match c.inflight.find? fun e => e.serial == serial with
    | some e => if c.stopped then .next s else .next (s.commitInflight ctx e)
    | none => .next s

/-! Limbs, leaf warps and retirement -/

/-- A queued context may be loaded on a cluster: its own, or a trunk that starts afresh on the one that R50 chooses now (R63). -/
def State.loadsOn (s : State) (cluster : Nat) (c : Ctx) : Bool :=
  !c.stopped && (if c.kind == .trunk then (match s.node? c.node with
    | some n => bestOf (s.freeCount · n.regs) ((List.range 128).filter (s.permits n)) == some cluster
    | none => false)
  else c.cluster == cluster)

/-- LIMB_LOAD (R30, R34, R63): the first limb in a cluster's queue is loaded onto a free binding; what is left of a materialised limb
gets warps. -/
def execLimbLoad (cluster : Nat) (s : State) : Host.Outcome State Fault Refusal :=
  match s.work.limbQueue.find? (s.loadsOn cluster) with
  | none => .next s
  | some c =>
    match s.freeBinding cluster c.map.length with
    | none => .next s
    | some (lane, bind) =>
      let s := { s with work := { s.work with limbQueue := s.work.limbQueue.erase c } }
      if c.part.isSome then
        let (s, _, warps, leaf) := s.placePart c false
        .next (if warps = 0 then s else s.galleyCtx c 2 0x03#8 (dbl (leaf % 2 ^ 32 * 2 ^ 16 + warps % 2 ^ 16)))
      else
        let (map, s) := s.takeGranules cluster lane c.map.length
        .next (s.putCtx { c with cluster := cluster, lane := lane, bind := bind, map := map })

/-- JOIN_TIMEOUT (R31). -/
def execJoinTimeout (ctx : Nat) (s : State) : Host.Outcome State Fault Refusal :=
  match s.ctx? ctx with
  | none => .next s
  | some c => match c.joinAt.look c.pcOf.toNat with
    | some t => if c.atJoin && decide (t + 4096 ≤ s.aCyc) then .next (s.changeCtx ctx fun c => { c with alone := true }) else .next s
    | none => .next s

/-- Load a saved context into its binding, its rows into free granules of its lane; the lane's latch is invalid (R74). -/
def State.loadSaved (s : State) (x : SavedCtx) (cluster lane bind : Nat) : State :=
  let (map, s) := (s.clearLatch (laneKey cluster lane)).takeGranules cluster lane x.ctx.map.length
  let c := { x.ctx with cluster := cluster, lane := lane, bind := bind, map := map }
  let s := x.rows.foldl (fun s r => s.writeV c r.1 r.2.1 r.2.2) (s.putCtx c)
  let bad := x.bad.filterMap fun r => c.vPlace r.1 r.2
  { s with mem := { s.mem with storePoison := nubNat (s.mem.storePoison ++ bad) } }

/-- LEAF_RELOAD (R34): the barrier has completed and the binding is free. -/
def execLeafReload (index : Nat) (s : State) : Host.Outcome State Fault Refusal :=
  match s.work.leafSaved[index]? with
  | none => .next s
  | some x =>
    let c := x.ctx
    let free := (s.freeBinds c.cluster c.lane c.map.length).contains c.bind
    if free && !c.stopped && !((s.groupOf c).map (·.saved)).getD false && !(c.paths.all (s.onBarrier c)) then
      .next (({ s with work := { s.work with leafSaved := s.work.leafSaved.eraseIdx index } }).loadSaved x c.cluster c.lane c.bind)
    else .next s

/-- Copies and gathers that a context issued and that are not complete (R42). -/
def State.copiesOf (s : State) (uid : Nat) : Bool :=
  (s.eng.chans.any fun (_, c) => c.queue.any fun q => q.owner == uid) || (s.eng.gathers.any fun (_, l) => l.any fun q => q.owner == uid)
/-- Stores of a context that are still in a merge buffer. -/
def State.storesOf (s : State) (uid : Nat) : Bool := s.mem.merge.any fun m => m.owners.contains uid

/-- WARP_RETIRE (R42): a context without a live slot frees its binding and rows once its stores and copies are done; copies of a launch that
has ended end with its node. -/
def execWarpRetire (ctx : Nat) (s : State) : Host.Outcome State Fault Refusal :=
  match s.ctx? ctx with
  | none => .next s
  | some c =>
    if c.live == 0#32 && !c.isComp && c.inflight.isEmpty && c.log.isEmpty && !s.storesOf c.uid && (c.stopped || !s.copiesOf c.uid) then
      .next (((s.dropClauses fun x => x.uid == c.uid).dropCtx ctx).endTransit c.uid)
    else .next s

/-- TRACKER_DRAIN (R42): entry `entry` of a cluster's trackers. -/
def execTrackerDrain (cluster entry : Nat) (s : State) : Host.Outcome State Fault Refusal :=
  match (s.work.trackers.filter fun t => t.cluster == cluster)[entry]? with
  | none => .next s
  | some t =>
    if s.storesOf t.owner || s.copiesOf t.owner then .next s
    else .next { s with work := { s.work with trackers := s.work.trackers.filter fun x => x.owner != t.owner } }

/-- Every item of a box has exited and all that its contexts issued has drained. -/
def State.boxDrained (s : State) (node : Nat) (box : Box) : Bool :=
  !(s.holders.any fun c => c.node == node && c.box.meets box && (s.outstanding node box [] c || (s.partBox c).meets box))
    && !(s.work.trackers.any fun t => t.node == node && match t.group.bind (s.work.groups.look ·) with
      | some g => g.box.meets box | none => true)

/-- LEVEL_RELEASE (R41): the release of a level's box; scratch of the box's groups is freed with level 0 (R77). -/
def execLevelRelease (node level box : Nat) (s : State) : Host.Outcome State Fault Refusal :=
  match s.node? node with
  | none => .next s
  | some n =>
    let b := n.boxAt level box
    let mine (g : Group) : Bool := g.node == node && b.meets g.box
    let cluster (k : Nat) : Bool := s.work.groups.any fun (_, g) => mine g && g.cluster == k
    let busy := (s.eng.chans.any fun (_, c) => c.queue.any fun q => q.node == node && q.group.isSome &&
      match q.group.bind (s.work.groups.look ·) with | some g => mine g | none => false)
    if decide (n.nlev ≤ level) || n.kind != .kernel || n.state != .running || !s.boxDrained node b || busy then .next s
    else
      let s := s.drainWhere fun m => cluster (m.core / 9)
      if s.mem.merge.any fun m => cluster (m.core / 9) then .next s
      else
      let end_ (g : Gang) : Gang := if g.node == node && b.meets g.box && decide (3 ≤ n.scope level) then { g with relaunchable := false } else g
      let free (g : Group) : Group := if mine g && level == 0 then { g with freed := true } else g
      .next { s with work := { s.work with groups := s.work.groups.map fun (k, g) => (k, free g), gangs := s.work.gangs.map fun (k, g) => (k, end_ g) } }

end Sys2Proof.Machine
end

