-- ==== Sys2Proof/Machine/Memory.lean ====
section
/-! DEFINITION. Loads, stores, atomics, reductions, scatter, metadata and prefetch, their replay from the operand log, and `tret`
(R78, R80, R81, R113, R122, R124, R150, R151, R161, R202, R209, R271-R273, R321-R325, R349, R357, R363, R369-R372, R377). -/

namespace Sys2Proof.Machine

/-! Memory types (Tables 15.7, 16.15) -/

/-- A loaded value: memory type, register type (the double of an x register for the compositor). -/
def loadValue (mfmt fmt : Nat) (comp : Bool) (x : Nat) : BitVec 128 :=
  let n := 8 * typeBytes mfmt
  if comp then
    if mfmt = 7 ∨ mfmt = 8 then (BitVec.ofInt 64 (sextNat x n)).setWidth 128 else BitVec.ofNat 128 x
  else if mfmt = 7 then (BitVec.ofInt 32 (sextNat x 8)).setWidth 128
  else if fmt = 0 ∧ mfmt ≠ 0 then BitVec.ofNat 128 (widen mfmt (if mfmt = 5 then x % 64 else x))
  else if mfmt = 5 then BitVec.ofNat 128 (x % 64)
  else BitVec.ofNat 128 x

/-- A stored value and its flags: register type, memory type. -/
def storeValue (fmt mfmt : Nat) (x : BitVec 128) : Nat × Word :=
  let n := 8 * typeBytes mfmt
  if fmt = 0 ∧ mfmt ≠ 0 then convert mfmt 0 0 false (x.toNat % 2 ^ 32)
  else (if mfmt = 5 then x.toNat % 64 else x.toNat % 2 ^ n, 0#32)

/-! What every access to memory may have to wait for, or brings with it -/

/-- A window access to the warp's own registers waits until every earlier word has committed (R78). -/
def Ctx.windowWaits (c : Ctx) (seg : Nat) (reqs : List Req) : Bool :=
  seg == 2 && (!c.inflight.isEmpty || c.logPending) && reqs.any fun r => decide (0 ≤ r.addr) && r.addr.toNat / 2 ^ 15 % 32 == c.warpNo

/-- The requests of a context's loads at other packages (R396). -/
def State.peerMessage (s : State) (c : Ctx) (ts : List (Req × Target)) : State := s.peerTraffic c.cluster c.tenant (ts.map (·.2))
/-- A store or update at another package ends relaunchability (R209). -/
def State.peerStore (s : State) (c : Ctx) (ts : List (Req × Target)) : State :=
  if ts.any fun x => x.2.isPeer then s.endRelaunch c else s

/-- A window store of `b` bytes revives the words it writes, at every slot of the row that it reaches, and leaves nothing of the row in
a latch (R73, R74). -/
def State.windowStore (s : State) (g o b : Nat) : State :=
  match s.warpOf g (o / 2 ^ 15 % 32) with
  | none => s
  | some x =>
    let n := o / 128 % 256
    let slots := maskOf ((List.range 32).filter fun t => decide (o / 4 % 32 ≤ t) && decide (t ≤ (o % 128 + b - 1) / 4))
    (s.changeCtx x.key fun c => { c with dead := c.dead.change n fun m => m &&& ~~~slots }).changeLane (x.key / 8)
      fun l => { l with latch := l.latch.filter fun e => !(e.bind == x.bind && e.reg == n) }

/-! FIFO banks (R81) -/

/-- Banks of a batch, one per slot; the faults of slots that name none. -/
def State.fifoBanks (s : State) (c : Ctx) (push : Bool) (n : Nat) (reqs : List Req) : List (Req × Nat) × List (Nat × AFault) :=
  reqs.foldl (fun acc r =>
    match s.fifoBank c push r.addr n with
    | .ok b => (acc.1 ++ [(r, b)], acc.2)
    | .error code => (acc.1, acc.2 ++ [(r.slot, segFault code r.addr)])) ([], [])

def State.fifo (s : State) (cluster bank : Nat) : List (Word × Bool) := (s.eng.fifo.look (512 * cluster + bank)).getD []
def State.setFifo (s : State) (cluster bank : Nat) (l : List (Word × Bool)) : State :=
  let k := 512 * cluster + bank
  { s with eng := { s.eng with fifo := if l.isEmpty then s.eng.fifo.del k else s.eng.fifo.put k l } }

/-- Every bank of a batch has what it needs. -/
def batchFits (bs : List (Req × Nat)) (n : Nat) (room : Nat → Nat) : Bool :=
  bs.all fun x => decide ((bs.filter fun y => y.2 == x.2).length * (n / 4) ≤ room x.2)

/-- Pop a batch: the values, and whether a word of it is poisoned. -/
def State.popBatch (s : State) (c : Ctx) (n : Nat) (bs : List (Req × Nat)) : State × List (Req × Nat) × Bool :=
  bs.foldl (fun acc (r, b) =>
    let q := acc.1.fifo c.cluster b
    let v := leNat ((q.take (n / 4)).flatMap fun w => bytesOf 4 w.1.toNat)
    (acc.1.setFifo c.cluster b (q.drop (n / 4)), acc.2.1 ++ [(r, v)], acc.2.2 || (q.take (n / 4)).any (·.2))) (s, [], false)

/-- Push a batch; words of poisoned registers stay poisoned. -/
def State.pushBatch (s : State) (c : Ctx) (n : Nat) (bs : List (Req × Nat)) : State :=
  bs.foldl (fun s (r, b) => s.setFifo c.cluster b
    (s.fifo c.cluster b ++ (List.range (n / 4)).map fun i => (r.data.extractLsb' (32 * i) 32, nth r.bads (4 * i) false))) s

/-! Loads (R322-R324) -/

/-- Read every target in slot order: the values, and the sector of poison they carry. -/
def State.loadAll (s : State) (c : Ctx) (ts : List (Req × Target)) : State × List (Req × Nat) × Option Nat :=
  ts.foldl (fun acc (r, t) =>
    let (s, bs, p) := acc.1.loadTarget c.requester c.core t
    (s, acc.2.1 ++ [(r, leNat bs)], match acc.2.2 with | some q => some q | none => p)) (s, [], none)

/-- LD on the captured operands. A FIFO batch that its banks cannot serve yet waits with its word and keeps no place before later ones:
R81 names no order, the model's choice (notes/assumptions/109.md). -/
def ldAct (w : MemWord) (s : State) (c : Ctx) (reqs : List Req) : State × MemOut :=
  let n := typeBytes w.mfmt.toNat
  let seg := w.seg.toNat
  let ordered := w.oen == 1#1
  let result (vs : List (Req × Nat)) : List RegWrite :=
    vs.flatMap fun (r, v) => c.slotWrites (.ld w) r.slot (loadValue w.mfmt.toNat w.fmt.toNat c.isComp v)
  if c.windowWaits seg reqs || (ordered && w.ord == 3#2 && s.releaseWaits c) then (s, .wait)
  else
    let finish (s : State) (ws : List RegWrite) (p : Option Nat) : State × MemOut :=
      (if ordered then s.acquireCluster c.cluster w.osc.toNat else s, .done ws 0#32 p)
    let start (s : State) : State := if ordered && w.ord == 3#2 then s.fenceBy c 3 w.osc.toNat else s
    if seg = 5 then
      let (bs, bad) := s.fifoBanks c false n reqs
      if !bad.isEmpty then (s, raiseFault .read bad)
      else if !batchFits bs n (fun b => (s.fifo c.cluster b).length) then (s, .wait)
      else
        let (s, vs, p) := (start s).popBatch c n bs
        finish s (result vs) (if p then some 0 else none)
    else s.withTargets c seg n .read false reqs fun s ts =>
      let (s, vs, p) := (start s).loadAll c ts
      finish (s.peerMessage c ts) (result vs) p

/-- LD (R321-R324). A SEG.S, W, D or F load, or one with a form-A address, materialises a trunk or limb. -/
def symMemBody (i : Instr) (off : Int) (act : MemAct) (s : State) (u : Issuer) (m : Word) : State × Ending :=
  if u.symbolic then
    match u.sguard i, (u.ctx.sym u.clause.stage).word i with
    | .uni _, some _ => memBody i off act s u m
    | _, _ => s.makeConcrete u
  else memBody i off act s u m

def execLd (w : MemWord) (s : State) : Host.Outcome State Fault Refusal := s.issueWord (.ld w) (symMemBody (.ld w) w.offset (ldAct w))

/-! Stores (R370, R371) -/

def stAct (w : MemWord) (s : State) (c : Ctx) (reqs : List Req) : State × MemOut :=
  let n := typeBytes w.mfmt.toNat
  let seg := w.seg.toNat
  let ordered := w.oen == 1#1
  if c.windowWaits seg reqs || (ordered && s.releaseWaits c) then (s, .wait)
  else
    let start (s : State) : State := if ordered then s.fenceBy c w.ord.toNat w.osc.toNat else s
    if seg = 5 then
      let (bs, bad) := s.fifoBanks c true n reqs
      if !bad.isEmpty then (s, raiseFault .write bad)
      else if !batchFits bs n (fun b => 8192 - (s.fifo c.cluster b).length) then (s, .wait)
      else ((start s).pushBatch c n bs, .done [] 0#32 none)
    else s.withTargets c seg n .write false reqs fun s ts =>
      let value (r : Req) : Nat × Word := storeValue w.fmt.toNat w.mfmt.toNat r.data
      let before := s
      let s := ts.foldl (fun s (r, t) => s.storeTarget c.storer t (bytesOf n (value r).1) r.bads) (start s)
      let s := if seg = 2 then ts.foldl (fun s (r, _) => s.windowStore (c.seg 2).base.toNat r.addr.toNat n) s else s
      if s.overfull c.core then (before, .wait)
      else (s.peerStore c ts, .done [] (ts.foldl (fun f (r, _) => f ||| (value r).2) 0#32) none)

/-- A memory word that materialises a trunk or limb. -/
def warpMemBody (i : Instr) (off : Int) (act : MemAct) (s : State) (u : Issuer) (m : Word) : State × Ending :=
  if u.symbolic then s.makeConcrete u else memBody i off act s u m

/-- ST (R369-R371). -/
def execSt (w : MemWord) (s : State) : Host.Outcome State Fault Refusal := s.issueWord (.st w) (warpMemBody (.st w) w.offset (stAct w))

/-! Atomics and reductions (R271-R273, R357, R363, Table 14.4) -/

/-- The new value: operation, type, old value, B and C. -/
def atomNew (opc fmt : Nat) (old b c : Nat) : Nat :=
  let n := if fmt = 10 then 64 else 32
  let x := old % 2 ^ n
  let y := b % 2 ^ n
  match opc with
  | 0 => if fmt = 0 then (floatAdd 0 0 false x y).1 else (x + y) % 2 ^ n
  | 1 => if fmt = 0 then (floatMinMax false false x y).1
         else if fmt = 9 then min x y else wrapNat (min (sextNat x n) (sextNat y n)) n
  | 2 => if fmt = 0 then (floatMinMax true false x y).1
         else if fmt = 9 then max x y else wrapNat (max (sextNat x n) (sextNat y n)) n
  | 3 => (BitVec.ofNat 64 x &&& BitVec.ofNat 64 y).toNat
  | 4 => (BitVec.ofNat 64 x ||| BitVec.ofNat 64 y).toNat
  | 5 => (BitVec.ofNat 64 x ^^^ BitVec.ofNat 64 y).toNat
  | 6 => y
  | 7 => if x = y then c % 2 ^ n else x
  | 8 => if y ≤ x then 0 else x + 1
  | _ => if x = 0 ∨ y < x then y else x - 1

/-- One indivisible update at the home of a target: the old value and its poison. What it writes is poisoned where the old value, unless
it is exchanged, or an operand is (`bad`; R207). -/
def State.atomAt (s : State) (c : Ctx) (opc fmt n : Nat) (t : Target) (b x : Dbl) (bad : Bool := false) : State × Nat × Option Nat :=
  let (s, bs, p) := ((s.drainFor c.core t).peerTraffic c.cluster c.tenant [t]).readHome t
  let old := leNat bs
  (s.writeHome t (bytesOf n (atomNew opc fmt old b.toNat x.toNat)) (List.replicate n ((p.isSome && opc != 6) || bad)) (some c.cluster)
    (some c.storer), old, p)

/-- The lines of the core's own buffer that atomics on these targets must drain first; an atomic waits while one of them is held (R121,
R124). -/
def State.atomsReady (s : State) (c : Ctx) (ts : List (Req × Target)) : Option State :=
  let s := ts.foldl (fun s x => s.drainFor c.core x.2) s
  if ts.any fun x => s.heldFor c.core x.2 then none else some s

/-- Atomics on targets, once they may be performed. -/
def State.withAtoms (s : State) (c : Ctx) (ts : List (Req × Target)) (go : State → State × MemOut) : State × MemOut :=
  match s.atomsReady c ts with
  | none => (s, .wait)
  | some s => go s

def atomBytes (w : RegWord) : Nat := if w.fmt == 0xA#4 then 8 else 4

def atomAct (w : RegWord) (s : State) (c : Ctx) (reqs : List Req) : State × MemOut :=
  let i := Instr.atom w
  s.withTargets c i.memSeg (atomBytes w) .atomic true reqs fun s ts => s.withAtoms c ts fun s =>
    let (s, ws, p) := ts.foldl (fun (acc : State × List RegWrite × Option Nat) (r, t) =>
      let (s, old, p) := acc.1.atomAt c (w.modAt 17 4) w.fmt.toNat (atomBytes w) t r.b r.c (r.bads.any id)
      (s, acc.2.1 ++ c.slotWrites i r.slot (BitVec.ofNat 128 old), match acc.2.2 with | some q => some q | none => p)) (s, [], none)
    (s.peerStore c ts, .done ws 0#32 p)

/-- ATOM (R271-R273). -/
def execAtom (w : RegWord) (s : State) : Host.Outcome State Fault Refusal := s.issueWord (.atom w) (warpMemBody (.atom w) 0 (atomAct w))

def redAct (w : RegWord) (s : State) (c : Ctx) (reqs : List Req) : State × MemOut :=
  s.withTargets c (Instr.red w).memSeg (atomBytes w) .atomic true reqs fun s ts => s.withAtoms c ts fun s =>
    let s := ts.foldl (fun s (r, t) => (s.atomAt c (w.modAt 17 4) w.fmt.toNat (atomBytes w) t r.b 0#64 (r.bads.any id)).1) s
    (s.peerStore c ts, .done [] 0#32 none)

/-- RED (R357). -/
def execRed (w : RegWord) (s : State) : Host.Outcome State Fault Refusal := s.issueWord (.red w) (warpMemBody (.red w) 0 (redAct w))

/-- Slots with equal addresses merge, folding their values in ascending slot order (R202). -/
def combine (opc fmt : Nat) (ts : List (Req × Target)) : List (Req × Target) :=
  ts.foldl (fun acc (r, t) =>
    if acc.any fun x => x.1.addr == r.addr then
      acc.map fun x =>
        if x.1.addr == r.addr then
          ({ x.1 with b := dbl (atomNew opc fmt x.1.b.toNat r.b.toNat 0), bads := if opc = 6 then r.bads else x.1.bads ++ r.bads }, x.2)
        else x
    else acc ++ [(r, t)]) []

def scatAct (w : RegWord) (s : State) (c : Ctx) (reqs : List Req) : State × MemOut :=
  s.withTargets c 0 (atomBytes w) .atomic true reqs fun s ts => s.withAtoms c ts fun s =>
    let s := (combine (w.modAt 17 4) w.fmt.toNat ts).foldl (fun s (r, t) =>
      (s.atomAt c (w.modAt 17 4) w.fmt.toNat (atomBytes w) t r.b 0#64 (r.bads.any id)).1) s
    (s.peerStore c ts, .done [] 0#32 none)

/-- SCAT (R363). -/
def execScat (w : RegWord) (s : State) : Host.Outcome State Fault Refusal := s.issueWord (.scat w) (warpMemBody (.scat w) 0 (scatAct w))

/-! Metadata (R161, R325, R372) -/

/-- A reference to a package that is marked down (R231). -/
def State.targetDown (s : State) (t : Target) : Bool :=
  t.bytes.any fun l => match l with
    | .peer k => s.peerDown (k / 2 ^ 48)
    | .replicas _ _ ks => ks.all fun k => s.peerDown (k / 2 ^ 48)
    | .phys _ | .store _ | .zero => false

/-- Where the metadata of a byte's sector is kept, and its width: 0, 12 or 28 bits by the frame's EGRADE. -/
def State.metaOf (s : State) (l : Loc) : Nat × Nat :=
  match l with
  | .phys pa => (pa / 32, match fdtGrade (s.fdt (pa / 65536)) with | 1 => 12 | 2 => 28 | _ => 0)
  | .peer k | .replicas _ _ (k :: _) => (2 ^ 60 + k / 32, 28)
  | .store _ | .replicas _ _ [] | .zero => (0, 0)

/-- Write the metadata of a byte's sector; of a replica set, at every replica (R160). -/
def State.setMeta (s : State) (l : Loc) (x : Nat) : State :=
  l.spread.foldl (fun s l =>
    let (k, n) := s.metaOf l
    let v : BitVec 28 := BitVec.ofNat 28 (x % 2 ^ n)
    if n = 0 then s
    else { s with mem := { s.mem with sectorMeta := if v = 0#28 then s.mem.sectorMeta.del k else s.mem.sectorMeta.put k v } }) s

/-- The faults that metadata words have of their own: a shadow address faults with VRIGHT (R97), or VSLOT where the tenant has no view in
its slot; an access whose last byte lies in another space with BADVA (R140). -/
def State.metaFault (s : State) (c : Ctx) (r : Req) : Option AFault :=
  let fault (code : Nat) : Option AFault := some { code := code, addr := wrapNat r.addr 64, bva := 0, page := 0 }
  if !(c.seg 0).en then none
  else if spaceOf r.addr = .shadow then fault (if (s.ownView c.tenant (r.addr.toNat / 2 ^ 44 % 4096)).isSome then 0x14 else 0x12)
  else if spaceOf r.addr ≠ spaceOf (r.addr + 3) then fault 0x16
  else none

/-- Translate the requests of a metadata word: the sector of each address (R325, R372). -/
def State.metaTargets (s : State) (c : Ctx) (k : Access) (reqs : List Req) (go : State → List (Req × Target) → State × MemOut) :
    State × MemOut :=
  let own := reqs.filterMap fun r => (s.metaFault c r).map (r.slot, ·)
  let (s, ts, bad) := s.targetsFrom c 0 1 k false (reqs.filter fun r => !own.any (·.1 == r.slot)) [] []
  let all := reqs.filterMap fun r => (own ++ bad).find? fun e => e.1 == r.slot
  if all.isEmpty then go s ts else (s, raiseFault k all (ts.map fun (r, t) => (r.slot, t)))

def ldmAct (w : MemWord) (s : State) (c : Ctx) (reqs : List Req) : State × MemOut :=
  s.metaTargets c .read reqs fun s ts =>
    let value (t : Target) : BitVec 128 :=
      let (k, n) := s.metaOf (nth t.bytes 0 .zero)
      BitVec.ofNat 128 (((s.mem.sectorMeta.look k).getD 0#28).toNat % 2 ^ n)
    (s.peerMessage c ts, .done (ts.flatMap fun (r, t) => c.slotWrites (.ldm w) r.slot (value t)) 0#32
      (if ts.any fun x => s.targetDown x.2 then some 0 else none))

/-- LDM (R325). -/
def execLdm (w : MemWord) (s : State) : Host.Outcome State Fault Refusal := s.issueWord (.ldm w) (symMemBody (.ldm w) w.offset (ldmAct w))

def stmAct (s : State) (c : Ctx) (reqs : List Req) : State × MemOut :=
  s.metaTargets c .write reqs fun s ts =>
    let write (s : State) (x : Req × Target) : State :=
      if s.targetDown x.2 then s.consumeStore c.uid c.core c.tenant
      else (s.markDirty x.2.leaves).setMeta (nth x.2.bytes 0 .zero) x.1.data.toNat
    let s := ts.foldl write (s.peerTraffic c.cluster c.tenant (ts.map (·.2)))
    (s.peerStore c ts, .done [] 0#32 none)

/-- STM (R372). -/
def execStm (w : MemWord) (s : State) : Host.Outcome State Fault Refusal := s.issueWord (.stm w) (warpMemBody (.stm w) w.offset stmAct)

/-! Prefetch (R349) -/

/-- Fill the line that holds an address: never a fault, no A bit, no peer or remote line; nothing where SEG.G is not enabled (R76). -/
def State.prefetch (s : State) (c : Ctx) (a : Int) : State :=
  let q := c.requester.peek
  match (s.globalTarget q .read false a 1).2 with
  | .error _ => s
  | .ok t =>
    if t.isPeer || !(c.seg 0).en then s
    else match t.shadow with
      | some x => s.fillView q c.cluster x
      | none => match t.bytes with
        | .phys pa :: _ => (List.range 4).foldl (fun s k =>
            let b := pa / 128 * 128 + 32 * k
            if (s.cached c.cluster none (b / 128) (b / 32 % 4)).isSome then s
            else (s.touchHome (b / 32)).fillBase c.cluster b (t.stateOf (pa / 32))) s
        | _ => s

/-- A `pref` releases and stages nothing and enters no log: R150 names memory instructions, and whether it is one of those that wait for a
full log or a logged region is open; the model issues it at once (notes/assumptions/113.md). -/
def prefBody (w : MemWord) (s : State) (u : Issuer) (m : Word) : State × Ending :=
  let i := Instr.pref w
  let go : State := (s.capture u i (slotsOf m) w.offset).foldl (fun s r => s.prefetch u.ctx r.addr) s
  if u.symbolic then
    match u.sguard i, (u.ctx.sym u.clause.stage).word i with
    | .uni _, some _ => (go, .done)
    | _, _ => s.makeConcrete u
  else (go, .done)

/-- PREF (R349). -/
def execPref (w : MemWord) (s : State) : Host.Outcome State Fault Refusal := s.issueWord (.pref w) (prefBody w)

end Sys2Proof.Machine
end

