-- ==== Sys2Proof/Machine/Warp.lean ====
section
/-! DEFINITION. Words across slots, special registers, markers, segments and register growth (R274, R277, R318, R319, R329-R331,
R353-R356, R358, R360-R362, R364, R365, R381). -/

namespace Sys2Proof.Machine

/-- A word that materialises a trunk or limb. -/
def warpBody (f : State → Issuer → Word → State × Ending) (s : State) (u : Issuer) (m : Word) : State × Ending :=
  if u.symbolic then s.makeConcrete u else f s u m

/-- A word that Table 2.6 covers: a trunk or limb performs it once over U operands (R27, R268). -/
def coveredBody (i : Instr) (f : State → Issuer → Word → State × Ending) (s : State) (u : Issuer) (m : Word) : State × Ending :=
  if u.symbolic then
    match u.sguard i, (u.ctx.sym u.clause.stage).word i with
    | .uni _, some _ => f s u m
    | _, _ => s.makeConcrete u
  else f s u m

/-- A word done with one uniform result at every active slot; without an active slot it does nothing. -/
def uniformResult (i : Instr) (r : State → Issuer → Word → BitVec 128 × Word) (s : State) (u : Issuer) (m : Word) : State × Ending :=
  if m = 0#32 then (s, .done)
  else
    let (x, f) := r s u m
    (s, .on (u.result i m x) f none)

/-! Votes and masks -/

/-- BALLOT (R274). -/
def ballotBody (w : RegWord) : State → Issuer → Word → State × Ending :=
  uniformResult (.ballot w) fun _ u m => ((maskOf ((slotsOf m).filter fun t => u.ctx.readP t w.a.toNat)).setWidth 128, 0#32)
def execBallot (w : RegWord) (s : State) : Host.Outcome State Fault Refusal := s.issueWord (.ballot w) (warpBody (ballotBody w))

/-- VOTE (R381). -/
def voteBody (w : RegWord) : State → Issuer → Word → State × Ending :=
  uniformResult (.vote w) fun _ u m =>
    let vs := (slotsOf m).map fun t => u.ctx.readP t w.a.toNat
    let r := match w.modAt 17 2 with
      | 0 => vs.all id
      | 1 => vs.any id
      | _ => vs.all id || !vs.any id
    (if r then 1#128 else 0#128, 0#32)
def execVote (w : RegWord) (s : State) : Host.Outcome State Fault Refusal := s.issueWord (.vote w) (warpBody (voteBody w))

/-- A result of its own for each active slot. -/
def slotResults (i : Instr) (r : State → Issuer → Word → Nat → BitVec 128) (s : State) (u : Issuer) (m : Word) : State × Ending :=
  (s, .on ((slotsOf m).flatMap fun t => u.writes [t] i.rules.d i.codes.1 (r s u m t)) 0#32 none)

/-- MATCH (R331). -/
def matchBody (w : RegWord) : State → Issuer → Word → State × Ending :=
  let i := Instr.matchEq w
  slotResults i fun s u m t => (maskOf ((slotsOf m).filter fun k => s.argA u i k == s.argA u i t)).setWidth 128
def execMatchEq (w : RegWord) (s : State) : Host.Outcome State Fault Refusal := s.issueWord (.matchEq w) (warpBody (matchBody w))

/-- SHFL (R365, Table 2.7). -/
def shflBody (w : RegWord) : State → Issuer → Word → State × Ending :=
  let i := Instr.shfl w
  slotResults i fun s u _ t => (s.readSlot u.ctx (shflSource (w.modAt 17 2) t ((s.argB u i t).toNat % 2 ^ 32)) 1 w.a).setWidth 128
def execShfl (w : RegWord) (s : State) : Host.Outcome State Fault Refusal := s.issueWord (.shfl w) (warpBody (shflBody w))

/-! Reductions and scans (Table 16.10) -/

/-- The identity of an operation and type. -/
def opIdentity (opc fmt : Nat) : Nat :=
  match opc, fmt with
  | 0, 0 => 0x80000000
  | 0, _ => 0
  | 1, 0 | 6, 0 => 0x7F800000
  | 1, 8 | 6, 8 => 0x7FFFFFFF
  | 1, 9 | 6, 9 => 0xFFFFFFFF
  | 1, _ | 6, _ => 0x7FFFFFFFFFFFFFFF
  | 2, 0 | 7, 0 => 0xFF800000
  | 2, 8 | 7, 8 => 0x80000000
  | 2, 9 | 7, 9 => 0
  | 2, _ | 7, _ => 0x8000000000000000
  | 3, 10 => 0xFFFFFFFFFFFFFFFF
  | 3, _ => 0xFFFFFFFF
  | _, _ => 0

/-- One step of an operation; FP32 add rounds RN, min and max follow R294. -/
def opStep (opc fmt : Nat) (acc : Coded) (x : Nat) : Coded :=
  if fmt = 0 then
    let r : Coded := match opc with
      | 0 => floatAdd 0 0 false acc.1 x
      | 1 => floatMinMax false false acc.1 x
      | _ => floatMinMax true false acc.1 x
    (r.1, acc.2 ||| r.2)
  else (atomNew opc fmt acc.1 x 0, acc.2)

/-- A value as an integer of a type, for the index forms. -/
def typedInt (fmt x : Nat) : Int := if fmt = 9 then ((x % 2 ^ 32 : Nat) : Int) else sextNat x 32

/-- `redux` over the contributions, (slot, value), in ascending slots (R358): result and flags. -/
def reduxResult (opc fmt : Nat) (xs : List (Nat × Nat)) : BitVec 128 × Word :=
  if opc = 6 ∨ opc = 7 then
    let best := xs.foldl (fun (b : Nat × Nat) x =>
      let better := if opc = 6 then typedInt fmt x.2 < typedInt fmt b.1 else typedInt fmt b.1 < typedInt fmt x.2
      if b.2 = 0x3F ∨ better then (x.2, x.1) else b) (opIdentity opc fmt, 0x3F)
    (BitVec.ofNat 128 (best.2 * 2 ^ 32 + best.1), 0#32)
  else if opc = 0 ∧ fmt = 0 then
    let (v, f) := sumVal 0 ((0x80000000 :: xs.map (·.2)).map fun x => decodeVal 0 x false)
    let (c, g) := roundVal 0 0 false v
    (BitVec.ofNat 128 c, f ||| g)
  else
    let r := xs.foldl (fun acc x => opStep opc fmt acc x.2) (opIdentity opc fmt, 0#32)
    (BitVec.ofNat 128 r.1, r.2)

/-- REDUX (R358). -/
def reduxBody (w : RegWord) : State → Issuer → Word → State × Ending :=
  let i := Instr.redux w
  uniformResult i fun s u m =>
    reduxResult (w.modAt 17 4) w.fmt.toNat (((slotsOf m).filter fun t => u.ctx.readP t w.c.toNat).map fun t => (t, (s.argA u i t).toNat))
def execRedux (w : RegWord) (s : State) : Host.Outcome State Fault Refusal := s.issueWord (.redux w) (warpBody (reduxBody w))

/-- `scan` over (slot, segment head, value): the results by slot, and flags (R362). -/
def scanResults (opc fmt : Nat) (excl : Bool) (xs : List (Nat × Bool × Nat)) : List (Nat × Nat) × Word :=
  let r := xs.foldl (fun (st : List (Nat × Nat) × Coded) x =>
    let acc : Coded := if x.2.1 then (opIdentity opc fmt, st.2.2) else st.2
    let next := opStep opc fmt acc x.2.2
    (st.1 ++ [(x.1, if excl then acc.1 else next.1)], next)) ([], (opIdentity opc fmt, 0#32))
  (r.1, r.2.2)

/-- SCAN (R362). -/
def scanWordBody (w : RegWord) (s : State) (u : Issuer) (m : Word) : State × Ending :=
  let i := Instr.scan w
  let head (t : Nat) : Bool := w.modAt 21 1 == 1 && u.ctx.readP t w.c.toNat
  let (rs, f) := scanResults (w.modAt 17 3) w.fmt.toNat (w.modAt 20 1 == 1)
    ((slotsOf m).map fun t => (t, head t, (s.argA u i t).toNat))
  (s, .on (rs.flatMap fun (t, x) => u.writes [t] i.rules.d w.d (BitVec.ofNat 128 x)) f none)
def execScan (w : RegWord) (s : State) : Host.Outcome State Fault Refusal := s.issueWord (.scan w) (warpBody (scanWordBody w))

/-- ISECT (R203, R319): matches per slot, and the advance counts of a merge. -/
def isectBody (w : RegWord) (s : State) (u : Issuer) (m : Word) : State × Ending :=
  let i := Instr.isect w
  let slots := slotsOf m
  let p (t : Nat) : Nat := (s.argA u i t).toNat % 2 ^ 32
  let q (t : Nat) : Nat := (s.argB u i t).toNat % 2 ^ 32
  let hit (t : Nat) : Word := match slots.find? fun k => q k == p t with | some k => word (2 ^ 31 + k) | none => 0#32
  match slots.getLast? with
  | none => (s, .done)
  | some z =>
    let top := min (p z) (q z)
    let np := (slots.filter fun t => p t ≤ top).length
    let nq := (slots.filter fun t => q t ≤ top).length
    (s, .on ((slots.map fun t => .v t w.d.toNat (hit t)) ++ [.s (w.c.toNat - 0xC0) (word (nq * 2 ^ 16 + np))]) 0#32 none)
def execIsect (w : RegWord) (s : State) : Host.Outcome State Fault Refusal := s.issueWord (.isect w) (warpBody (isectBody w))

/-- floor(log2 of the magnitude) of a value, none for zero. -/
def floorLog2 : Val → Option Int
  | .fin _ m e => if m = 0 then none else some (e + (bitLen m : Nat) - 1)
  | _ => none

/-- The block exponent of `bexp` (R277), and its flags. -/
def blockExp (emax : Int) (vs : List Val) : Nat × Word :=
  let inf := vs.any fun v => match v with | .inf _ => true | _ => false
  let logs := vs.filterMap floorLog2
  let number := vs.any fun v => match v with | .fin .. => true | _ => false
  if inf || !number then (0xFF, flagInv)
  else match logs with
    | [] => (0x7F, 0#32)
    | x :: r => ((max 0 (min 0xFE (r.foldl max x - emax + 127))).toNat, 0#32)

/-- BEXP (R277). -/
def bexpBody (w : RegWord) (s : State) (u : Issuer) (m : Word) : State × Ending :=
  let i := Instr.bexp w
  let emax : Int := match w.fmt.toNat with | 3 => 8 | 4 => 15 | _ => 4
  let rs := (List.range 4).map fun b =>
    let slots := (slotsOf m).filter fun t => t / 8 == b
    let r := blockExp emax (slots.map fun t => decodeVal 0 ((s.argA u i t).toNat % 2 ^ 32) w.ftz)
    (slots, if slots.isEmpty then (0, 0#32) else r)
  (s, .on (rs.flatMap fun x => u.writes x.1 i.rules.d w.d (BitVec.ofNat 128 x.2.1)) (rs.foldl (fun f x => f ||| x.2.2) 0#32) none)
def execBexp (w : RegWord) (s : State) : Host.Outcome State Fault Refusal := s.issueWord (.bexp w) (warpBody (bexpBody w))

/-! Special registers (R354, Table 16.8) -/

def formCode : CtxKind → Nat
  | .trunk => 0 | .limb => 1 | .warp => 2 | .leaf => 3 | .comp => 0

/-- The value of a special register at a slot. -/
def State.special (s : State) (c : Ctx) (t n : Nat) : Dbl :=
  let trap (f : TrapState → Dbl) : Dbl := match c.trap with | some x => f x | none => 0#64
  let group (f : Group → Nat) : Dbl := match s.groupOf c with | some g => dbl (f g) | none => 0#64
  if n = 0x00 then dbl t
  else if n = 0x01 then dbl c.warpNo
  else if n = 0x02 then group (·.number)
  else if n = 0x03 then (match s.gangOf c with | some g => dbl g.number | none => 0#64)
  else if n = 0x04 then dbl c.cluster
  else if n = 0x05 then dbl c.lane
  else if n = 0x06 then dbl c.bind
  else if n = 0x07 then dbl (formCode c.kind)
  else if n < 0x0C then dbl (nth c.box.los (n - 0x08) 0)
  else if n < 0x10 then dbl (nth c.box.his (n - 0x0C) 0)
  else if n = 0x10 then dbl (s.cyc c.core)
  else if n = 0x11 then c.astat.setWidth 64
  else if n = 0x12 then dbl c.tenant
  else if n = 0x13 then trap fun x => x.code.setWidth 64
  else if n = 0x14 then trap (·.pc)
  else if n = 0x15 then trap fun x => x.word.setWidth 64
  else if n = 0x16 then trap (·.addr)
  else if n = 0x17 then trap (·.bva)
  else if n = 0x18 then trap fun x => x.mask.setWidth 64
  else if n = 0x19 then trap fun x => x.log.setWidth 64
  else if n = 0x1A then dbl (s.itemNo c t)
  else if n = 0x1B then c.thand
  else if n = 0x1C then trap (·.ret)
  else 0#64

/-- Earlier words of a context may still raise flags (R175): a result in flight, or a logged word. One that path `id` itself, which reads,
has to settle in its handler is passed over: its handler is entered at the boundary after the read, or makes it
(notes/assumptions/97.md). -/
def Ctx.flagsOpen (c : Ctx) (id : Nat) : Bool :=
  !c.inflight.isEmpty || c.log.any fun (_, e) => match e.state with
    | .parked | .resolved => true
    | .toDeliver | .held => !c.owns id e

/-- RDSR (R354, R355): a read of ASTAT waits for the flags of earlier words (R175); with CLR, ASTAT is cleared in the same commit. -/
def rdsrBody (w : RegWord) (s : State) (u : Issuer) (m : Word) : State × Ending :=
  let i := Instr.rdsr w
  let n := w.a.toNat
  if u.symbolic then
    match u.sguard i, (u.ctx.sym u.clause.stage).word i with
    | .uni b, some _ => (s, if b then .on (u.writes [0] i.rules.d w.d ((s.special u.ctx 0 n).setWidth 128)) 0#32 none else .done)
    | _, _ => s.makeConcrete u
  else if n == 0x11 && m != 0#32 && u.ctx.flagsOpen u.path.id then (s, .hold)
  else
    let ws := (u.actSlots i m).flatMap fun t => u.writes [t] i.rules.d w.d ((s.special u.ctx t n).setWidth 128)
    let s := if w.modAt 17 1 = 1 && m != 0#32 then s.changeCtx u.key fun c => { c with astat := 0#32 } else s
    (s, .on ws 0#32 none)
def execRdsr (w : RegWord) (s : State) : Host.Outcome State Fault Refusal := s.issueWord (.rdsr w) (rdsrBody w)

/-- MARK (R330): one Galley record. -/
def markBody (w : ImmWord) (s : State) (u : Issuer) (m : Word) : State × Ending :=
  let i := Instr.mark w
  let rec_ (x : Dbl) : State := s.galleyCtx u.ctx 0 (BitVec.ofNat 8 (w.imm.toNat % 64)) x
  let pay := w.imm.getLsbD 8
  if u.symbolic then
    match u.sguard i, (u.ctx.sym u.clause.stage).value i.rules.a w.a with
    | .uni b, some x => (if b then rec_ (if pay then x else 0#64) else s, .done)
    | _, _ => s.makeConcrete u
  else match slotsOf m with
    | [] => (s, .done)
    | t :: _ => (rec_ (if pay then s.argA u i t else 0#64), .done)
def execMark (w : ImmWord) (s : State) : Host.Outcome State Fault Refusal := s.issueWord (.mark w) (markBody w)

/-! Segments (R364) -/

/-- Segment register as 128 bits, and back (R75). -/
def Seg.bits (g : Seg) : BitVec 128 := g.base ++ g.limit ++ (if g.en then 1#32 else 0#32)
def segOfBits (x : BitVec 128) : Seg := { base := x.extractLsb' 64 64, limit := x.extractLsb' 32 32, en := x.getLsbD 0 }

/-- SEGLD. -/
def segldBody (w : RegWord) : State → Issuer → Word → State × Ending :=
  warpOp fun s u t _ =>
    let g := segOfBits (s.readQuad u.ctx t w.a)
    (s.changeCtx u.key fun c => { c with segs := c.segs.set (w.modAt 17 3) g }, .done)
def execSegld (w : RegWord) (s : State) : Host.Outcome State Fault Refusal := s.issueWord (.segld w) (warpBody (segldBody w))

/-- SEGRD. -/
def segrdBody (w : RegWord) : State → Issuer → Word → State × Ending :=
  uniformResult (.segrd w) fun _ u _ => ((u.ctx.seg (w.modAt 17 3)).bits, 0#32)
def execSegrd (w : RegWord) (s : State) : Host.Outcome State Fault Refusal := s.issueWord (.segrd w) (warpBody (segrdBody w))

/-! Register growth (R61, R360, R361) -/

/-- Granules of a lane's bank that other bindings of a group hold. -/
def State.groupGranules (s : State) (c : Ctx) : Nat :=
  (((s.onLane c.cluster c.lane).filter fun x => x.uid != c.uid && x.group == c.group).map fun x => x.map.length).foldl (· + ·) 0

/-- RGROW (R360). -/
def rgrowBody (w : RegWord) : State → Issuer → Word → State × Ending :=
  warpEnd fun s u t m =>
    let i := Instr.rgrow w
    let g := (s.argA u i t).toNat % 2 ^ 32
    let h := u.ctx.map.length
    let end_ (x : Nat) : Ending := .goto u.clause.after .none (u.result i m (BitVec.ofNat 128 x))
    if 24 < h + g then (s, .trap 0x08#8 0#64 m)
    else if g = 0 then (s, end_ h)
    else if 32 < h + g + s.groupGranules u.ctx then (s, end_ 0)
    else (s, .goto u.clause.after (.grow g w.d m s.fCyc) [])
def execRgrow (w : RegWord) (s : State) : Host.Outcome State Fault Refusal := s.issueWord (.rgrow w) (warpBody (rgrowBody w))

/-- A result in flight without its writes to registers of freed granules (R361): they are dropped, its count stays. -/
def Inflight.shrunk (n : Nat) (e : Inflight) : Inflight := { e with writes := e.writes.filter (RegWrite.below (8 * n)) }
/-- A logged word whose writes to those registers will be dropped when it replays. -/
def LogEntry.shrunk (n : Nat) (e : LogEntry) : LogEntry := { e with limit := some (min (8 * n) (e.limit.getD (8 * n))) }

/-- RSHRINK (R361): granules are freed from the top; latch entries of freed rows are invalid. -/
def rshrinkBody (w : RegWord) : State → Issuer → Word → State × Ending :=
  warpOp fun s u t m =>
    let i := Instr.rshrink w
    let n := max 1 ((s.argA u i t).toNat % 2 ^ 32)
    let h := u.ctx.map.length
    let keep (e : Latch) : Bool := !(e.bind == u.key % 8 && decide (8 * n ≤ e.reg))
    let s := if n < h then
        (s.changeCtx u.key fun c => { c with
            map := c.map.take n
            inflight := c.inflight.map (Inflight.shrunk n)
            log := c.log.map fun x => (x.1, x.2.shrunk n) }).changeLane (u.key / 8) fun l =>
          { l with latch := l.latch.filter keep }
      else s
    (s, .on (u.result i m (BitVec.ofNat 128 (min n h))) 0#32 none)
def execRshrink (w : RegWord) (s : State) : Host.Outcome State Fault Refusal := s.issueWord (.rshrink w) (warpBody (rshrinkBody w))

/-- RGROW_GRANT (R61): requests of a lane's bank are served in the age order of their groups. Of several requests of one group, R61 names
no order: the model's choice is the lowest binding, then the path that comes first (notes/assumptions/98.md). A request that meanwhile
goes beyond 24 granules, because another path of the warp has grown, raises RGROW at its boundary (R71, R360). One that the growth of
its own group meanwhile puts beyond the bank waits on: that test is made at issue alone, the model's choice (notes/assumptions/107.md). -/
def execRgrowGrant (cluster lane : Nat) (s : State) : Host.Outcome State Fault Refusal :=
  let age (c : Ctx) : Nat × Nat := match s.groupOf c with | some g => (g.age, g.number) | none => (0, 0)
  let reqs := ((s.onLane cluster lane).filter fun c => !c.stopped).flatMap fun c => c.paths.filterMap fun p =>
    match p.wait with | .grow g d m _ => some (c, p, g, d, m) | _ => none
  let older (a b : Nat × Nat) : Bool := decide (a.1 < b.1 ∨ (a.1 = b.1 ∧ a.2 < b.2))
  let first := reqs.foldl (fun (best : Option (Ctx × Path × Nat × BitVec 8 × Word)) x =>
    match best with
    | none => some x
    | some y => if older (age x.1) (age y.1) then some x else some y) none
  match first with
  | none => .next s
  | some (c, p, g, d, m) =>
    let free := (s.freeGranules cluster lane).take g
    if 24 < c.map.length + g then
      let t : TrapState := { code := 0x08#8, pc := p.came, word := BitVec.ofNat 5 (((s.peekHeader c p.came).map (·.n)).getD 0), addr := 0#64,
                             bva := 0#64, mask := m, log := 0xF#4, ret := p.pc }
      .next (s.changeCtx c.key fun c => c.changePath p.id fun p => { p with wait := .none, deliver := some t })
    else if free.length < g then .next s
    else
      let s := s.zeroGranules cluster lane free
      let s := s.changeCtx c.key fun c => { (c.changePath p.id fun p => { p with wait := .none }) with map := c.map ++ free }
      .next (s.commitWrites c.key (c.writesAt d 1 m (dbl (c.map.length + g))))

/-! Pre-emption and copies, as read by warps -/

/-- PSIG (R353): in the pre-emption handler it declares what to keep, and the warp waits for the save. -/
def psigBody (w : RegWord) : State → Issuer → Word → State × Ending :=
  warpEnd fun s u t _ =>
    let i := Instr.psig w
    let regs := match s.node? u.ctx.node with | some n => (n.regs, n.scratchKib) | none => (0, 0)
    let k := min ((s.argA u i t).toNat % 2 ^ 32) regs.1
    let j := min ((s.argB u i t).toNat % 2 ^ 32) regs.2
    if u.ctx.pre == .handler && s.underPreemption u.ctx && u.ctx.trap.any (fun t => t.code == 0x07#8) then
      (s.changeCtx u.key fun c => { c with pre := .declared k j }, .goto u.clause.after .saving [])
    else (s, .goto u.clause.after .none [])
def execPsig (w : RegWord) (s : State) : Host.Outcome State Fault Refusal :=
  s.issueWord (.psig w) fun s u m => if u.symbolic then (s, .goto u.clause.after .none []) else psigBody w s u m

/-- A copy channel that has run nothing. -/
def Chan.fresh : Chan := { queue := [], wp := 0, count := 0 }
def State.chan (s : State) (cluster ch : Nat) : Chan := (s.eng.chans.look (4 * cluster + ch)).getD Chan.fresh
def State.setChan (s : State) (cluster ch : Nat) (f : Chan → Chan) : State :=
  { s with eng := { s.eng with chans := s.eng.chans.put (4 * cluster + ch) (f (s.chan cluster ch)) } }

/-- RDWP (R356): the write pointer below the copies started. -/
def rdwpBody (w : RegWord) : State → Issuer → Word → State × Ending :=
  uniformResult (.rdwp w) fun s u _ =>
    let c := s.chan u.ctx.cluster (w.modAt 17 2)
    (BitVec.ofNat 128 (c.count % 2 ^ 32 * 2 ^ 32 + c.wp % 2 ^ 32), 0#32)
def execRdwp (w : RegWord) (s : State) : Host.Outcome State Fault Refusal := s.issueWord (.rdwp w) (warpBody (rdwpBody w))

end Sys2Proof.Machine
end

