-- ==== Sys2Proof/Machine/Sync.lean ====
section
/-! DEFINITION. Fences, cache words, barriers of groups and gangs, named barriers and barrier objects as words (R275, R276, R285,
R299, R300, R304-R307, R340). -/

namespace Sys2Proof.Machine

/-- FENCE (R299, R300). -/
def fenceBody (w : RegWord) (s : State) (u : Issuer) (_m : Word) : State × Ending :=
  let order := w.modAt 17 2
  if isRelease order && s.releaseWaits u.ctx then (s, .hold) else (s.fenceBy u.ctx order (w.modAt 19 3), .done)
def execFence (w : RegWord) (s : State) : Host.Outcome State Fault Refusal := s.issueWord (.fence w) (fenceBody w)

/-- Where an address of a cache word lies, when it translates to memory of this package (R285). -/
def State.cacheTarget (s : State) (c : Ctx) (a : Dbl) : Option Target :=
  match (s.globalTarget c.requester.peek .read false (a.toNat : Int) 1).2 with
  | .ok t => if t.isPeer then none else some t
  | .error _ => none

/-- CINV (R285): the sectors of a line leave the cluster cache. -/
def cinvBody (w : RegWord) (s : State) (u : Issuer) (m : Word) : State × Ending :=
  let drop (s : State) (t : Nat) : State :=
    match s.cacheTarget u.ctx (s.argA u (.cinv w) t) with
    | none => s
    | some x => match x.shadow, x.bytes with
      | some a, _ => s.dropSectors fun l _ _ => l.cluster == u.ctx.cluster && l.view.isSome && l.line == a / 128
      | none, .phys pa :: _ => s.dropSectors fun l _ _ => l.cluster == u.ctx.cluster && l.view.isNone && l.line == pa / 128
      | none, _ => s
  ((slotsOf m).foldl drop s, .done)
def execCinv (w : RegWord) (s : State) : Host.Outcome State Fault Refusal := s.issueWord (.cinv w) (warpBody (cinvBody w))

/-- CWB (R285): the lines of the core's merge buffer that hold bytes of a line drain. -/
def cwbBody (w : RegWord) (s : State) (u : Issuer) (m : Word) : State × Ending :=
  let drain (s : State) (t : Nat) : State :=
    match s.cacheTarget u.ctx (s.argA u (.cwb w) t) with
    | none => s
    | some x => match x.shadow, x.bytes with
      | some a, _ => s.drainWhere fun l => l.core == u.ctx.core && l.space == 1 && l.line == a / 128
      | none, .phys pa :: _ => s.drainWhere fun l => l.core == u.ctx.core && l.space == 0 && l.line == pa / 128
      | none, _ => s
  ((slotsOf m).foldl drain s, .done)
def execCwb (w : RegWord) (s : State) : Host.Outcome State Fault Refusal := s.issueWord (.cwb w) (warpBody (cwbBody w))

/-! Group and gang barriers (R305, R306) -/

/-- Items of a context's slots. -/
def State.items (s : State) (c : Ctx) (m : Word) : List Nat := (slotsOf m).map (s.itemNo c)

/-- GANG (R305): arrive without waiting; D is the generation. -/
def gangBody (w : RegWord) (s : State) (u : Issuer) (m : Word) : State × Ending :=
  if s.releaseWaits u.ctx then (s, .hold)
  else
    let s := s.releaseCore u.ctx 2
    match s.gangKey u.ctx, s.gangOf u.ctx with
    | some k, some g => (s.arriveGang k (s.items u.ctx m), .on (u.result (.gang w) m (g.gen.setWidth 128)) 0#32 none)
    | _, _ => (s, .done)
def execGang (w : RegWord) (s : State) : Host.Outcome State Fault Refusal := s.issueWord (.gang w) (warpBody (gangBody w))

/-- GBAR (R306). -/
def gbarBody (w : RegWord) (s : State) (u : Issuer) (m : Word) : State × Ending :=
  let after := u.clause.after
  if w.modAt 17 1 = 0 then
    if s.releaseWaits u.ctx then (s, .hold)
    else
      let s := s.releaseCore u.ctx 1
      match u.ctx.group, s.groupOf u.ctx with
      | some k, some g => (s.arriveGroup k (s.items u.ctx m), .goto after (.groupBar g.gen) [])
      | _, _ => (s, .goto after .none [])
  else
    match slotsOf m, s.gangKey u.ctx, s.gangOf u.ctx with
    | t :: _, some k, some g =>
      let token : Word := (s.argA u (.gbar w) t).setWidth 32
      if token = g.gen then
        if s.releaseWaits u.ctx then (s, .hold)
        else ((s.releaseCore u.ctx 2).arriveGang k (s.items u.ctx m), .goto after (.gangBar token) [])
      else (s.acquireCluster u.ctx.cluster 2, .goto after .none [])
    | _, _, _ => (s, .goto after .none [])
def execGbar (w : RegWord) (s : State) : Host.Outcome State Fault Refusal := s.issueWord (.gbar w) (warpBody (gbarBody w))

/-! Named barriers (R340) -/

def Named.fresh : Named := { exp := 0, cnt := 0, gen := 0#32 }

/-- `n` slots arrive at a named barrier; `exp` counts from the first arrival of a generation. -/
def Named.arrive (b : Named) (exp n : Nat) : Named :=
  let e := if b.cnt = 0 then min exp 1024 else b.exp
  if e ≤ b.cnt + n then { exp := e, cnt := 0, gen := b.gen + 1#32 } else { exp := e, cnt := b.cnt + n, gen := b.gen }

/-- NBAR (R340). -/
def nbarBody (w : RegWord) : State → Issuer → Word → State × Ending :=
  warpEnd fun s u t m =>
    let i := Instr.nbar w
    if s.releaseWaits u.ctx then (s, .hold)
    else
      let s := s.releaseCore u.ctx 1
      let id := (s.argA u i t).toNat % 16
      let n := (s.argB u i t).toNat % 2 ^ 32
      match u.ctx.group, s.groupOf u.ctx with
      | some k, some g =>
        let b := (g.named.look id).getD Named.fresh
        let s := s.changeGroup k fun g => { g with named := g.named.put id (b.arrive n (slotsOf m).length) }
        (s, .goto u.clause.after (if w.modAt 17 1 = 0 then .named id b.gen else .none) [])
      | _, _ => (s, .goto u.clause.after .none [])
def execNbar (w : RegWord) (s : State) : Host.Outcome State Fault Refusal := s.issueWord (.nbar w) (warpBody (nbarBody w))

/-! Barrier objects (R275): each acts on the one object that its lead slot names -/

/-- The lead slot's request and its object; a word that names none faults with SEGLIM (R84). -/
def State.withObject (s : State) (c : Ctx) (d : Bool) (reqs : List Req) (go : Req → Nat → State × MemOut) : State × MemOut :=
  match reqs with
  | [] => (s, .done [] 0#32 none)
  | r :: _ => match s.objectAt c d r.addr.toNat with
    | some k => go r k
    | none => (s, raiseFault .write [(r.slot, segFault 0x10 r.addr)])

def binitAct (w : RegWord) (s : State) (c : Ctx) (reqs : List Req) : State × MemOut :=
  s.withObject c (w.modAt 17 1 == 1) reqs fun r k => (s.initObj c.source k (r.b.toNat % 2 ^ 32), .done [] 0#32 none)
def execBinit (w : RegWord) (s : State) : Host.Outcome State Fault Refusal := s.issueWord (.binit w) (warpMemBody (.binit w) 0 (binitAct w))

def barvAct (w : RegWord) (s : State) (c : Ctx) (reqs : List Req) : State × MemOut :=
  if s.releaseWaits c then (s, .wait)
  else s.withObject c (w.modAt 17 1 == 1) reqs fun r k =>
    let s := s.releaseCore c 2
    let s := if c.isComp || s.ownScratch c k then s else s.endRelaunch c
    (s.arriveObj c.source k (r.b.toNat % 2 ^ 32), .done [] 0#32 none)
def execBarv (w : RegWord) (s : State) : Host.Outcome State Fault Refusal := s.issueWord (.barv w) (warpMemBody (.barv w) 0 (barvAct w))

/-- The acquire of an observed flip (R86, Table 7.5). -/
def State.observeFlip (s : State) (c : Ctx) (d : Bool) : State := s.acquireCluster c.cluster (if d then 2 else 3)

def btestAct (w : RegWord) (s : State) (c : Ctx) (reqs : List Req) : State × MemOut :=
  let d := w.modAt 17 1 == 1
  s.withObject c d reqs fun r k =>
    let f := s.objPhase k != r.b.getLsbD 0
    let x := if f then 1 + 256 * s.objErr k else 0
    (if f then s.observeFlip c d else s, .done (reqs.flatMap fun q => c.slotWrites (.btest w) q.slot (BitVec.ofNat 128 x)) 0#32 none)
def execBtest (w : RegWord) (s : State) : Host.Outcome State Fault Refusal := s.issueWord (.btest w) (warpMemBody (.btest w) 0 (btestAct w))

/-- A replayed `bwait`: its result once the object has flipped; of a compositor's, the object's gang is relaunchable no more (R209). -/
def bwaitAct (w : RegWord) (s : State) (c : Ctx) (reqs : List Req) : State × MemOut :=
  let d := w.modAt 17 1 == 1
  s.withObject c d reqs fun r k =>
    if s.objPhase k == r.b.getLsbD 0 then (s, .wait)
    else (s.seeFlip c k d, .done (reqs.flatMap fun q => c.slotWrites (.bwait w) q.slot (BitVec.ofNat 128 (s.objErr k))) 0#32 none)

/-- BWAIT (R275): the path waits until the object flips; where it has flipped there is nothing to wait for. -/
def bwaitBody (w : RegWord) : State → Issuer → Word → State × Ending :=
  warpEnd fun s u t m =>
    let i := Instr.bwait w
    let d := w.modAt 17 1 == 1
    match s.objectAt u.ctx d ((s.argA u i t).toNat % 2 ^ 32) with
    | some k =>
      let phase := (s.argB u i t).getLsbD 0
      if s.objPhase k == phase then (s, .goto u.clause.after (.object k phase d w.d m) [])
      else (s.seeFlip u.ctx k d, .goto u.clause.after .none (u.ctx.writesAt w.d 1 m (dbl (s.objErr k))))
    | none => memBody i 0 (bwaitAct w) s u m
def execBwait (w : RegWord) (s : State) : Host.Outcome State Fault Refusal := s.issueWord (.bwait w) (warpBody (bwaitBody w))

end Sys2Proof.Machine
end

