-- ==== Sys2Proof/Machine/Chains.lean ====
section
/-! DEFINITION. Words that reserve, publish and await entries of command chains (R53, R56, R283, R284, R366, R378). -/

namespace Sys2Proof.Machine

/-- The checks of `chapp` and `tsub`, and of `chsq` and `sqwait`, on a chain number (R56, R283, R284, R366). -/
def State.chainBad (s : State) (c : Ctx) (device : Bool) (chain : Nat) : Bool :=
  decide (255 < chain) || s.chainTenant chain != c.tenant
    || (device && (!s.chainDevice chain || (s.chainPrv chain && !c.priv)))

/-- The faults of a word's slots: PROT, TRADDR the chain number. -/
def State.chainFaults (s : State) (c : Ctx) (device : Bool) (reqs : List Req) : List (Nat × AFault) :=
  (reqs.filter fun r => s.chainBad c device r.addr.toNat).map fun r => (r.slot, { code := 0x1B, addr := r.addr.toNat, bva := 0, page := 0 })

/-- Reserve the next position of a chain: its sequence number, its entry's VA and PHASE; none when the ring is full. -/
def State.reserve (s : State) (c : Ctx) (chain : Nat) : State × Option (Nat × Nat × Nat) :=
  let p := s.chainTail chain
  let n := s.chainRing chain
  if p - s.chainSeq chain = n then (s, none)
  else
    let s := (s.setCcb chain 0x10 (p + 1)).send (hubRecorder 0) c.tenant 3 0 .publish (publishKey chain p)
    (s, some (p + 1, s.chainBase chain + 16 * (p % n), 1 - p / n % 2))

def chappAct (w : RegWord) (s : State) (c : Ctx) (reqs : List Req) : State × MemOut :=
  let bad := s.chainFaults c true reqs
  if !bad.isEmpty then (s, raiseFault .atomic bad)
  else
    let (s, ws) := reqs.foldl (fun (acc : State × List RegWrite) r =>
      let (s, x) := acc.1.reserve c r.addr.toNat
      let v : BitVec 128 := match x with
        | some (q, e, ph) => BitVec.ofNat 128 (q * 2 ^ 64 + (e + ph) % 2 ^ 64)
        | none => 0#128
      (s, acc.2 ++ c.slotWrites (.chapp w) r.slot v)) (s.endRelaunch c, [])
    (s, .done ws 0#32 none)
/-- CHAPP (R283). -/
def execChapp (w : RegWord) (s : State) : Host.Outcome State Fault Refusal := s.issueWord (.chapp w) (warpMemBody (.chapp w) 0 (chappAct w))

def chsqAct (w : RegWord) (s : State) (c : Ctx) (reqs : List Req) : State × MemOut :=
  let bad := s.chainFaults c false reqs
  if !bad.isEmpty then (s, raiseFault .read bad)
  else
    (s.acquireCluster c.cluster 5,
     .done (reqs.flatMap fun r => c.slotWrites (.chsq w) r.slot (BitVec.ofNat 128 (s.chainSeq r.addr.toNat))) 0#32 none)
/-- CHSQ (R284). -/
def execChsq (w : RegWord) (s : State) : Host.Outcome State Fault Refusal := s.issueWord (.chsq w) (warpMemBody (.chsq w) 0 (chsqAct w))

/-- Write one 16-byte entry in the address space of the chain's tenant. A write that does not translate is lost, and the walker
finds the entry invalid (notes/assumptions/17.md). -/
def State.writeEntry (s : State) (c : Ctx) (va : Nat) (node : Dbl) (phase : Nat) : State :=
  let (s, r) := s.globalTarget { c.requester with priv := true } .write false (va : Int) 16
  match r with
  | .error _ => s
  | .ok t => s.writeHome t (bytesOf 8 node.toNat ++ bytesOf 8 phase) [] (some c.cluster) (some c.storer)

def tsubAct (w : RegWord) (s : State) (c : Ctx) (reqs : List Req) : State × MemOut :=
  let bad := s.chainFaults c true reqs
  if !bad.isEmpty then (s, raiseFault .atomic bad)
  else if s.releaseWaits c then (s, .wait)
  else
    let (s, ws) := reqs.foldl (fun (acc : State × List RegWrite) r =>
      let (s, x) := acc.1.reserve c r.addr.toNat
      match x with
      | some (q, e, ph) => (s.writeEntry c e r.b ph, acc.2 ++ c.slotWrites (.tsub w) r.slot (BitVec.ofNat 128 q))
      | none => (s, acc.2 ++ c.slotWrites (.tsub w) r.slot 0#128)) (s.releaseCore c 5, [])
    (s, .done ws 0#32 none)
/-- TSUB (R378). -/
def execTsub (w : RegWord) (s : State) : Host.Outcome State Fault Refusal := s.issueWord (.tsub w) (warpMemBody (.tsub w) 0 (tsubAct w))

/-- A replayed `sqwait`. -/
def sqwaitAct (w : RegWord) (s : State) (c : Ctx) (reqs : List Req) : State × MemOut :=
  match reqs with
  | [] => (s, .done [] 0#32 none)
  | r :: _ =>
    let bad := s.chainFaults c false [r]
    let q := s.chainSeq r.addr.toNat
    if !bad.isEmpty then (s, raiseFault .read bad)
    else if q < r.b.toNat then (s, .wait)
    else (s.acquireCluster c.cluster 5, .done (reqs.flatMap fun x => c.slotWrites (.sqwait w) x.slot (BitVec.ofNat 128 q)) 0#32 none)

/-- SQWAIT (R366): the path waits for the chain's CSEQ. -/
def sqwaitBody (w : RegWord) : State → Issuer → Word → State × Ending :=
  warpEnd fun s u t m =>
    let i := Instr.sqwait w
    let chain := (s.argA u i t).toNat % 2 ^ 32
    if s.chainBad u.ctx false chain then memBody i 0 (sqwaitAct w) s u m
    else (s, .goto u.clause.after (.chain chain (s.argB u i t).toNat w.d m) [])
def execSqwait (w : RegWord) (s : State) : Host.Outcome State Fault Refusal := s.issueWord (.sqwait w) (warpBody (sqwaitBody w))

end Sys2Proof.Machine
end

