-- ==== Sys2Proof/Machine/Copy.lean ====
section
/-! DEFINITION. Copies: the words that queue them, copy channels, and what an engine operation does when it fails (R65, R82, R83, R86,
R102, R152, R286-R288). -/

namespace Sys2Proof.Machine

/-! Failure of engine operations (R152, R65) -/

/-- An engine operation of a node fails: a node of its own completes with a code; a kernel's node keeps the first code and DETAIL. -/
def State.engineFails (s : State) (node : Nat) (own : Bool) (code : BitVec 8) (detail : Nat) : State :=
  if own then s.failNode node code detail
  else s.changeNode node fun n => if n.engineFail.isNone then { n with engineFail := some (code, BitVec.ofNat 48 detail) } else n

/-- The FLOG record of an engine fault. -/
def State.engineFlog (s : State) (recorder node : Nat) (f : AFault) : State :=
  s.galleyNode recorder node 1 0x01#8 (dbl (f.code * 2 ^ 56 + f.addr % 2 ^ 56))

/-- How moving bytes ends. -/
inductive Moved where
  | done
  | fault (f : AFault)
  | lost
  deriving DecidableEq, Repr

/-- Who translates for an engine of a cluster (R145). -/
def engineRequester (tenant cluster : Nat) (priv : Bool) : Requester :=
  { tenant := tenant, priv := priv, cluster := some cluster, unit := some (.walk cluster) }

/-- One byte of a place. -/
def State.placeByte (s : State) (q : Requester) (k : Access) (p : Place) (i : Int) : State × Except AFault Target :=
  match p with
  | .va a => s.engineByte q k (a + i)
  | .store c a => (s, .ok (storeTargetAt c (a + i).toNat 1))

/-- Locations of `n` bytes from a place on, or the fault of the lowest that does not translate. -/
def State.placeBytes (s : State) (q : Requester) (k : Access) (p : Place) (i : Int) : Nat → Target → State × Except AFault Target
  | 0, t => (s, .ok t)
  | n + 1, t =>
    let (s, r) := s.placeByte q k p i
    match r with
    | .error f => (s, .error f)
    | .ok x => s.placeBytes q k p (i + 1) n
        { bytes := t.bytes ++ x.bytes, csts := t.csts ++ x.csts, leaves := nubNat (t.leaves ++ x.leaves), shadow := none }

/-- The composed lines that an engine reads are composed whole (R107): their base sectors come to their home slices; one with base
sectors in pages of more than one state faults (R99). -/
def State.engineLines (s : State) (q : Requester) (a : Int) (n : Nat) : State × Option AFault :=
  let lines := nubNat ((List.range n).filterMap fun i => if spaceOf (a + i) = .shadow then some ((a + i).toNat / 128) else none)
  lines.foldl (fun acc l =>
    let (s, bad) := acc
    if bad.isSome then (s, bad)
    else
      let (s, bs) := s.composed q l
      if mixedStates (lineStates bs) then
        let x := max a.toNat (l * 128)
        (s, some { code := 0x20, addr := x, page := 0,
                   bva := match s.ownView q.tenant (x / 2 ^ 44 % 4096) with | some v => s.firstBase q v (x % 2 ^ 44) 128 | none => 0 })
      else (s.touchLine bs, none)) (s, none)
def Place.va? (p : Place) (i : Int) : Option Int := match p with | .va a => some (a + i) | .store _ _ => none
/-- An engine's access as its messages to another package see it. -/
def Place.seen (p : Place) (i : Int) (t : Target) : Target :=
  { t with shadow := (p.va? i).bind fun a => if spaceOf a = .shadow then some a.toNat else none }

/-- Locations that an engine reads from. -/
def State.sourceBytes (s : State) (q : Requester) (p : Place) (i : Int) (n : Nat) : State × Except AFault Target :=
  let (s, a) := s.placeBytes q .read p i n Target.empty
  match a, p.va? i with
  | .ok t, some v =>
    let (s, bad) := s.engineLines q v n
    (s, match bad with | some f => .error f | none => .ok t)
  | a, _ => (s, a)

/-- Move `n` bytes from one place to another for an engine; poison moves with them. -/
def State.moveBytes (s : State) (q : Requester) (cluster : Nat) (src dst : Place) (si di : Int) (n : Nat) : State × Moved :=
  let (s, a) := s.sourceBytes q src si n
  match a with
  | .error f => (s, .fault f)
  | .ok a =>
    let (s, b) := s.placeBytes q .write dst di n Target.empty
    match b with
    | .error f => (s, .fault f)
    | .ok b =>
      if s.targetDown a || s.targetDown b then (s, .lost)
      else
        let (s, us) := s.readUnits a
        let s := s.writeHome b (us.map (·.1)) (us.map (·.2.isSome)) (some cluster) none
        (s.peerTraffic cluster q.tenant [src.seen si a, dst.seen di b], .done)

/-! The words (R286, R288) -/

/-- A range of scratch named by an offset lies within its segment. -/
def Ctx.rangeOk (c : Ctx) (off n : Nat) : Bool := (c.seg 1).en && decide (off + n ≤ (c.seg 1).limit.toNat)

/-- A copy as queued. -/
def Ctx.copyOp (c : Ctx) (src dst : Place) (rowb : Nat) (record : Option Dbl) (obj : Option ObjRef) (issued : Nat) : CopyOp :=
  { src := src, dst := dst, sstride := 0, dstride := 0, rowb := rowb, rows := 1, wp := 0, started := false, record := record, obj := obj, issued := issued,
    node := c.node, group := c.group, owner := c.uid, tenant := c.tenant, priv := c.priv, recorder := c.core, held := false }

/-- Queue a copy; it is a release at cluster scope that counts at gang scope (R130, R209). -/
def State.queueCopy (s : State) (c : Ctx) (ch : Nat) (op : CopyOp) : State × MemOut :=
  if 16 ≤ (s.chan c.cluster ch).queue.length || s.releaseWaits c then (s, .wait)
  else ((s.releaseCore c 2).setChan c.cluster ch fun x => { x with queue := x.queue ++ [op] }, .done [] 0#32 none)

def cpyAct (w : RegWord) (s : State) (c : Ctx) (reqs : List Req) : State × MemOut :=
  match reqs with
  | [] => (s, .done [] 0#32 none)
  | r :: _ =>
    let n := r.b.toNat % 2 ^ 32
    let o := r.c.toNat % 2 ^ 32
    let so := r.a.toNat % 2 ^ 32
    let d := r.data.toNat % 2 ^ 32
    let sseg := w.modAt 18 1 == 1
    let dseg := w.modAt 17 1 == 1
    let bad (off : Nat) : State × MemOut := (s, raiseFault .write [(r.slot, segFault 0x10 off)])
    match s.objectAt c (w.modAt 21 1 == 1) o with
    | none => bad o
    | some k =>
      if sseg && !c.rangeOk so n then bad so
      else if dseg && !c.rangeOk d n then bad d
      else if n = 0 then (s, .done [] 0#32 none)
      else
        let at_ (off : Nat) : Place := .store c.cluster ((c.seg 1).base.toNat + off : Nat)
        let src := if sseg then at_ so else .va (r.a.toNat : Int)
        let dst := if dseg then at_ d else .va ((r.data.toNat % 2 ^ 64 : Nat) : Int)
        s.queueCopy c (w.modAt 19 2) (c.copyOp src dst n none (some (s.objRef k)) s.serial)
/-- CPY (R286, R287). -/
def execCpy (w : RegWord) (s : State) : Host.Outcome State Fault Refusal := s.issueWord (.cpy w) (warpMemBody (.cpy w) 0 (cpyAct w))

def cpytAct (w : RegWord) (s : State) (c : Ctx) (reqs : List Req) : State × MemOut :=
  match reqs with
  | [] => (s, .done [] 0#32 none)
  | r :: _ => s.queueCopy c (w.modAt 19 2) (c.copyOp (.va 0) (.va 0) 0 (some r.a) none s.serial)
/-- CPYT (R288). -/
def execCpyt (w : RegWord) (s : State) : Host.Outcome State Fault Refusal := s.issueWord (.cpyt w) (warpMemBody (.cpyt w) 0 (cpytAct w))

/-! The channels (R82, R287) -/

/-- A scratch range of a group, and an object that an operation of a group names (R76, R84). -/
def State.groupPlace (s : State) (g : Option Nat) (off n : Nat) : Option Place :=
  match g.bind (s.work.groups.look ·) with
  | some x => if off + n ≤ x.kib * 1024 then some (.store x.cluster (x.base + off : Nat)) else none
  | none => none
def State.groupObject (s : State) (g : Option Nat) (gang : Bool) (off : Nat) : Option Nat :=
  let own := g.bind (s.work.groups.look ·)
  let x := if gang then (own.bind (·.gang)).bind (s.work.gangs.look ·) |>.bind (·.members[off / 2 ^ 18]?) |>.bind (s.work.groups.look ·) else own
  let o := if gang then off % 2 ^ 18 else off
  match x with
  | some x => if off % 16 = 0 ∧ o + 16 ≤ x.kib * 1024 then some (storeKey x.cluster (x.base + o)) else none
  | none => none

/-- The operation that a tensor-copy record describes (Table 14.8): none when a limit is broken. The object is found in either case. -/
def State.recordCopy (s : State) (op : CopyOp) (m : List Byte) : Option CopyOp × Option ObjRef :=
  let f (o n : Nat) : Nat := leNat ((m.drop o).take n)
  let sx (x : Nat) : Int := sextNat x 64
  let ctl := f 0x2C 4
  let obj := (s.groupObject op.group (ctl / 4 % 2 == 1) (f 0x28 4)).map fun k : Nat => ({ key := k, issued := op.issued } : ObjRef)
  let rowb := f 0x20 4
  let rows := f 0x24 4
  let dstride := sx (f 0x18 8)
  let place (scratch : Bool) (x : Nat) (stride : Int) : Option Place :=
    if scratch then
      let ends := [(x : Int), (x : Int) + stride * ((rows : Int) - 1)]
      let lo := ends.foldl min (x : Int)
      let hi := ends.foldl max (x : Int) + rowb
      if lo < 0 then none else (s.groupPlace op.group lo.toNat (hi - lo).toNat).bind fun _ => s.groupPlace op.group x rowb
    else some (.va (x : Int))
  let ok := decide (1 ≤ rowb ∧ rowb ≤ 2 ^ 20 ∧ 1 ≤ rows ∧ rows ≤ 2 ^ 20) && (rows == 1 || decide (rowb ≤ dstride.natAbs))
    && decide (ctl < 8) && f 0x30 8 == 0 && f 0x38 8 == 0 && obj.isSome
  match ok, place (ctl / 2 % 2 == 1) (f 0 8) (sx (f 0x10 8)), place (ctl % 2 == 1) (f 8 8) dstride with
  | true, some src, some dst =>
    (some { op with src := src, dst := dst, sstride := sx (f 0x10 8), dstride := dstride, rowb := rowb, rows := rows, record := none,
                    obj := obj }, obj)
  | _, _, _ => (none, obj)

def CopyOp.source (op : CopyOp) : Source := { recorder := op.recorder, tenant := op.tenant, kind := 2, ctx := op.node }
def CopyOp.own (op : CopyOp) : Bool := op.group.isNone && op.owner == 0

/-- The head copy of a channel leaves its queue. -/
def State.popCopy (s : State) (cluster ch : Nat) : State := s.setChan cluster ch fun c => { c with queue := c.queue.drop 1 }
def State.setHead (s : State) (cluster ch : Nat) (op : CopyOp) : State :=
  s.setChan cluster ch fun c => { c with queue := op :: c.queue.drop 1 }

/-- A copy fails (R83, R86, R65): WP stands. -/
def State.failCopy (s : State) (cluster ch : Nat) (op : CopyOp) (code : BitVec 8) (detail : Nat) (link : Bool) : State :=
  ((s.failObj op.source op.obj link).engineFails op.node op.own code detail).popCopy cluster ch

/-- A fault of a copy: held while a fault unit or the driver resolves it, else the copy fails. -/
def State.copyFault (s : State) (cluster ch : Nat) (op : CopyOp) (f : AFault) (va : Nat) : State :=
  let s := if s.resolver op.tenant f = .transit then s
    else s.engineFlog (if op.own then hubRecorder (hubOf cluster) else op.recorder) op.node f
  let hold (d : Bool) : State := (s.parkFault (.chan cluster ch) op.tenant 4 f d).setHead cluster ch { op with held := true }
  match s.resolver op.tenant f with
  | .transit => s
  | .device => hold false
  | .driver => hold true
  | .software => s.failCopy cluster ch op 0x05#8 (f.code * 2 ^ 40 + va % 2 ^ 40) false

/-- The next unit of a copy: it ends at a 128-byte destination boundary or at the end of its row. -/
def CopyOp.unit (op : CopyOp) : Int × Int × Nat :=
  let r := op.wp / op.rowb
  let i := op.wp % op.rowb
  let d := (r : Int) * op.dstride + i
  let a := match op.dst with | .va x => x + d | .store _ x => x + d
  ((r : Int) * op.sstride + i, d, min (128 - (a % 128).toNat) (op.rowb - i))

/-- Addresses in the pages that the copy comes to next, in its own order (R145). -/
def CopyOp.ahead (op : CopyOp) : List Int :=
  let i := op.wp % op.rowb
  (List.range 33).flatMap fun dr =>
    let r := op.wp / op.rowb + dr
    if op.rows ≤ r then []
    else (List.range 33).flatMap fun j =>
      let x := min ((if dr = 0 then i else 0) + 65536 * j) (op.rowb - 1)
      [op.src.va? ((r : Int) * op.sstride + x), op.dst.va? ((r : Int) * op.dstride + x)].filterMap id

/-- Write the next unit. -/
def State.copyUnit (s : State) (cluster ch : Nat) (op : CopyOp) : State :=
  let (si, di, n) := op.unit
  let q := engineRequester op.tenant cluster op.priv
  let (s, r) := (s.walkAhead q op.ahead).moveBytes q cluster op.src op.dst si di n
  match r with
  | .fault f => s.copyFault cluster ch op f f.addr
  | .lost => s.failCopy cluster ch op 0x09#8 op.wp true
  | .done =>
    let op := { op with wp := op.wp + n }
    let s := match op.obj with | some o => s.arriveObj op.source o.key n | none => s
    let s := s.setChan cluster ch fun c => { c with wp := op.wp }
    if op.rowb * op.rows ≤ op.wp then s.popCopy cluster ch else s.setHead cluster ch op

/-- The object of a copy that has not read its record yet, where the record can be read. -/
def State.copyObj (s : State) (cluster : Nat) (op : CopyOp) : Option ObjRef :=
  match op.obj, op.record with
  | some o, _ => some o
  | none, some va =>
    if va.toNat % 64 ≠ 0 then none
    else match (s.globalTarget (engineRequester op.tenant cluster op.priv).peek .read false (va.toNat : Int) 64).2 with
      | .ok t => (s.recordCopy op (s.readHome t).2.1).2
      | .error _ => none
  | none, none => none

/-- Read the tensor-copy record of a copy that starts. -/
def State.readRecord (s : State) (cluster ch : Nat) (op : CopyOp) (va : Dbl) : State × Option CopyOp :=
  let bad (s : State) (op : CopyOp) : State := s.failCopy cluster ch op 0x05#8 (0x10 * 2 ^ 40 + va.toNat % 2 ^ 40) false
  if va.toNat % 64 ≠ 0 then (bad s op, none)
  else
    let (s, t) := s.globalTarget (engineRequester op.tenant cluster op.priv) .read false (va.toNat : Int) 64
    match t with
    | .error f => (s.copyFault cluster ch op f va.toNat, none)
    | .ok t =>
      let (s, bs, _) := s.readHome t
      match s.recordCopy op bs with
      | (some op, _) => (s.setHead cluster ch op, some op)
      | (none, obj) => (bad s { op with obj := obj }, none)

/-- COPY_UNIT_WRITE (R287): the head copy of a channel starts if it has not, and writes its next unit. -/
def execCopyUnitWrite (cluster channel : Nat) (s : State) : Host.Outcome State Fault Refusal :=
  match (s.chan cluster channel).queue with
  | [] => .next s
  | op :: _ =>
    if op.held || s.rel.fullFreeze then .next s
    else
      let fresh := !op.started
      let op := { op with started := true }
      let s := if fresh then (s.setHead cluster channel op).setChan cluster channel fun c => { c with wp := 0, count := c.count + 1 } else s
      match op.record with
      | none => .next (s.copyUnit cluster channel op)
      | some va => match s.readRecord cluster channel op va with
        | (s, none) => .next s
        | (s, some op) => .next (s.copyUnit cluster channel op)

end Sys2Proof.Machine
end

