-- ==== Sys2Proof/Machine/Views.lean ====
section
/-! DEFINITION. View slots: `vset`, `vclr` and `vinfo`, and the requests for composed lines (R89-R92, R95, R103, R107, R118, R379,
R380). -/

namespace Sys2Proof.Machine

/-- The fault VSLOT of a word that names a slot: TRADDR is the slot's shadow address; for a number beyond 4,095, which has none, it is
a free value (notes/assumptions/18.md). -/
def State.slotFault (s : State) (slot : Nat) : AFault :=
  { code := 0x12, addr := if slot < 4096 then 2 ^ 56 + slot * 2 ^ 44 else leNat ((List.range 8).map fun i => Config.farByte (8 * s.serial + i)),
    bva := 0, page := 0 }

/-- The first two bounds of R95: mlo and mhi. -/
def ViewDesc.range (v : ViewDesc) : Int × Int :=
  let par := v.par.take v.rank
  match v.xform with
  | 0 => (0, v.count - 1)
  | 1 => (0, ((tilesOf v.exts par).foldl (· * ·) 1 * par.foldl (· * ·) 1 : Nat) - 1)
  | 2 =>
    let ends := (v.exts.zip par).map fun (x, p) => (BitVec.ofNat 32 p).toInt * ((x : Int) - 1)
    (ends.foldl (fun a x => a + min 0 x) 0, ends.foldl (fun a x => a + max 0 x) 0)
  | 3 =>
    let c := nth v.par 0 2
    (0, (2 ^ (((v.exts.take c).map Nat.log2).foldl (· + ·) 0) * (v.exts.drop c).foldl (· * ·) 1 : Nat) - 1)
  | _ => (0, (v.bcount : Int) - 1)

/-- PAR words satisfy Table 5.4 for a valid XFORM (R91 check 5). -/
def ViewDesc.parOk (v : ViewDesc) : Bool :=
  let par := v.par.take v.rank
  let rest := v.par.drop v.rank
  rest.all (· == 0) && match v.xform with
    | 0 => par.all (fun p => decide (p < v.rank)) && decide ((nubNat par).length = v.rank)
    | 1 => (par.zip v.exts).all fun (t, x) => decide (1 ≤ t ∧ t ≤ x)
    | 2 => true
    | 3 =>
      let c := nth v.par 0 0
      decide ((c = 2 ∨ c = 3) ∧ c ≤ v.rank) && (v.par.drop 1).all (· == 0)
        && (v.exts.take c).all fun x => decide (x = 2 ^ Nat.log2 x ∧ Nat.log2 x ≤ 16)
    | _ => par.all (· == 0)

/-- Checks 2-8 of R91 in order: the number of the first that fails. -/
def State.viewCheck (s : State) (w : List Dbl) : Option Nat :=
  let v := viewOf w
  let rsvd := v.bits 57 7 + v.bits 40 7 + v.bits 36 3 + v.bits 27 5 + v.bits 19 5 + v.bits 11 5 + v.bits 1 7
  let sz : Int := v.esize
  let lo : Int := v.base + v.range.1 * sz
  let hi : Int := v.base + (v.range.2 + 1) * sz
  let first : Int := if v.remote then 2 ^ 57 + v.pkg * 2 ^ 48 else 0
  let last : Int := if v.remote then first + 2 ^ 48 else 2 ^ 56
  if v.bits 39 1 = 0 ∨ rsvd ≠ 0 ∨ (w.drop 10).any (· != 0#64) ∨ (!v.remote && v.pkg != 0) then some 2
  else if 5 < v.bits 8 3 ∨ v.rank = 0 ∨ v.rank = 7 ∨ 4 < v.xform then some 3
  else if v.exts.any (· == 0) ∨ (v.ext.drop v.rank).any (· != 1) ∨ 2 ^ 44 < v.count * v.esize then some 4
  else if !v.parOk then some 5
  else if v.base % v.esize ≠ 0 then some 6
  else if v.xform = 4 ∧ (v.bcount = 0 ∨ v.idxBase % v.idxSize ≠ 0) then some 6
  else if v.xform ≠ 4 ∧ (v.idxBase ≠ 0 ∨ v.bcount ≠ 0 ∨ v.bits 0 1 ≠ 0) then some 6
  else if lo < first ∨ last < hi then some 7
  else if v.remote ∧ (v.pkg = s.hub.peerSelf.toNat ∨ s.hub.peerDom.toNat ≤ v.pkg) then some 8
  else none

/-- A footprint of an accepted, incomplete node of the slot's owner names the slot (R91 check 9). A node is in the node table until its
completion record is written (R46). -/
def State.slotBusy (s : State) (tenant slot : Nat) : Bool :=
  s.work.nodes.any fun (_, n) => n.tenant == tenant && n.slots.contains slot

/-- The slot takes a new state: every cluster cache loses its sectors, far hubs their copy of its descriptor, and logged words what they
translated through it (R92, R118). -/
def State.setSlot (s : State) (slot : Nat) (v : Option View) : State :=
  let s := (s.dropSectors fun l _ _ => l.view == some slot).forgetGot fun t => t.shadow.any fun x => x / 2 ^ 44 % 4096 == slot
  { s with eng := { s.eng with views := (match v with | some v => s.eng.views.put slot v | none => s.eng.views.del slot),
                               farDesc := s.eng.farDesc.filter (· != slot) } }

/-- Eight 16-byte requests at an address. -/
def eightReqs (r : Req) (a : Dbl) : List Req := (List.range 8).map fun i => { r with addr := ((a.toNat + 16 * i : Nat) : Int) }

/-- The bytes of a record or descriptor that a word reads for a unit. Nothing of it is committed to a register: poison in it is not
consumed (R207). -/
def State.readRecords (s : State) (c : Ctx) (ts : List (Req × Target)) : State × List Byte :=
  ts.foldl (fun (acc : State × List Byte) (x : Req × Target) =>
    let (s, b, _) := acc.1.loadTarget c.requester c.core x.2
    (s, acc.2 ++ b)) (s, [])

/-- 128 bytes as sixteen doubles. -/
def doublesOf (bs : List Byte) (n : Nat) : List Dbl := (List.range n).map fun i => dbl (leNat ((bs.drop (8 * i)).take 8))

def vsetAct (w : RegWord) (s : State) (c : Ctx) (reqs : List Req) : State × MemOut :=
  match reqs with
  | [] => (s, .done [] 0#32 none)
  | r :: _ =>
    let slot := r.a.toNat % 2 ^ 32
    if s.slotOwner slot ≠ some c.tenant then
      (({ s with serial := s.serial + 1 } : State), raiseFault .read [(r.slot, s.slotFault slot)])
    else if r.b.toNat % 128 ≠ 0 then (s, raiseFault .read [(r.slot, { code := 0x13, addr := r.b.toNat, bva := 0, page := 0 })])
    else s.withTargets c 0 16 .read false (eightReqs r r.b) fun s ts =>
      let (s, bs) := s.readRecords c ts
      let s := s.peerMessage c ts
      let words := doublesOf bs 16
      let ans (n : Nat) : List RegWrite := reqs.flatMap fun x => c.slotWrites (.vset w) x.slot (BitVec.ofNat 128 n)
      match s.viewCheck words with
      | some n => (s, .done (ans n) 0#32 none)
      | none =>
        if s.slotBusy c.tenant slot then (s, .done (ans 9) 0#32 none)
        else (s.setSlot slot (some { words := words, asid := c.tenant }), .done (ans 0) 0#32 none)
/-- VSET (R379). -/
def execVset (w : RegWord) (s : State) : Host.Outcome State Fault Refusal := s.issueWord (.vset w) fun s u m => if u.symbolic then s.makeConcrete u else heldMemBody (.vset w) 0 (vsetAct w) s u m

def vclrAct (w : RegWord) (s : State) (c : Ctx) (reqs : List Req) : State × MemOut :=
  match reqs with
  | [] => (s, .done [] 0#32 none)
  | r :: _ =>
    let slot := r.a.toNat % 2 ^ 32
    let ans (n : Nat) : List RegWrite := reqs.flatMap fun x => c.slotWrites (.vclr w) x.slot (BitVec.ofNat 128 n)
    if s.slotOwner slot ≠ some c.tenant then
      (({ s with serial := s.serial + 1 } : State), raiseFault .read [(r.slot, s.slotFault slot)])
    else if s.slotBusy c.tenant slot then (s, .done (ans 9) 0#32 none)
    else (s.setSlot slot none, .done (ans 0) 0#32 none)
/-- VCLR (R379). -/
def execVclr (w : RegWord) (s : State) : Host.Outcome State Fault Refusal := s.issueWord (.vclr w) (warpMemBody (.vclr w) 0 (vclrAct w))

def vinfoAct (s : State) (c : Ctx) (reqs : List Req) : State × MemOut :=
  match reqs with
  | [] => (s, .done [] 0#32 none)
  | r :: _ =>
    let slot := r.b.toNat % 2 ^ 32
    if s.slotOwner slot ≠ some c.tenant then
      (({ s with serial := s.serial + 1 } : State), raiseFault .write [(r.slot, s.slotFault slot)])
    else if r.a.toNat % 128 ≠ 0 then (s, raiseFault .write [(r.slot, { code := 0x13, addr := r.a.toNat, bva := 0, page := 0 })])
    else s.withTargets c 0 16 .write false (eightReqs r r.a) fun s ts =>
      let words := match s.eng.views.look slot with | some v => v.words | none => []
      let bytes (i : Nat) : List Byte := bytesOf 8 (nth words (2 * i) 0#64).toNat ++ bytesOf 8 (nth words (2 * i + 1) 0#64).toNat
      let before := s
      let s := (ts.zipIdx).foldl (fun s (x, i) => s.storeTarget c.storer x.2 (bytes i) []) s
      if s.overfull c.core then (before, .wait) else (s.peerStore c ts, .done [] 0#32 none)
/-- VINFO (R380). -/
def execVinfo (w : RegWord) (s : State) : Host.Outcome State Fault Refusal := s.issueWord (.vinfo w) (warpMemBody (.vinfo w) 0 vinfoAct)

/-! Requests for composed lines -/

/-- Who asks for a line. -/
def lineRequester (cluster tenant : Nat) : Requester :=
  { tenant := tenant, priv := true, cluster := some cluster, unit := some (.hub (hubOf cluster)) }

/-- The installed view that a shadow address names, if the tenant owns its slot. -/
def State.viewAt (s : State) (tenant : Nat) (va : Nat) : Option View :=
  if spaceOf (va : Int) = .shadow ∧ s.slotOwner (va / 2 ^ 44 % 4096) = some tenant then s.eng.views.look (va / 2 ^ 44 % 4096) else none

/-- VIEW_LINE_REQUEST (R107): the four sectors of the shadow line are composed and kept in the requesting cluster's cache. -/
def execViewLineRequest (cluster tenant : Nat) (va : Dbl) (s : State) : Host.Outcome State Fault Refusal :=
  match s.viewAt tenant va.toNat with
  | none => .next s
  | some v =>
    if (viewOf v.words).remote || s.clusterDropped cluster then .next s
    else
      .next (s.fillView (lineRequester cluster tenant) cluster va.toNat)

/-- REMOTE_VIEW_REQUEST (R118): the request goes over the peer link with the slot's descriptor, if the far hub does not hold it; the line
comes back and is kept nowhere (R104). -/
def execRemoteViewRequest (cluster tenant : Nat) (va : Dbl) (s : State) : Host.Outcome State Fault Refusal :=
  match s.viewAt tenant va.toNat with
  | none => .next s
  | some v =>
    if !(viewOf v.words).remote || s.peerDown (viewOf v.words).pkg then .next s
    else
      .next (s.peerTraffic cluster tenant [{ bytes := [.peer ((viewOf v.words).pkg * 2 ^ 48)], csts := [3], leaves := [], shadow := some va.toNat }])

end Sys2Proof.Machine
end

