-- ==== Sys2Proof/Machine/Gather.lean ====
section
/-! DEFINITION. The gather engine: `gath` and `psel`, their descriptors and records, and running them (R86, R199-R201, R204, R205, R308,
R309, R352, R389). -/

namespace Sys2Proof.Machine

/-! Descriptors and records (Tables 10.7-10.10) -/

/-- `n` bytes at an offset of eight doubles. -/
def GatherOp.at_ (op : GatherOp) (off n : Nat) : Nat := (nth op.words (off / 8) 0#64).toNat / 2 ^ (8 * (off % 8)) % 2 ^ (8 * n)

def GatherOp.count (op : GatherOp) : Nat := op.at_ 0x20 4
def GatherOp.ctl (op : GatherOp) : Nat := op.at_ 0x24 4
def GatherOp.size (op : GatherOp) : Nat := 2 ^ (op.ctl % 8)
def GatherOp.idxSize (op : GatherOp) : Nat := if op.ctl / 64 % 2 = 1 then 8 else 4
def GatherOp.dsp (op : GatherOp) : Bool := op.ctl / 128 % 2 == 1
def GatherOp.pages (op : GatherOp) : Nat := op.at_ 0x28 8 / 2 ^ 16 % 2 ^ 16 + 1
def GatherOp.pick (op : GatherOp) : Nat := op.at_ 0x28 8 / 2 ^ 8 % 2 ^ 6
def GatherOp.lps (op : GatherOp) : Nat := op.at_ 0x28 8 / 2 ^ 4 % 2 ^ 4
def GatherOp.copies (op : GatherOp) : Bool := op.at_ 0x28 8 % 2 == 1

/-- The code with which a descriptor or record fails the operation (Tables 10.8, 10.10, R309). -/
def GatherOp.bad (op : GatherOp) : Option Nat :=
  if op.psel then
    if op.pick = 0 ∨ 32 < op.pick ∨ 9 < op.lps then some 0x10 else none
  else if 5 < op.ctl % 8 then some 0x13
  else if op.count = 0 ∨ op.ctl / 2 ^ 8 ≠ 0 ∨ op.ctl / 8 % 8 ≠ 0 ∨ op.at_ 0x34 4 ≠ 0 ∨ op.at_ 0x38 8 ≠ 0 ∨ (op.isNode && op.dsp) then some 0x10
  else none

def GatherOp.source (op : GatherOp) : Source := { recorder := op.recorder, tenant := op.tenant, kind := 2, ctx := op.node }

/-! The queue (R199) -/

def State.gathers (s : State) (cluster : Nat) : List GatherOp := (s.eng.gathers.look cluster).getD []
def State.setGathers (s : State) (cluster : Nat) (l : List GatherOp) : State :=
  { s with eng := { s.eng with gathers := if l.isEmpty then s.eng.gathers.del cluster else s.eng.gathers.put cluster l } }
def State.setGather (s : State) (cluster : Nat) (op : GatherOp) : State := s.setGathers cluster (op :: (s.gathers cluster).drop 1)

/-! The words (R308, R352) -/

/-- Issue of a descriptor or record: the checks in order, then the queue. -/
def gatherAct (psel : Bool) (s : State) (c : Ctx) (reqs : List Req) : State × MemOut :=
  match reqs with
  | [] => (s, .done [] 0#32 none)
  | r :: _ =>
    if r.a.toNat % 64 ≠ 0 then (s, raiseFault .read [(r.slot, { code := 0x13, addr := r.a.toNat, bva := 0, page := 0 })])
    else
      let quarter (i : Nat) : Req := { r with addr := ((r.a.toNat + 16 * i : Nat) : Int) }
      s.withTargets c 0 16 .read false ((List.range 4).map quarter) fun s ts =>
        let (s, bs) := s.readRecords c ts
        let op : GatherOp :=
          { psel := psel, words := doublesOf bs 8, va := r.a, units := [], phase := 0, chosen := [], obj := none, failed := none,
            linkLost := false, node := c.node, isNode := false, group := c.group, owner := c.uid, tenant := c.tenant, priv := c.priv,
            recorder := c.core, held := false }
        let bobj := if psel then op.at_ 0x24 4 else op.at_ 0x30 4
        let seglim (off : Nat) : State × MemOut := (s, raiseFault .write [(r.slot, segFault 0x10 off)])
        let dst := if psel then op.at_ 0x20 4 else op.at_ 0x10 8
        let len := if psel then (if op.copies then op.pick * 2 ^ op.lps * 128 else 0) else if op.dsp then op.count * op.size else 0
        match s.objectAt c false bobj with
        | none => seglim bobj
        | some k =>
          if len ≠ 0 ∧ !c.rangeOk dst len then seglim dst
          else if 16 ≤ (s.gathers c.cluster).length || s.releaseWaits c then (s, .wait)
          else
            let s := (s.releaseCore c 2).peerMessage c ts
            (s.setGathers c.cluster (s.gathers c.cluster ++ [{ op with obj := some (s.objRef k) }]), .done [] 0#32 none)

def gathAct : State → Ctx → List Req → State × MemOut := gatherAct false
/-- GATH (R308). -/
def execGath (w : RegWord) (s : State) : Host.Outcome State Fault Refusal := s.issueWord (.gath w) (warpMemBody (.gath w) 0 gathAct)

def pselAct : State → Ctx → List Req → State × MemOut := gatherAct true
/-- PSEL (R352). -/
def execPsel (w : RegWord) (s : State) : Host.Outcome State Fault Refusal := s.issueWord (.psel w) (warpMemBody (.psel w) 0 pselAct)

/-! Running (R200, R201) -/

/-- What reading or writing for a gather gives. -/
inductive Got (α : Type) where
  | ok (x : α)
  | fault (f : AFault)
  | lost
  deriving DecidableEq, Repr

/-- Bytes that an engine holds, each with the sector of its poison. -/
abbrev Held := List (Byte × Option Nat)
def Held.bytes (h : Held) : List Byte := h.map (·.1)
def Held.bad (h : Held) : Option Nat := h.findSome? (·.2)
/-- Bytes that a poisoned value decides are poisoned. -/
def Held.tainted (h : Held) (p : Option Nat) : Held := h.map fun (b, q) => (b, q.orElse fun _ => p)

/-- Read bytes for an engine: the bytes, and where they lie. -/
def State.engineFetch (s : State) (q : Requester) (p : Place) (off : Int) (n : Nat) : State × Got (Held × Target) :=
  let (s, r) := s.sourceBytes q p off n
  match r with
  | .error f => (s, .fault f)
  | .ok t =>
    if s.targetDown t then (s, .lost)
    else
      let (s, us) := s.readUnits t
      (s, .ok (us, p.seen off t))

/-- Read bytes for an engine, with the requests to other packages that this takes. -/
def State.engineRead (s : State) (q : Requester) (p : Place) (off : Int) (n : Nat) : State × Got Held :=
  let (s, r) := s.engineFetch q p off n
  match r with
  | .ok (us, t) => (s.peerTraffic (q.cluster.getD 0) q.tenant [t], .ok us)
  | .fault f => (s, .fault f)
  | .lost => (s, .lost)

/-- Write bytes for an engine. -/
def State.engineWrite (s : State) (q : Requester) (own : Option Nat) (p : Place) (off : Int) (bs : Held) : State × Got Unit :=
  let (s, r) := s.placeBytes q .write p off bs.length Target.empty
  match r with
  | .error f => (s, .fault f)
  | .ok t =>
    if s.targetDown t then (s, .lost)
    else ((s.writeHome t bs.bytes (bs.map (·.2.isSome)) own none).peerTraffic (q.cluster.getD 0) q.tenant [p.seen off t], .ok ())

/-- The lines of an operation's source at other packages that have not crossed the link yet, each with one request (R201). -/
def State.crossLines (s : State) (q : Requester) (crossed : List Nat) (t : Target) : State × List Nat :=
  let new := (s.peerLines t).filter fun l => !crossed.contains l
  (s.peerRequests (q.cluster.getD 0) q.tenant new.length (slotsNamed (if t.isPeer then [t] else [])), crossed ++ new)

/-- One element of a gather: its bytes, or zeros beyond SRCN, and the source lines that have crossed the link. -/
def State.gatherElement (s : State) (q : Requester) (op : GatherOp) (crossed : List Nat) (i : Nat) : State × Got (Held × List Nat) :=
  let (s, x) := s.engineRead q (.va (op.at_ 8 8 : Nat)) ((i * op.idxSize : Nat) : Int) op.idxSize
  match x with
  | .fault f => (s, .fault f)
  | .lost => (s, .lost)
  | .ok ib =>
    let j := leNat ib.bytes
    if op.at_ 0x28 8 ≤ j then (s, .ok (List.replicate op.size (0#8, ib.bad), crossed))
    else
      let (s, y) := s.engineFetch q (.va (op.at_ 0 8 : Nat)) ((j * op.size : Nat) : Int) op.size
      match y with
      | .ok (b, t) =>
        let (s, crossed) := s.crossLines q crossed t
        (s, .ok (b.tainted ib.bad, crossed))
      | .fault f => (s, .fault f)
      | .lost => (s, .lost)

/-- Elements `i` to `i + n - 1`. -/
def State.gatherElements (s : State) (q : Requester) (op : GatherOp) (i : Nat) : Nat → Held → List Nat → State × Got (Held × List Nat)
  | 0, bs, crossed => (s, .ok (bs, crossed))
  | n + 1, bs, crossed =>
    let (s, x) := s.gatherElement q op crossed i
    match x with
    | .ok (b, crossed) => s.gatherElements q op (i + 1) n (bs ++ b) crossed
    | r => (s, r)

/-- The destination of an operation: its own address space, or its group's scratch; and where units of 128 bytes end in it. -/
def State.gatherPlace (s : State) (op : GatherOp) : Option Place :=
  if op.psel then s.groupPlace op.group (op.at_ 0x20 4) (op.pick * 2 ^ op.lps * 128)
  else if op.dsp then s.groupPlace op.group (op.at_ 0x10 8) (op.count * op.size)
  else some (.va (op.at_ 0x10 8 : Nat))
def GatherOp.dstAt (op : GatherOp) : Nat := if op.psel then op.at_ 0x20 4 else op.at_ 0x10 8

/-- Unit `u` of `total` bytes at an address: offset and length; length 0 past the end (R389). -/
def unitOf (base total u : Nat) : Nat × Nat :=
  let first := 128 - base % 128
  let lo := if u = 0 then 0 else first + 128 * (u - 1)
  (lo, min (if u = 0 then first else 128) (total - lo))
/-- The units of a range. -/
def unitCount (base total : Nat) : Nat := (base % 128 + total + 127) / 128

/-- The operation fails with a fault, unless it has failed already, a lost link included (R200, R201). -/
def GatherOp.fail (op : GatherOp) (code : BitVec 8) (addr : Dbl) : GatherOp :=
  if op.linkLost || op.failed.isSome then op else { op with failed := some (code, addr) }

/-- A fault of the operation at the head of a gather queue: held while it is resolved, or the operation fails (R152, R205). -/
def State.gatherFault (s : State) (cluster : Nat) (op : GatherOp) (f : AFault) : State :=
  let s := if s.resolver op.tenant f = .transit then s else s.engineFlog op.recorder op.node f
  let hold (d : Bool) : State := (s.parkFault (.gather cluster) op.tenant 4 f d).setGather cluster { op with held := true }
  match s.resolver op.tenant f with
  | .transit => s.setGather cluster op
  | .device => hold false
  | .driver => hold true
  | .software => s.setGather cluster (op.fail (BitVec.ofNat 8 f.code) (dbl f.addr))

/-- The operation at the head may go on. -/
def State.gatherHead (s : State) (cluster : Nat) : Option GatherOp :=
  match s.gathers cluster with
  | op :: _ => if op.held || s.rel.fullFreeze || s.rel.halted then none else some op
  | [] => none

def GatherOp.going (op : GatherOp) : Bool := op.failed.isNone && !op.linkLost && op.bad.isNone && op.closing.isNone

/-- Addresses in the pages of the index vector and the destination that come next after element `i` (R145). -/
def GatherOp.ahead (op : GatherOp) (i : Nat) : List Int :=
  (List.range 33).flatMap fun j =>
    let e := min (op.count - 1) (i + 65536 * j / op.idxSize)
    let d := min (op.count * op.size - 1) (i * op.size + 65536 * j)
    ((op.at_ 8 8 + e * op.idxSize : Nat) : Int) :: (if op.dsp then [] else [((op.at_ 0x10 8 + d : Nat) : Int)])

/-- GATHER_UNIT_WRITE (R200, R389): one destination unit of the gather at the head, in any order. -/
def execGatherUnitWrite (cluster unit : Nat) (s : State) : Host.Outcome State Fault Refusal :=
  match s.gatherHead cluster with
  | none => .next s
  | some op =>
    let total := op.count * op.size
    let (lo, n) := unitOf op.dstAt total unit
    if op.psel || !op.going || n = 0 || op.units.contains unit then .next s
    else match s.gatherPlace op with
      | none => .next (s.setGather cluster (op.fail 0x10#8 (dbl op.dstAt)))
      | some place =>
        let q := engineRequester op.tenant cluster op.priv
        let i := lo / op.size
        let (s, r) := (s.walkAhead q (op.ahead i)).gatherElements q op i ((lo + n - 1) / op.size + 1 - i) [] op.crossed
        match r with
        | .fault f => .next (s.gatherFault cluster op f)
        | .lost => .next (s.setGather cluster { op with linkLost := true })
        | .ok (bs, crossed) =>
          let op := { op with crossed := crossed }
          let (s, w) := s.engineWrite q (some cluster) place (lo : Int) ((bs.drop (lo - i * op.size)).take n)
          match w with
          | .fault f => .next (s.gatherFault cluster op f)
          | .lost => .next (s.setGather cluster { op with linkLost := true })
          | .ok () =>
            let s := match op.obj with | some o => s.arriveObj op.source o.key n | none => s
            .next (s.setGather cluster { op with units := op.units ++ [unit] })

/-- Element i was delivered: every unit that holds a byte of it was. -/
def GatherOp.delivered (op : GatherOp) (i : Nat) : Bool :=
  let off := op.dstAt % 128
  let a := (off + i * op.size) / 128
  let b := (off + i * op.size + op.size - 1) / 128
  op.units.contains a && op.units.contains b

/-- Byte `b` of DMAP. -/
def GatherOp.mapByte (op : GatherOp) (b : Nat) : Byte :=
  (List.range 8).foldl (fun (x : Byte) k => if 8 * b + k < op.count ∧ op.delivered (8 * b + k) then x ||| (1#8 <<< k) else x) 0#8

/-- Write DMAP from byte `b` on; the first fault or lost link ends it. -/
def State.writeMap (s : State) (q : Requester) (cluster : Nat) (op : GatherOp) (b : Nat) : Nat → State × Got Unit
  | 0 => (s, .ok ())
  | n + 1 =>
    let (s, r) := s.engineWrite q (some cluster) (.va (op.at_ 0x18 8 : Nat)) (b : Int) [(op.mapByte b, none)]
    match r with
    | .ok () => s.writeMap q cluster op (b + 1) n
    | x => (s, x)

/-- The DMAP of an operation that ends with its node or its launch (R200), and whether it has to wait for the resolution of a fault. -/
def State.closeMap (s : State) (cluster : Nat) (op : GatherOp) : State × Bool :=
  if op.psel || op.bad.isSome || op.at_ 0x18 8 = 0 then (s, false)
  else
    let (s, r) := s.writeMap (engineRequester op.tenant cluster op.priv) cluster op 0 ((op.count + 7) / 8)
    (s, match r with
      | .fault f => s.resolver op.tenant f != .software
      | .ok () | .lost => false)

/-- The operation at the head ends at its object and its node (R86, R152, R201). -/
def State.endGather (s : State) (cluster : Nat) (op : GatherOp) : State :=
  let s := s.setGathers cluster ((s.gathers cluster).drop 1)
  if let some link := op.closing then s.failObj op.source op.obj link
  else
  let fail := match op.failed, op.bad with
    | some x, _ => some x
    | none, some c => some (BitVec.ofNat 8 c, op.va)
    | none, none => none
  match fail with
  | some (c, a) => (s.failObj op.source op.obj false).engineFails op.node op.isNode 0x05#8 (detailOf c a)
  | none =>
    if op.linkLost then
      let n := ((List.range op.count).filter op.delivered).length
      (s.failObj op.source op.obj true).engineFails op.node op.isNode 0x09#8 n
    else s

/-- Gathers of a cluster that satisfy a test end: those whose DMAP waits for a resolution stay, to be closed once they are at the head
(R200). -/
def State.closeGathers (s : State) (cluster : Nat) (p : GatherOp → Bool) (link : Bool) : List GatherOp → State × List GatherOp
  | [] => (s, [])
  | q :: r =>
    if !p q || q.closing.isSome then
      let (s, l) := s.closeGathers cluster p link r
      (s, q :: l)
    else
      let (s, waits) := s.closeMap cluster q
      if waits then
        let (s, l) := s.closeGathers cluster p link r
        (s, { q with closing := some link, held := false } :: l)
      else (s.failObj q.source q.obj link).closeGathers cluster p link r

/-- GATHER_DONE (R200): the gather at the head is finished, has failed or ends with its node: DMAP, then the end at its object. -/
def execGatherDone (cluster : Nat) (s : State) : Host.Outcome State Fault Refusal :=
  match s.gatherHead cluster with
  | none => .next s
  | some op =>
    let all := decide (op.units.length = unitCount op.dstAt (op.count * op.size))
    if op.psel || (op.going && !all) then .next s
    else if (op.bad.isSome && op.closing.isNone) || op.at_ 0x18 8 = 0 then .next (s.endGather cluster op)
    else
      let (s, r) := s.writeMap (engineRequester op.tenant cluster op.priv) cluster op 0 ((op.count + 7) / 8)
      match r with
      | .ok () => .next (s.endGather cluster op)
      | .lost => .next (s.endGather cluster { op with linkLost := true })
      | .fault f =>
        let s := s.gatherFault cluster op f
        match s.gathers cluster with
        | x :: _ => .next (if x.held then s else s.endGather cluster x)
        | [] => .next s

/-! The selector (R204) -/

/-- The score of a page: 64 BF16 products summed exactly and rounded once to FP32. -/
def scoreOf (page query : List Byte) : Nat :=
  let v (l : List Byte) (i : Nat) : Val := decodeVal 2 (leNat ((l.drop (2 * i)).take 2)) false
  (fused 0 0 false ((List.range 64).map fun i => (v page i, v query i)) []).1

/-- Score `a` ranks strictly above score `b`: NaN below every number, −0 equal to +0. -/
def ranksAbove (a b : Nat) : Bool :=
  let key (x : Nat) : Int := if x % 2 ^ 31 = 0 then 0 else orderKey x
  if isNan32 a then false else isNan32 b || decide (key b < key a)

/-- Insert a page into a ranking; equal scores keep the order of their page numbers. -/
def rankInsert (x : Nat × Word) : List (Nat × Word) → List (Nat × Word)
  | [] => [x]
  | y :: r => if ranksAbove x.2.toNat y.2.toNat then x :: y :: r else y :: rankInsert x r

/-- Scores of pages `i` on, and whether one of them is of poisoned data. -/
def State.scorePages (s : State) (q : Requester) (op : GatherOp) (query : List Byte) (i : Nat) :
    Nat → List (Nat × Word) → Option Nat → State × Got (List (Nat × Word) × Option Nat)
  | 0, l, p => (s, .ok (l, p))
  | n + 1, l, p =>
    let (s, r) := s.engineRead q (.va (op.at_ 0 8 : Nat)) ((128 * i : Nat) : Int) 128
    match r with
    | .fault f => (s, .fault f)
    | .lost => (s, .lost)
    | .ok bs => s.scorePages q op query (i + 1) n (rankInsert (i, word (scoreOf bs.bytes query)) l) (p.orElse fun _ => bs.bad)

/-- The selector ranks its pages and writes its results, in one arrival of their bytes. -/
def State.pselRank (s : State) (cluster : Nat) (op : GatherOp) : State :=
  let q := engineRequester op.tenant cluster op.priv
  let lost (s : State) : State := s.setGather cluster { op with linkLost := true }
  let ahead := (List.range 33).map fun j => ((op.at_ 0 8 + min (65536 * j) (128 * op.pages - 1) : Nat) : Int)
  let (s, r) := (s.walkAhead q ahead).engineRead q (.va (op.at_ 8 8 : Nat)) 0 128
  match r with
  | .fault f => s.gatherFault cluster op f
  | .lost => lost s
  | .ok query =>
    let (s, r) := s.scorePages q op query.bytes 0 op.pages [] query.bad
    match r with
    | .fault f => s.gatherFault cluster op f
    | .lost => lost s
    | .ok (l, p) =>
      let chosen := l.take (min op.pick op.pages)
      let bs := chosen.flatMap fun (i, x) => bytesOf 4 i ++ bytesOf 4 x.toNat
      let (s, w) := s.engineWrite q (some cluster) (.va (op.at_ 0x18 8 : Nat)) 0 (bs.map (·, p))
      match w with
      | .fault f => s.gatherFault cluster op f
      | .lost => lost s
      | .ok () =>
        let s := match op.obj with | some o => s.arriveObj op.source o.key bs.length | none => s
        s.setGather cluster { op with phase := 1, chosen := chosen }

/-- The selector copies unit `u` of the page of rank `k`. -/
def State.pselCopy (s : State) (cluster : Nat) (op : GatherOp) (k u : Nat) : State :=
  let q := engineRequester op.tenant cluster op.priv
  let size := 2 ^ op.lps * 128
  let lost (s : State) : State := s.setGather cluster { op with linkLost := true }
  let (lo, n) := unitOf (op.at_ 0x20 4 + k * size) size u
  let ahead := (op.chosen.drop k).map fun x => ((op.at_ 0x10 8 + 8 * x.1 : Nat) : Int)
  let (s, r) := (s.walkAhead q ahead).engineRead q (.va (op.at_ 0x10 8 : Nat)) ((8 * (nth op.chosen k (0, 0#32)).1 : Nat) : Int) 8
  match r, s.gatherPlace op with
  | .fault f, _ => s.gatherFault cluster op f
  | .lost, _ => lost s
  | .ok _, none => s.setGather cluster (op.fail 0x10#8 (dbl op.dstAt))
  | .ok page, some place =>
    let rest := (List.range 33).map fun j => ((leNat page.bytes + min (lo + 65536 * j) (size - 1) : Nat) : Int)
    let (s, r) := (s.walkAhead q rest).engineRead q (.va (leNat page.bytes : Nat)) (lo : Int) n
    match r with
    | .fault f => s.gatherFault cluster op f
    | .lost => lost s
    | .ok bs =>
      let (s, w) := s.engineWrite q (some cluster) place ((k * size + lo : Nat) : Int) (bs.tainted page.bad)
      match w with
      | .fault f => s.gatherFault cluster op f
      | .lost => lost s
      | .ok () =>
        let s := match op.obj with | some o => s.arriveObj op.source o.key n | none => s
        s.setGather cluster { op with units := op.units ++ [u] }

/-- PSEL_RUN (R204): the selector at the head makes its next part: the ranking and results, then one unit of a copy, then its end. -/
def execPselRun (cluster : Nat) (s : State) : Host.Outcome State Fault Refusal :=
  match s.gatherHead cluster with
  | none => .next s
  | some op =>
    if !op.psel then .next s
    else if !op.going then .next (s.endGather cluster op)
    else if op.phase = 0 then .next (s.pselRank cluster op)
    else
      let size := 2 ^ op.lps * 128
      let per (k : Nat) : Nat := unitCount (op.at_ 0x20 4 + k * size) size
      -- units copied so far give the rank and the unit that come next
      let ends := (List.range op.chosen.length).map fun k => ((List.range k).map per).foldl (· + ·) 0
      let done := op.units.length
      match op.copies, (ends.zipIdx.filter fun (e, k) => decide (e ≤ done) && decide (done < e + per k)) with
      | true, (e, k) :: _ => .next (s.pselCopy cluster op k (done - e))
      | _, _ => .next (s.endGather cluster op)

end Sys2Proof.Machine
end

