-- ==== Sys2Proof/Machine/Coll.lean ====
section
/-! DEFINITION. The collective engines (R201, R231, R232). -/

namespace Sys2Proof.Machine

def CollOp.at_ (op : CollOp) (k : Nat) : Nat := (nth op.words k 0#64).toNat
/-- Bytes of an element: BF16 has two. -/
def CollOp.size (op : CollOp) : Nat := if op.at_ 3 / 2 ^ 8 % 16 = 1 then 2 else 4
def CollOp.kind (op : CollOp) : Nat := op.at_ 3 % 16

/-- CTL of a collective payload holds codes that R232 gives and no RSVD bit; COUNT lies in its range. -/
def collOk (w : List Dbl) : Bool :=
  let ctl := (nth w 3 0#64).toNat
  let n := (nth w 2 0#64).toNat
  decide (ctl % 16 ≤ 2) && decide (ctl / 2 ^ 4 % 16 ≤ 2) && decide (ctl / 2 ^ 8 % 16 ≤ 3) && decide (ctl / 2 ^ 12 % 16 = 0)
    && decide (ctl / 2 ^ 32 = 0) && decide (1 ≤ n) && decide (n ≤ 2 ^ 32) && (w.drop 4).all (· == 0#64)

def State.colls (s : State) (hub : Nat) : List CollOp := (s.eng.colls.look hub).getD []
def State.setColls (s : State) (hub : Nat) (l : List CollOp) : State :=
  { s with eng := { s.eng with colls := if l.isEmpty then s.eng.colls.del hub else s.eng.colls.put hub l } }

/-- Who translates for a hub's engine. -/
def hubRequester (tenant hub : Nat) (priv : Bool) : Requester := { tenant := tenant, priv := priv, cluster := none, unit := some (.hub hub) }

/-- A fault of the collective at the head: held, or its node completes with FAULT (R152). -/
def State.collFault (s : State) (hub : Nat) (op : CollOp) (f : AFault) : State :=
  let s := if s.resolver op.tenant f = .transit then s else s.engineFlog (hubRecorder hub) op.node f
  let hold (d : Bool) : State :=
    (s.parkFault (.coll hub) op.tenant 4 f d).setColls hub ({ op with held := true } :: (s.colls hub).drop 1)
  match s.resolver op.tenant f with
  | .transit => s
  | .device => hold false
  | .driver => hold true
  | .software =>
    (s.setColls hub ((s.colls hub).drop 1)).engineFails op.node true 0x05#8 (detailOf (BitVec.ofNat 8 f.code) (dbl f.addr))

/-- Bytes that other packages bring to the result are free (notes/assumptions/10.md): byte `i` of draw `n`. -/
def farBytes (n i k : Nat) : List Byte := (List.range k).map fun j => Config.farByte (n * 2 ^ 64 + i + j)

/-- One reduction of a switch: RED and TYPE of CTL. FP32 and BF16 additions round RN; the other operations take the rules of reductions
in memory, which R232 does not repeat (notes/assumptions/96.md). -/
def reduceTwo (red type a b : Nat) : Nat :=
  match type with
  | 0 => match red with | 0 => (floatAdd 0 0 false a b).1 | 1 => (floatMinMax false false a b).1 | _ => (floatMinMax true false a b).1
  | 1 => match red with
    | 0 => (floatAdd 2 0 false a b).1
    | 1 => (floatMinMax false false (a * 2 ^ 16) (b * 2 ^ 16)).1 / 2 ^ 16
    | _ => (floatMinMax true false (a * 2 ^ 16) (b * 2 ^ 16)).1 / 2 ^ 16
  | 2 => match red with
    | 0 => (a + b) % 2 ^ 32
    | 1 => wrapNat (min (sextNat a 32) (sextNat b 32)) 32
    | _ => wrapNat (max (sextNat a 32) (sextNat b 32)) 32
  | _ => match red with | 0 => (a + b) % 2 ^ 32 | 1 => min a b | _ => max a b

/-- Values by ascending package, reduced from the first on. -/
def reduceAll (red type : Nat) : List Nat → Nat
  | [] => 0
  | x :: r => r.foldl (reduceTwo red type) x

/-- An all-reduce: every switch of the first level reduces its packages in ascending order, and the second level what they answer (R232). -/
def reduceTree (red type : Nat) (vals : List (Nat × Nat)) : Nat :=
  let switches := nubNat (vals.map fun v => Config.leafSwitch v.1)
  reduceAll red type (switches.map fun w => reduceAll red type ((vals.filter fun v => Config.leafSwitch v.1 == w).map (·.2)))

/-- The packages of a multicast group in ascending order, this one among them: which packages of the domain a group holds is free (R232
names the group and gives no members; notes/assumptions/96.md). -/
def State.collMembers (s : State) (op : CollOp) : List Nat :=
  let self := s.hub.peerSelf.toNat
  let dom := s.hub.peerDom.toNat
  if dom ≤ 1 then [self] else (List.range dom).filter fun p => p == self || Config.inGroup (op.at_ 3 / 2 ^ 16 % 2 ^ 16) p

/-- Element `i` of part `p` of the result (R232): an all-reduce folds the package's own element with those of the other members of its
group, a broadcast delivers the root's, an all-gather those of member `p`. What other packages bring is free. -/
def State.collElement (s : State) (q : Requester) (op : CollOp) (draw p i : Nat) : State × Got Held :=
  let self := s.hub.peerSelf.toNat
  let members := s.collMembers op
  let far (p : Nat) : List Byte := farBytes draw ((p * op.at_ 2 + i) * op.size) op.size
  let (s, own) := s.engineRead q (.va (op.at_ 0 : Nat)) ((i * op.size : Nat) : Int) op.size
  match own with
  | .fault f => (s, .fault f)
  | .lost => (s, .lost)
  | .ok own =>
    let of (p : Nat) : Held := if p = self ∨ members.length ≤ 1 then own else (far p).map (·, none)
    (s, .ok (match op.kind with
      | 0 =>
        let vals := members.map fun p => (p, leNat (of p).bytes)
        Held.tainted ((bytesOf op.size (reduceTree (op.at_ 3 / 2 ^ 4 % 16) (op.at_ 3 / 2 ^ 8 % 16) vals)).map (·, none)) own.bad
      | 1 => of (Config.castRoot (op.at_ 3 / 2 ^ 16 % 2 ^ 16))
      | _ => of (nth members p self)))

/-- Write elements `i` on of the result: how many were delivered, and how it ended. -/
def State.collLoop (s : State) (q : Requester) (op : CollOp) (draw i : Nat) : Nat → State × Got Unit × Nat
  | 0 => (s, .ok (), i)
  | n + 1 =>
    let (s, r) := s.collElement q op draw (i / max 1 (op.at_ 2)) (i % max 1 (op.at_ 2))
    match r with
    | .fault f => (s, .fault f, i)
    | .lost => (s, .lost, i)
    | .ok bs =>
      let (s, w) := s.engineWrite q none (.va (op.at_ 1 : Nat)) ((i * op.size : Nat) : Int) bs
      match w with
      | .ok () => s.collLoop q op draw (i + 1) n
      | x => (s, x, i)

/-- COLL_RUN (R232): the collective at the head of a hub's engine runs. With a package of its group marked down it completes as R201
gives, nothing delivered. -/
def execCollRun (hub : Nat) (s : State) : Host.Outcome State Fault Refusal :=
  match s.colls hub with
  | [] => .next s
  | op :: _ =>
    if op.held || s.rel.fullFreeze || s.rel.halted then .next s
    else
      let lost (s : State) (n : Nat) : State := (s.setColls hub ((s.colls hub).drop 1)).engineFails op.node true 0x09#8 n
      let down := (s.collMembers op).any fun p => p != s.hub.peerSelf.toNat && s.peerDown p
      if down then .next (lost s 0)
      else
        let (draw, s) := s.fresh
        let n := op.at_ 2 * (if op.kind = 2 then (s.collMembers op).length else 1)
        let (s, r, i) := s.collLoop (hubRequester op.tenant hub op.priv) op draw 0 n
        match r with
        | .fault f => .next (s.collFault hub op f)
        | .lost => .next (lost s i)
        | .ok () => .next (s.setColls hub ((s.colls hub).drop 1))

end Sys2Proof.Machine
end

