-- ==== Sys2Proof/Machine/Matrix.lean ====
section
/-! DEFINITION. Descriptor slots, the words of the matrix unit, its passes and their traps (R187-R197, R291, R332-R336, R392). -/

namespace Sys2Proof.Machine

/-! `dld` and `dsv` (R291) -/

/-- A 64-byte record moves as four 16-byte accesses. -/
def fourReqs (r : Req) : List Req := (List.range 4).map fun i => { r with addr := r.addr + ((16 * i : Nat) : Int) }

/-- The address of a record must be a multiple of 64: VALIGN, but for a fault of the access that stands higher in Table 8.4 (R147). -/
def State.recordFault (s : State) (c : Ctx) (seg : Nat) (k : Access) (r : Req) : MemOut :=
  match (s.targetsFrom c seg 16 k false (fourReqs r) [] []).2.2.find? fun f => decide (f.2.code < 0x13) with
  | some f => raiseFault k [f]
  | none => raiseFault k [(r.slot, { code := 0x13, addr := wrapNat r.addr 64, bva := 0, page := 0 })]

def dldAct (w : RegWord) (s : State) (c : Ctx) (reqs : List Req) : State × MemOut :=
  match reqs with
  | [] => (s, .done [] 0#32 none)
  | r :: _ =>
    if r.addr % 64 ≠ 0 then (s, s.recordFault c (Instr.dld w).memSeg .read r)
    else s.withTargets c (Instr.dld w).memSeg 16 .read false (fourReqs r) fun s ts =>
      let (s, bs, p) := ts.foldl (fun (acc : State × List Byte × Option Nat) (x : Req × Target) =>
        let (s, b, p) := acc.1.loadTarget c.requester c.core x.2
        (s, acc.2.1 ++ b, match acc.2.2 with | some q => some q | none => p)) (s, [], none)
      (s.peerMessage c ts, .done [.d (w.d.toNat % 32) (BitVec.ofNat 512 (leNat bs))] 0#32 p)
/-- DLD (R291). -/
def execDld (w : RegWord) (s : State) : Host.Outcome State Fault Refusal := s.issueWord (.dld w) (memBody (.dld w) 0 (dldAct w))

def dsvAct (w : RegWord) (s : State) (c : Ctx) (reqs : List Req) : State × MemOut :=
  match reqs with
  | [] => (s, .done [] 0#32 none)
  | r :: _ =>
    if r.addr % 64 ≠ 0 then (s, s.recordFault c (Instr.dsv w).memSeg .write r)
    else s.withTargets c (Instr.dsv w).memSeg 16 .write false (fourReqs r) fun s ts =>
      let bs := bytesOf 64 (c.readD (w.b.toNat % 32)).toNat
      let before := s
      let s := (ts.zipIdx).foldl (fun s (x, i) => s.storeTarget c.storer x.2 ((bs.drop (16 * i)).take 16) []) s
      if s.overfull c.core then (before, .wait) else (s.peerStore c ts, .done [] 0#32 none)
/-- DSV (R291). -/
def execDsv (w : RegWord) (s : State) : Host.Outcome State Fault Refusal := s.issueWord (.dsv w) (memBody (.dsv w) 0 (dsvAct w))

/-! Descriptor records (Tables 10.1, 10.2) -/

/-- A record taken apart; `fmt` is the code of Table 10.2. -/
structure MatDesc where
  base : Nat
  aux : Nat
  scale : Nat
  win : Nat
  ctl : Nat
  stride : Nat
  auxStride : Nat
  sStride : Nat
  rows : Nat
  cols : Nat
  rsvd : Nat
  deriving DecidableEq, Repr

def matDesc (x : Slot512) : MatDesc :=
  let f (o n : Nat) : Nat := x.toNat / 2 ^ (8 * o) % 2 ^ (8 * n)
  { base := f 0 8, aux := f 8 8, scale := f 0x10 8, win := f 0x18 8, ctl := f 0x20 8, stride := f 0x28 4, auxStride := f 0x2C 4,
    sStride := f 0x30 4, rows := f 0x34 4, cols := f 0x38 4, rsvd := f 0x3C 4 }

def MatDesc.fmt (d : MatDesc) : Nat := d.ctl % 16
def MatDesc.role (d : MatDesc) : Nat := d.ctl / 2 ^ 6 % 4
def MatDesc.space (d : MatDesc) : Nat := d.ctl / 2 ^ 11 % 4
def MatDesc.tr (d : MatDesc) : Bool := d.ctl / 2 ^ 13 % 2 == 1
def MatDesc.sc (d : MatDesc) : Bool := d.ctl / 2 ^ 14 % 2 == 1
def MatDesc.zs (d : MatDesc) : Bool := d.ctl / 2 ^ 15 % 2 == 1
/-- Type code (Table 13.7) of a format of Table 10.2. -/
def matType (fmt : Nat) : Nat := match fmt with | 0 => 2 | 1 => 3 | 2 => 4 | 3 => 5 | 4 => 7 | 5 => 0 | _ => 8
/-- S of R188, and the k-block of Table 10.4. -/
def matSize (fmt : Nat) : Nat := match fmt with | 0 => 2 | 5 | 6 => 4 | _ => 1
def kBlock (fmt : Nat) : Nat := if fmt = 0 then 16 else 32

/-- A store range lies wholly in SCR banks. -/
def State.inScr (s : State) (cluster a n : Nat) : Bool :=
  decide (a + n ≤ 2 ^ 24) && (List.range ((a + n - 1) / 32768 + 1 - a / 32768)).all fun i =>
    let w := s.bankWord cluster (a / 32768 + i)
    bankMode w == 1 && bankState w != 2

/-- Checks of R189 that concern one record. -/
def MatDesc.plain (d : MatDesc) (role : Nat) : Bool :=
  d.role == role && d.space != 3 && decide (d.fmt ≤ 6) && d.ctl / 2 ^ 16 == 0 && d.ctl / 2 ^ 8 % 8 == 0 && d.ctl / 2 ^ 4 % 4 == 0
    && d.rsvd == 0 && d.base % 16 == 0 && d.stride % 16 == 0 && (!d.zs || role == 0)

/-- Bytes that rows of an operand span. -/
def MatDesc.span (d : MatDesc) (rows cols : Nat) : Nat := (rows - 1) * d.stride + cols * matSize d.fmt

/-- Checks on a C record (R189, R334). -/
def State.okC (s : State) (cluster : Nat) (c : MatDesc) : Bool :=
  let dim (x : Nat) : Bool := x % 8 == 0 && decide (8 ≤ x) && decide (x ≤ 1024)
  c.plain 2 && c.space == 1 && !c.tr && (c.fmt == 5 || c.fmt == 6) && dim c.rows && dim c.cols
    && s.inScr cluster c.base (c.span c.rows c.cols)

/-- A row of Table 10.4. -/
def formatsOk (a b c : Nat) : Bool :=
  match a, b with
  | 0, 0 | 1, 1 | 1, 2 | 2, 1 | 2, 2 | 3, 3 => c == 5
  | 4, 4 => c == 6
  | _, _ => false

/-- Every check at the issue of a multiplication (R189, R332). -/
def State.okMat (s : State) (cluster : Nat) (f : MatForm) (c a b : MatDesc) : Bool :=
  let k := a.cols
  let fits (d : MatDesc) (n : Nat) : Bool := d.space != 1 || s.inScr cluster d.base n
  s.okC cluster c && a.plain 0 && b.plain 1 && formatsOk a.fmt b.fmt c.fmt
    && a.rows == c.rows && b.rows == k && b.cols == c.cols
    && k % kBlock a.fmt == 0 && decide (kBlock a.fmt ≤ k) && decide (k ≤ 65536)
    && !((a.sc || b.sc) && (a.fmt == 0 || a.fmt == 4))
    && (match f with
      | .dense => true
      | .block => a.aux != 0
      | .sparse => a.aux != 0 && !a.tr && a.fmt != 3 && !a.zs
      | .zero => true)
    && fits a (if a.tr then a.span k a.rows else a.span a.rows (if f == .sparse then k / 2 else k))
    && fits b (if b.tr then b.span k b.cols else b.span b.cols k)

/-! Issue (R332, R334-R336) -/

/-- Queue an operation: checks, release at cluster scope, a free entry; the path holds while there is none. -/
def matIssue (i : Instr) (f : MatForm) (s : State) (u : Issuer) (m : Word) : State × Ending :=
  if m = 0#32 then (s, .done)
  else
    let slot (x : BitVec 8) : Slot512 := u.ctx.readD (x.toNat % 32)
    let (d, a, b, _) := i.codes
    let ok := match f with
      | .zero => s.okC u.ctx.cluster (matDesc (slot d))
      | _ => s.okMat u.ctx.cluster f (matDesc (slot d)) (matDesc (slot a)) (matDesc (slot b))
    if !ok then (s, .trap 0x05#8 0#64 m)
    else if 4 ≤ (s.matrix u.ctx.cluster).queue.length || s.releaseWaits u.ctx then (s, .hold)
    else
      let op : MatOp := { form := f, c := slot d, a := slot a, b := slot b, pc := u.clause.pc, pos := u.clause.pos, next := u.clause.after,
                          node := u.ctx.node, tenant := u.ctx.tenant, priv := u.ctx.priv }
      ((s.releaseCore u.ctx 2).setMatrix u.ctx.cluster fun x => { x with queue := x.queue ++ [op] }, .done)

/-- MMA (R332). -/
def execMma (w : RegWord) (s : State) : Host.Outcome State Fault Refusal := s.issueWord (.mma w) (matIssue (.mma w) .dense)
/-- MMAB (R332). -/
def execMmab (w : RegWord) (s : State) : Host.Outcome State Fault Refusal := s.issueWord (.mmab w) (matIssue (.mmab w) .block)
/-- MMAS (R332). -/
def execMmas (w : RegWord) (s : State) : Host.Outcome State Fault Refusal := s.issueWord (.mmas w) (matIssue (.mmas w) .sparse)
/-- MZERO (R334). -/
def execMzero (w : RegWord) (s : State) : Host.Outcome State Fault Refusal := s.issueWord (.mzero w) (matIssue (.mzero w) .zero)

/-- MWAIT (R335). -/
def mwaitBody (w : RegWord) : State → Issuer → Word → State × Ending :=
  warpEnd fun s u _ _ => (s, .goto u.clause.after (.matrix (w.modAt 17 2)) [])
def execMwait (w : RegWord) (s : State) : Host.Outcome State Fault Refusal := s.issueWord (.mwait w) (mwaitBody w)

/-- MPROG (R336). -/
def mprogBody (w : RegWord) (s : State) (_ : Issuer) (m : Word) : State × Ending :=
  (s, if m = 0#32 then .done else .on [.mprog w.d.toNat] 0#32 none)
def execMprog (w : RegWord) (s : State) : Host.Outcome State Fault Refusal := s.issueWord (.mprog w) (mprogBody w)

/-! Operands (R188, Table 10.3) -/

/-- What stops a pass: a fault, or the sector of poisoned data it read (R207). -/
inductive MatStop where
  | fault (f : AFault)
  | poison (sector : Nat)
  deriving DecidableEq, Repr

/-- A list of readings, in order. -/
def mapState {α β : Type} (f : State → α → State × Except MatStop β) : State → List α → State × Except MatStop (List β)
  | s, [] => (s, .ok [])
  | s, x :: r =>
    match f s x with
    | (s, .error e) => (s, .error e)
    | (s, .ok y) => match mapState f s r with
      | (s, .error e) => (s, .error e)
      | (s, .ok ys) => (s, .ok (y :: ys))

/-- `n` bytes at an operand address; SPACE 2 is an offset in the register window of the group WIN, a group of this cluster (R11, R78). -/
def State.matRead (s : State) (q : Requester) (cluster space win : Nat) (a : Int) (n : Nat) : State × Except MatStop Nat :=
  let seglim : State × Except MatStop Nat := (s, .error (.fault (segFault 0x10 a)))
  let go (p : Place) (off : Int) : State × Except MatStop Nat :=
    let (s, r) := s.engineRead q p off n
    (s, match r with
      | .ok bs => match bs.bad with | none => .ok (leNat bs.bytes) | some q => .error (.poison q)
      | .fault f => .error (.fault f)
      | .lost => .error (.poison 0))
  match space with
  | 0 => go (.va a) 0
  | 1 => go (.store cluster a) 0
  | _ =>
    if a < 0 ∨ (2 ^ 20 : Nat) < a + n then seglim
    else
      let o := a.toNat
      match s.warpOf win (o / 2 ^ 15 % 32) with
      | none => seglim
      | some x => match (if x.cluster = cluster then x.vPlace (o / 4 % 32) (o / 128 % 256) else none) with
        | none => seglim
        | some p => go (.store (p / 2 ^ 24) ((p % 2 ^ 24 + o % 4 : Nat) : Int)) 0

/-- Element (i, k) of an operand whose row index is `i` and whose contiguous index is `k`. -/
def State.matElement (s : State) (q : Requester) (cluster : Nat) (d : MatDesc) (i k : Nat) : State × Except MatStop Nat :=
  let n := matSize d.fmt
  let a := if d.tr then d.base + k * d.stride + i * n else d.base + i * d.stride + k * n
  s.matRead q cluster d.space d.win (a : Int) n

/-- A scale of row or column `i` and k-block `b`, or 1. -/
def State.matScale (s : State) (q : Requester) (cluster : Nat) (d : MatDesc) (i b : Nat) : State × Except MatStop Nat :=
  if d.sc then s.matRead q cluster 0 0 ((d.scale + i * d.sStride + b : Nat) : Int) 1 else (s, .ok 127)

/-- The metadata word `w` of row `i` (R196). -/
def MatDesc.metaAt (d : MatDesc) (i w : Nat) : Nat := d.aux + i * d.auxStride + 4 * w

/-! A pass (R180, R181, R190, R192, R195, R196) -/

/-- What a row of A brings to a k-block: its (k, code) pairs, or none when the row skips the block. -/
abbrev RowTerms := Option (List (Nat × Nat))

/-- Terms of row `i` of A in k-block `b`. -/
def State.rowTerms (s : State) (q : Requester) (cluster : Nat) (f : MatForm) (a : MatDesc) (b i : Nat) : State × Except MatStop RowTerms :=
  let kb := kBlock a.fmt
  let ks := (List.range kb).map (b * kb + ·)
  let zero (l : List (Nat × Nat)) : Bool := a.zs && l.all fun e => zeroCode (matType a.fmt) e.2
  match f with
  | .zero => (s, .ok none)
  | .dense =>
    let (s, r) := mapState (fun s k => s.matElement q cluster a i k) s ks
    (s, r.map fun l => if zero (ks.zip l) then none else some (ks.zip l))
  | .block =>
    let bits := ((ks.map (· / 8)).foldl (fun acc h => if acc.contains h then acc else acc ++ [h]) ([] : List Nat))
    let (s, r) := mapState (fun s h =>
      let (s, x) := s.matRead q cluster 0 0 ((a.aux + i / 8 * a.auxStride + h / 8 : Nat) : Int) 1
      (s, x.map fun y => (h, y / 2 ^ (h % 8) % 2 == 1))) s bits
    match r with
    | .error e => (s, .error e)
    | .ok bs =>
      let here := ks.filter fun k => bs.contains (k / 8, true)
      let (s, r) := mapState (fun s k => s.matElement q cluster a i k) s here
      (s, r.map fun l =>
        let got := here.zip l
        if got.isEmpty || zero got then none
        else some (ks.map fun k => match got.find? fun e => e.1 == k with | some e => e | none => (k, 0)))
  | .sparse =>
    let gs := (List.range (kb / 4)).map (b * kb / 4 + ·)
    let (s, r) := mapState (fun s g =>
      let (s, x) := s.matRead q cluster 0 0 ((a.metaAt i (g / 8) : Nat) : Int) 4
      match x with
      | .error e => (s, .error e)
      | .ok m =>
        let code := m / 2 ^ (4 * (g % 8)) % 16
        let at_ (c : Nat) : State → State × Except MatStop Nat := fun s => s.matElement q cluster a i c
        let (s, x0) := at_ (2 * g) s
        match x0 with
        | .error e => (s, .error e)
        | .ok x0 =>
          let (s, x1) := at_ (2 * g + 1) s
          (s, x1.map fun x1 => [(4 * g + code % 4, x0), (4 * g + code / 4, x1)])) s gs
    (s, r.map fun l => some l.flatten)

/-- Scale a value by the two scale codes of its block; none when either is NaN (R177). -/
def blockScale (ea eb : Nat) (v : Val) : Val :=
  if ea = 255 ∨ eb = 255 then .nan false false
  else match v with
    | .fin n m e => .fin n m (e + ((ea : Int) - 127) + ((eb : Int) - 127))
    | v => v

/-- A product of two element codes. -/
def matProduct (fa fb : Nat) (x y : Nat) : Val :=
  if fa = 3 then lgMul (x % 64) (y % 64)
  else (mulVal (decodeVal (matType fa) x false) (decodeVal (matType fb) y false)).1

/-- acc := acc + the sum of a k-block (R180, R190). -/
def matAcc (fa fb : Nat) (acc : Nat) (terms : List (Nat × Nat)) (ea eb : Nat) : Nat :=
  if fa = 4 then
    wrapNat ((acc : Int) + (terms.map fun (x, y) => sextNat x 8 * sextNat y 8).foldl (· + ·) 0) 32
  else
    let block := (sumVal 0 (terms.map fun (x, y) => blockScale ea eb (matProduct fa fb x y))).1
    (roundVal 0 0 false (sumVal 0 [decodeVal 0 acc false, block]).1).1

/-- One k-block of a pass: rows with their accumulators, over columns `cs`. -/
def State.passBlock (s : State) (q : Requester) (cluster : Nat) (f : MatForm) (a b : MatDesc) (cs : List Nat) (kb : Nat)
    (rows : List (Nat × List Nat)) : State × Except MatStop (List (Nat × List Nat)) :=
  let (s, r) := mapState (fun s (x : Nat × List Nat) =>
    let (s, t) := s.rowTerms q cluster f a kb x.1
    match t with
    | .error e => (s, .error e)
    | .ok none => (s, .ok ((x.1, x.2, none, 127) : Nat × List Nat × RowTerms × Nat))
    | .ok t =>
      let (s, e) := s.matScale q cluster a x.1 kb
      (s, e.map fun e => (x.1, x.2, t, e))) s rows
  match r with
  | .error e => (s, .error e)
  | .ok rows =>
    let used := nubNat (rows.flatMap fun (_, _, t, _) => (t.getD []).map (·.1))
    if used.isEmpty then (s, .ok (rows.map fun (i, acc, _, _) => (i, acc)))
    else
      let (s, r) := mapState (fun s j =>
        let (s, xs) := mapState (fun s k => s.matElement q cluster b j k) s used
        match xs with
        | .error e => (s, .error e)
        | .ok xs =>
          let (s, e) := s.matScale q cluster b j kb
          (s, e.map fun e => (used.zip xs, e))) s cs
      (s, r.map fun cols =>
        rows.map fun (i, acc, t, ea) =>
          match t with
          | none => (i, acc)
          | some t => (i, (acc.zip cols).map fun (x, col, eb) =>
              matAcc a.fmt b.fmt x (t.map fun (k, y) => (y, ((col.find? fun e => e.1 == k).map (·.2)).getD 0)) ea eb))

/-- The K loop: k-blocks `kb` on. -/
def State.passLoop (s : State) (q : Requester) (cluster : Nat) (f : MatForm) (a b : MatDesc) (cs : List Nat) (kb : Nat) :
    Nat → List (Nat × List Nat) → State × Except MatStop (List (Nat × List Nat))
  | 0, rows => (s, .ok rows)
  | n + 1, rows =>
    match s.passBlock q cluster f a b cs kb rows with
    | (s, .error e) => (s, .error e)
    | (s, .ok rows) => s.passLoop q cluster f a b cs (kb + 1) n rows

def MatOp.cDesc (op : MatOp) : MatDesc := matDesc op.c
def MatOp.aDesc (op : MatOp) : MatDesc := matDesc op.a
def MatOp.bDesc (op : MatOp) : MatDesc := matDesc op.b
def MatOp.requester (op : MatOp) (cluster : Nat) : Requester := engineRequester op.tenant cluster op.priv

/-- The rows of a band from row group `from_` to below `to_`, and the columns of a column band. -/
def bandRows (rows band from_ upto : Nat) : List Nat :=
  (List.range (min rows (128 * band + 8 * upto) - (128 * band + 8 * from_))).map (128 * band + 8 * from_ + ·)
def bandCols (cols band : Nat) : List Nat := (List.range (min cols (128 * band + 128) - 128 * band)).map (128 * band + ·)

/-- The new values of the rows of a pass: it reads its C tile and steps through K. -/
def State.passValues (s : State) (cluster : Nat) (op : MatOp) (rs cs : List Nat) : State × Except MatStop (List (Nat × List Nat)) :=
  let c := op.cDesc
  match op.form with
  | .zero => (s, .ok (rs.map fun i => (i, cs.map fun _ => 0)))
  | .dense | .block | .sparse =>
    let q := op.requester cluster
    let (s, r) := mapState (fun s i =>
      let (s, xs) := mapState (fun s j => s.matRead q cluster 1 0 ((c.base + i * c.stride + 4 * j : Nat) : Int) 4) s cs
      (s, xs.map fun xs => (i, xs))) s rs
    match r with
    | .error e => (s, .error e)
    | .ok rows => s.passLoop q cluster op.form op.aDesc op.bDesc cs 0 (op.aDesc.cols / kBlock op.aDesc.fmt) rows

/-- Addresses in every page of a range of bytes. -/
def pagesFrom (a n : Nat) : List Int :=
  (List.range (n / 65536 + 1)).map (fun j => ((a + 65536 * j : Nat) : Int)) ++ [((a + (n - 1) : Nat) : Int)]

/-- Addresses in the pages of an operand in memory that a pass comes to (Table 10.3): of rows `is` over `k` elements each, or, transposed,
of `k` rows over those elements. -/
def MatDesc.reach (d : MatDesc) (is : List Nat) (k : Nat) : List Int :=
  let n := matSize d.fmt
  let lo := is.headD 0
  let at_ (i from_ len : Nat) : List Int := pagesFrom (d.base + i * d.stride + from_ * n) (len * n)
  if d.space != 0 || is.isEmpty then []
  else if d.tr then (List.range k).flatMap fun i => at_ i lo is.length
  else is.flatMap fun i => at_ i 0 k

/-- Addresses in the pages of the operands that a pass comes to: the rows of A in its band, those of B in its column band (R145, R192). -/
def MatOp.ahead (op : MatOp) (rs cs : List Nat) : List Int :=
  if op.form == .zero then [] else op.aDesc.reach rs op.aDesc.cols ++ op.bDesc.reach cs op.aDesc.cols

/-- Addresses in the pages of what the operation reads beside its operands: bitmap or metadata, and scales (R177, R195, R196). -/
def MatOp.beside (op : MatOp) (rs cs : List Nat) : List Int :=
  let a := op.aDesc
  let scales (d : MatDesc) (is : List Nat) : List Int :=
    if d.sc then is.flatMap fun i => pagesFrom (d.scale + i * d.sStride) (a.cols / kBlock a.fmt) else []
  let aux := match op.form with
    | .block => rs.flatMap fun i => pagesFrom (a.aux + i / 8 * a.auxStride) ((a.cols + 63) / 64)
    | .sparse => rs.flatMap fun i => pagesFrom (a.aux + i * a.auxStride) (4 * ((a.cols + 31) / 32))
    | .dense | .zero => []
  if op.form == .zero then [] else aux ++ scales a rs ++ scales op.bDesc cs

/-- Write the rows of a pass to C. -/
def State.writeRows (s : State) (cluster : Nat) (c : MatDesc) (cs : List Nat) (rows : List (Nat × List Nat)) : State :=
  rows.foldl (fun s (i, xs) => (cs.zip xs).foldl (fun s (j, x) =>
    s.writeStoreWord (storeKey cluster (c.base + i * c.stride + 4 * j)) (word x)) s) s

/-! Metadata (R196, R197) -/

/-- A metadata word of a row holds an illegal group. -/
def metaBad (k w m : Nat) : Bool :=
  (List.range 8).any fun g => decide (32 * w + 4 * g < k) && decide (m / 2 ^ (4 * g + 2) % 4 ≤ m / 2 ^ (4 * g) % 4)

/-- The lowest row group, from `g` on, with an illegal group, and the address of its first such word. -/
def State.metaCheck (s : State) (q : Requester) (cluster : Nat) (a : MatDesc) (band g : Nat) : Nat → State × Except MatStop (Option (Nat × Nat))
  | 0 => (s, .ok none)
  | n + 1 =>
    let rs := bandRows a.rows band g (g + 1)
    let at_ := rs.flatMap fun i => (List.range ((a.cols + 31) / 32)).map fun w => (i, w)
    let (s, r) := mapState (fun s (x : Nat × Nat) =>
      let (s, m) := s.matRead q cluster 0 0 ((a.metaAt x.1 x.2 : Nat) : Int) 4
      (s, m.map fun m => if metaBad a.cols x.2 m then some (a.metaAt x.1 x.2) else none)) s at_
    match r with
    | .error e => (s, .error e)
    | .ok l => match l.findSome? id with
      | some w => (s, .ok (some (g, w)))
      | none => s.metaCheck q cluster a band (g + 1) n

/-! The unit (R191-R194) -/

/-- MPROG (Table 10.5). -/
def mprogOf (rowg cb state : Nat) : Dbl := dbl (rowg * 2 ^ 8 + cb * 2 ^ 2 + state)
def Matrix.cb (x : Matrix) : Nat := x.mprog.toNat / 4 % 8

/-- The program of a cluster's compositor is under pre-emption: its matrix unit stops (R186, R193). -/
def State.matrixPreempted (s : State) (cluster : Nat) : Bool := (s.ctx? (ctxKey cluster 512 0)).any s.compPreempted

/-- The unit may move. -/
def State.matrixFree (s : State) (x : Matrix) : Bool :=
  !x.trapped && !x.held && !s.rel.fullFreeze && !s.rel.halted && !s.rel.tooHot && x.mprog.toNat % 4 != 2

/-- A pass met a fault or poison: held while a unit or the driver resolves it; a fault that reaches software completes the node with
FAULT, a consumption with UCE (R186, R193, R208). -/
def State.matrixStops (s : State) (cluster : Nat) (op : MatOp) (e : MatStop) : State :=
  match e with
  | .poison q =>
    (s.setMatrix cluster fun x => { x with queue := [], started := false, mprog := (x.mprog &&& ~~~3#64) ||| 2#64 }).consume (ctxKey cluster 512 0) q
  | .fault f =>
    let s := if s.resolver op.tenant f = .transit then s else s.engineFlog (coreOf cluster 512) op.node f
    let hold (d : Bool) : State := (s.parkFault (.matrix cluster) op.tenant 4 f d).setMatrix cluster fun x => { x with held := true }
    match s.resolver op.tenant f with
    | .transit => s
    | .device => hold false
    | .driver => hold true
    | .software =>
      let s := s.setMatrix cluster fun x => { x with queue := [], started := false, mprog := (x.mprog &&& ~~~3#64) ||| 2#64 }
      s.endLaunch op.node 0x05#8 (detailOf (BitVec.ofNat 8 f.code) (dbl f.addr))

/-- MATRIX_OP_START (R192, R193): the operation at the head starts. -/
def execMatrixOpStart (cluster : Nat) (s : State) : Host.Outcome State Fault Refusal :=
  let x := s.matrix cluster
  if x.queue.isEmpty || s.matrixPreempted cluster || x.started || x.trapped || x.held || s.rel.fullFreeze || s.rel.halted || s.rel.tooHot then .next s
  else .next (s.setMatrix cluster fun x => { x with started := true, mprog := mprogOf 0 0 1, rowBand := 0, from_ := 0, finished := false })

/-- The pass of the current band over row groups `from_` to below `upto` is written: the next band, or the operation is finished. -/
def Matrix.afterPass (x : Matrix) (c : MatDesc) : Matrix :=
  let groups := (min c.rows (128 * x.rowBand + 128) - 128 * x.rowBand) / 8
  if 128 * (x.cb + 1) < c.cols then { x with mprog := mprogOf 0 (x.cb + 1) 1, from_ := 0 }
  else if 128 * (x.rowBand + 1) < c.rows then { x with mprog := mprogOf 0 0 1, rowBand := x.rowBand + 1, from_ := 0 }
  else { x with mprog := mprogOf groups x.cb 1, finished := true, from_ := 0 }

/-- The operation stops at row group `g` with MSPARSE (R194, R197, R392). -/
def State.sparseTrap (s : State) (cluster : Nat) (op : MatOp) (g at_ : Nat) : State :=
  let s := s.setMatrix cluster fun x => { x with mprog := mprogOf g x.cb 2, from_ := g, trapped := true }
  let s := s.galleyNode (coreOf cluster 512) op.node 0 0x40#8 (dbl (0x06 * 2 ^ 56 + at_ % 2 ^ 56))
  let t : TrapState := { code := 0x06#8, pc := op.pc, word := BitVec.ofNat 5 op.pos, addr := dbl at_, bva := 0#64, mask := 0#32,
                         log := 0xF#4, ret := 0#64 }
  s.changeCtx (ctxKey cluster 512 0) fun c => { c with paths := c.paths.map fun p => { p with msparse := some t } }

/-- MATRIX_PASS (R192, R197): the pass of the current row and column band. -/
def execMatrixPass (cluster : Nat) (s : State) : Host.Outcome State Fault Refusal :=
  let x := s.matrix cluster
  match x.queue with
  | [] => .next s
  | op :: _ =>
    if !x.started || x.finished || s.matrixPreempted cluster || !s.matrixFree x then .next s
    else
      let c := op.cDesc
      let groups := (min c.rows (128 * x.rowBand + 128) - 128 * x.rowBand) / 8
      let (s, r) := match op.form with
        | .sparse => s.metaCheck (op.requester cluster) cluster op.aDesc x.rowBand x.from_ (groups - x.from_)
        | .dense | .block | .zero => (s, .ok none)
      match r with
      | .error e => .next (s.matrixStops cluster op e)
      | .ok bad =>
        let upto := match bad with | some (g, _) => g | none => groups
        let cs := bandCols c.cols x.cb
        let rs := bandRows c.rows x.rowBand x.from_ upto
        let (s, v) := (s.walkAhead (op.requester cluster) (op.ahead rs cs)).passValues cluster op rs cs
        match v with
        | .error e => .next (s.matrixStops cluster op e)
        | .ok rows =>
          let s := s.writeRows cluster c cs rows
          match bad with
          | some (g, a) => .next (s.sparseTrap cluster op g a)
          | none => .next (s.setMatrix cluster fun x => x.afterPass c)

/-- MATRIX_OP_COMPLETE (R193): the operation leaves the queue and MPROG reads DONE. -/
def execMatrixOpComplete (cluster : Nat) (s : State) : Host.Outcome State Fault Refusal :=
  let x := s.matrix cluster
  if !x.started || !x.finished || !s.matrixFree x then .next s
  else
    .next (s.setMatrix cluster fun x =>
      { x with queue := x.queue.drop 1, started := false, finished := false, mprog := (x.mprog &&& ~~~3#64) ||| 3#64 })

/-- A restart is a release, which may have to wait (R393). -/
def State.matrixWaits (s : State) (c : Ctx) (skip : Bool) : Bool := !skip && s.releaseWaits c

/-- `tret` after a matrix trap (R194, R377, R393): the stopped operation restarts as an issue, or goes with the queue behind it. -/
def State.matrixReturn (s : State) (c : Ctx) (skip : Bool) : State :=
  let s := if skip then s else s.releaseCore c 2
  s.setMatrix c.cluster fun x =>
    if skip then { x with queue := [], started := false, trapped := false }
    else { x with trapped := false, mprog := (x.mprog &&& ~~~3#64) ||| 1#64 }

end Sys2Proof.Machine
end

