-- ==== Sys2Proof/Machine/Shake.lean ====
section
/-! DEFINITION. SHAKE256, the hash of the Proof's digest and of attestation (R218, R219, R222). -/

namespace Sys2Proof.Machine

/-- Rotations of the lanes, by x + 5·y. -/
def keccakTurns : List Nat := [0, 1, 62, 28, 27, 36, 44, 6, 55, 20, 3, 10, 43, 25, 39, 41, 45, 15, 21, 8, 18, 2, 61, 56, 14]

/-- Constants of the rounds. -/
def keccakRounds : List Dbl :=
  [0x0000000000000001#64, 0x0000000000008082#64, 0x800000000000808A#64, 0x8000000080008000#64, 0x000000000000808B#64,
   0x0000000080000001#64, 0x8000000080008081#64, 0x8000000000008009#64, 0x000000000000008A#64, 0x0000000000000088#64,
   0x0000000080008009#64, 0x000000008000000A#64] ++
  [0x000000008000808B#64, 0x800000000000008B#64, 0x8000000000008089#64, 0x8000000000008003#64, 0x8000000000008002#64,
   0x8000000000000080#64, 0x000000000000800A#64, 0x800000008000000A#64, 0x8000000080008081#64, 0x8000000000008080#64,
   0x0000000080000001#64, 0x8000000080008008#64]

/-- Lane (x, y) of a permutation state. -/
def laneAt (a : List Dbl) (x y : Nat) : Dbl := nth a (x % 5 + 5 * (y % 5)) 0#64

/-- A state by its lanes. -/
def lanesOf (f : Nat → Nat → Dbl) : List Dbl := (List.range 25).map fun i => f (i % 5) (i / 5)

/-- One round: parity of columns, turned and exchanged lanes, rows, constant. -/
def keccakRound (a : List Dbl) (rc : Dbl) : List Dbl :=
  let c := (List.range 5).map fun x => laneAt a x 0 ^^^ laneAt a x 1 ^^^ laneAt a x 2 ^^^ laneAt a x 3 ^^^ laneAt a x 4
  let d := (List.range 5).map fun x => nth c ((x + 4) % 5) 0#64 ^^^ (nth c ((x + 1) % 5) 0#64).rotateLeft 1
  let a := lanesOf fun x y => laneAt a x y ^^^ nth d x 0#64
  let b := lanesOf fun x y => (laneAt a (x + 3 * y) x).rotateLeft (nth keccakTurns ((x + 3 * y) % 5 + 5 * x) 0)
  let e := lanesOf fun x y => laneAt b x y ^^^ (~~~laneAt b (x + 1) y &&& laneAt b (x + 2) y)
  e.set 0 (nth e 0 0#64 ^^^ rc)

def keccak (a : List Dbl) : List Dbl := keccakRounds.foldl keccakRound a

/-- Absorb blocks of 136 bytes. -/
def absorb : Nat → List Dbl → List Byte → List Dbl
  | 0, a, _ => a
  | n + 1, a, bs =>
    absorb n (keccak (a.zipIdx.map fun (x, i) => x ^^^ dbl (leNat (((bs.take 136).drop (8 * i)).take 8)))) (bs.drop 136)

/-- A message of SHAKE256 filled to whole blocks. -/
def shakePad (bs : List Byte) : List Byte :=
  let k := 136 - bs.length % 136
  bs ++ (if k = 1 then [0x9F#8] else 0x1F#8 :: (List.replicate (k - 2) 0#8 ++ [0x80#8]))

/-- The first 64 bytes of SHAKE256 of a message. -/
def shake256 (bs : List Byte) : List Byte :=
  let m := shakePad bs
  ((absorb (m.length / 136) (List.replicate 25 0#64) m).take 8).flatMap fun x => bytesOf 8 x.toNat

end Sys2Proof.Machine
end

