-- ==== Sys2Proof/Machine/Freeze.lean ====
section
/-! DEFINITION. Detectors, fatal events, the freeze of the recorders, the Proof, the host mailboxes, full freeze and attestation
(R206, R215-R222, R227, R301, Tables 11.3, 11.4, 11.7, 12.2). -/

namespace Sys2Proof.Machine

/-! Detectors (R206) -/

/-- DETECT: the domain runs at half rate for its next 1,024 own cycles, and records; within a window the window starts again. Its clock
domain is named by its recorder. -/
def execDetect (domain detector : Nat) (s : State) : Host.Outcome State Fault Refusal :=
  let s := s.galley domain 3 0x81#8 0 3 0 (dbl (detector % 2 ^ 16))
  let odd := ((s.rel.halves.look domain).map (·.2)).getD 0
  .next { s with rel := { s.rel with halves := s.rel.halves.put domain (1024, odd) } }

/-- DETECT_WINDOW_END: a window that has run out ends. -/
def execDetectWindowEnd (domain : Nat) (s : State) : Host.Outcome State Fault Refusal :=
  if (s.rel.halves.look domain).any (·.1 == 0) then .next { s with rel := { s.rel with halves := s.rel.halves.del domain } } else .next s

/-! The freeze tree (R216) -/

/-- Edges between the nodes of two hubs. -/
def hubHops (a b : Nat) : Nat :=
  match min a b, max a b with
  | 0, 1 | 0, 3 | 1, 2 => 1
  | 0, 2 | 1, 3 => 2
  | 2, 3 => 3
  | _, _ => 0
/-- The hub of a recorder, and its edges up to that hub's node. -/
def recorderHub (r : Nat) : Nat := if r < 1152 then hubOf (r / 9) else r - 1152
def recorderUp (r : Nat) : Nat := if r < 1152 then 3 else 1
/-- Edges between two recorders. -/
def hops (a b : Nat) : Nat :=
  if a = b then 0
  else if a < 1152 ∧ b < 1152 ∧ a / 9 = b / 9 then 2
  else if a < 1152 ∧ b < 1152 ∧ a / 144 = b / 144 then 4
  else recorderUp a + hubHops (recorderHub a) (recorderHub b) + recorderUp b

/-- The wave of an event from `origin` stops a recorder, which writes FREEZE with its hop count. -/
def State.stopRecorder (s : State) (origin r : Nat) : State :=
  let s := s.galley r 3 0xFE#8 0 3 0 (dbl (hops origin r * 2 ^ 48 + origin))
  let g := (s.rel.galleys.look r).getD Recorder.fresh
  if g.stopped then s
  else { s with rel := { s.rel with galleys := s.rel.galleys.put r { g with stopped := true, hop := hops origin r } } }

/-- An unacknowledged Proof is held (R220). -/
def State.proofHeld (s : State) : Bool := match s.rel.proof with | some p => !p.acked | none => false

/-- A fatal event at a recorder starts a wave there, except while a Proof is held; the Proof is the first event's (R216, R218, R220, Table
11.4, notes/assumptions/118.md). -/
def State.fatal (s : State) (cause r : Nat) : State :=
  let s := { s with rel := { s.rel with pseq := s.rel.pseq + 1, halted := s.rel.halted || [3, 4, 6].contains cause } }
  if s.proofHeld then
    if s.rel.h0Lost then s else s.galley (hubRecorder 0) 4 0x84#8 0 3 0 (dbl (cause * 2 ^ 56 + r * 2 ^ 40 + s.rel.pseq % 2 ^ 40))
  else
    let first := s.rel.freezing.getD (cause, r, s.rel.pseq)
    { s with rel := { s.rel with freezing := some first } }.stopRecorder r r

/-- A hub is lost unplanned, which recorder `r` sees: a fatal event of CAUSE 4; with H0 no freeze ends in a Proof any more (R19,
notes/assumptions/114.md). -/
def State.lossOfHub (s : State) (hub r : Nat) : State :=
  let s := if hub = 0 then { s with rel := { s.rel with h0Lost := true } } else s
  s.fatal 4 r

/-- FATAL_EVENT (R216). -/
def execFatalEvent (cause recorder : Nat) (s : State) : Host.Outcome State Fault Refusal := .next (s.fatal cause recorder)

/-- FRZ (R301). -/
def frzBody : State → Issuer → Word → State × Ending := warpOp fun s u _ _ => (s.fatal 5 u.ctx.core, .done)
def execFrz (w : RegWord) (s : State) : Host.Outcome State Fault Refusal := s.issueWord (.frz w) (coveredBody (.frz w) frzBody)

/-- FREEZE (R216): a wave reaches a recorder; one that has stopped ignores it. At a recorder where no event started one, the first event's
wave is the first to arrive (notes/assumptions/118.md). -/
def execFreeze (recorder : Nat) (s : State) : Host.Outcome State Fault Refusal :=
  match s.rel.freezing with
  | some (_, o, _) => .next (s.stopRecorder o recorder)
  | none => .next s

/-! The Proof (R218, R219) -/

/-- Recorders of dies and hubs that are there. -/
def State.recorders (s : State) : List Nat :=
  (List.range 1156).filter fun r => if r < 1152 then !s.clusterDropped (r / 9) else !s.hub.drop.getLsbD (16 + (r - 1152))

/-- PROOF_CUT (R218): once the wave has stopped every recorder, the Proof is cut, the recorders restart empty, and H0's writes RESUME
first. With H0 lost none is cut (R19). -/
def execProofCut (s : State) : Host.Outcome State Fault Refusal :=
  match s.rel.freezing with
  | none => .next s
  | some (cause, origin, pseq) =>
    let stopped (r : Nat) : Bool := match s.rel.galleys.look r with | some g => g.stopped | none => false
    if s.proofHeld || s.rel.h0Lost || !s.recorders.all stopped then .next s
    else
      let proof : Proof := { pseq := pseq, cause := cause, origin := origin, gen := s.dropGen, later := s.rel.pseq - pseq, acked := false,
                             recorders := s.rel.galleys }
      let empty (g : Recorder) : Recorder := { g with recs := [], stopped := false, hop := 0 }
      let galleys := s.rel.galleys.map fun (k, g) => (k, empty g)
      let s := { s with rel := { s.rel with proof := some proof, freezing := none, galleys := galleys } }
      .next (s.galley (hubRecorder 0) 4 0x82#8 0 3 0 (dbl pseq))

def proofSize : Nat := 0x12254100

/-- Byte `i` of a number of `n` bytes. -/
def byteAt (x i : Nat) : Byte := BitVec.ofNat 8 (x / 2 ^ (8 * i))

/-- A record as 128 bits (Table 11.3). -/
def Rec.num (r : Rec) : Nat :=
  r.cls * 2 ^ 124 + r.code.toNat * 2 ^ 116 + r.tenant * 2 ^ 112 + r.cyc.toNat * 2 ^ 80 + r.kind * 2 ^ 78 + r.ctx * 2 ^ 64 + r.payload.toNat

/-- A record of another tenant than `t`; 0xFF is the full Proof. -/
def Rec.redacted (r : Rec) (t : Nat) : Bool := t != 0xFF && r.tenant != t && !r.code.getLsbD 7
def Rec.seenBy (r : Rec) (t : Nat) : Nat := if r.redacted t then r.cls * 2 ^ 124 + 0x7F * 2 ^ 116 else r.num

/-- The recorder and the slot number in its ring of record slot `k` of the Proof. -/
def slotPlace (k : Nat) : Nat × Nat :=
  if k < 272 * 2 ^ 16 then
    let c := k / 139264
    let o := k % 139264
    (9 * c + o / 16384, o % 16384)
  else (1152 + (k - 272 * 2 ^ 16) / 262144, (k - 272 * 2 ^ 16) % 262144)
def Proof.recordAt (p : Proof) (k : Nat) : Option Rec :=
  let (r, i) := slotPlace k
  match p.recorders.look r with | some g => g.recs[i]? | none => none

/-- A header byte: the fields of Table 11.7 in order. -/
def Proof.headByte (p : Proof) (t i : Nat) : Byte :=
  if i < 4 then byteAt 0x46504251 i
  else if i < 6 then byteAt 1 (i - 4)
  else if i = 6 then byteAt t 0
  else if i = 7 then byteAt p.cause 0
  else if i < 16 then byteAt proofSize (i - 8)
  else if i < 24 then byteAt p.pseq (i - 16)
  else if i < 40 then Config.serialByte (i - 24)
  else if i < 42 then byteAt p.gen.toNat (i - 40)
  else if i < 44 then byteAt p.origin (i - 42)
  else if i < 46 then byteAt 1156 (i - 44)
  else if i < 50 then byteAt p.later (i - 46)
  else 0#8

/-- A byte of a section header: number, kind, hop count, capacity, WRITTEN. -/
def Proof.sectionByte (p : Proof) (r i : Nat) : Byte :=
  let g := (p.recorders.look r).getD Recorder.fresh
  if i < 2 then byteAt r i
  else if i = 2 then byteAt (if 1152 ≤ r then 2 else if r % 9 = 8 then 1 else 0) 0
  else if i = 3 then byteAt g.hop 0
  else if i < 8 then byteAt (ringCap r) (i - 4)
  else if i < 16 then byteAt g.written (i - 8)
  else 0#8

/-- Byte `a` of the digested part of the Proof as reader `t` sees it: header, sections, records and redaction map (Table 11.7). -/
def Proof.bodyByte (p : Proof) (t a : Nat) : Byte :=
  if a < 0x1000 then p.headByte t a
  else if a < 0x1000 + 1156 * 64 then p.sectionByte ((a - 0x1000) / 64) ((a - 0x1000) % 64)
  else if a < 0x14000 then 0#8
  else if a < 0x12014000 then
    match p.recordAt ((a - 0x14000) / 16) with
    | some r => byteAt (r.seenBy t) ((a - 0x14000) % 16)
    | none => 0#8
  else
    (List.range 8).foldl (fun (x : Byte) i => match p.recordAt (8 * (a - 0x12014000) + i) with
      | some r => if r.redacted t then x ||| (1#8 <<< i) else x
      | none => x) 0#8

/-- The SHAKE256 digest of bytes 0 to 0x1225_3FFF (Table 11.7); a tenant's Proof is digested afresh (R219). -/
def Proof.digest (p : Proof) (t : Nat) : List Byte := shake256 ((List.range 0x12254000).map (p.bodyByte t))

/-- Byte `a` of the Proof as reader `t` sees it. Beyond its end nothing is stated: a free value (notes/assumptions/20.md). -/
def Proof.byte (p : Proof) (t a : Nat) : Byte :=
  if a < 0x12254000 then p.bodyByte t a
  else if a < 0x12254000 + 64 then nth (p.digest t) (a - 0x12254000) 0#8
  else if a < 0x12254000 + 178 then Config.signByte (p.digest t) (a - 0x12254000 - 64)
  else if a < proofSize then 0#8
  else Config.farByte a

/-! Mailboxes (R227, Table 12.2) -/

def Mailbox.fresh : Mailbox := { cmd := 0#64, busy := false, err := 0, result := 0#32, data := [] }
def State.mailbox (s : State) (fn : Nat) : Mailbox := (s.out.mailboxes.look fn).getD Mailbox.fresh
def State.setMailbox (s : State) (fn : Nat) (m : Mailbox) : State := { s with out := { s.out with mailboxes := s.out.mailboxes.put fn m } }

/-- A write of MBX.CMD. -/
def State.command (s : State) (fn : Nat) (cmd : Dbl) : State :=
  let m := s.mailbox fn
  if m.busy then s.setMailbox fn { m with err := 1 } else s.setMailbox fn { m with cmd := cmd, busy := true, err := 0 }

/-- MBX.CMD := INFO. -/
def execMbxInfo (fn : Nat) (s : State) : Host.Outcome State Fault Refusal := .next (s.command fn 1#64)
/-- MBX.CMD := READ. -/
def execMbxRead (fn arg : Nat) (s : State) : Host.Outcome State Fault Refusal := .next (s.command fn (dbl (arg % 2 ^ 32 * 2 ^ 32 + 2)))
/-- MBX.CMD := ACK. -/
def execMbxAck (fn : Nat) (s : State) : Host.Outcome State Fault Refusal := .next (s.command fn 3#64)

/-- MBX_COMMAND_DONE: the accepted command completes. -/
def execMbxCommandDone (fn : Nat) (s : State) : Host.Outcome State Fault Refusal :=
  let m := s.mailbox fn
  let t := if fn = 0 then 0xFF else fn - 1
  let arg := m.cmd.toNat / 2 ^ 32
  let fail (e : Nat) : Host.Outcome State Fault Refusal := .next (s.setMailbox fn { m with busy := false, err := e })
  if !m.busy then .next s
  else
    let page (p : Proof) (a : Nat) : List Byte := (List.range 0x1000).map fun i => p.byte t (a + i)
    match m.cmd.toNat % 256, s.rel.proof with
    | 1, some p => .next (s.setMailbox fn { m with busy := false, result := word s.rel.pseq, data := page p 0 })
    | 2, some p =>
      if proofSize ≤ arg * 0x1000 then fail 4
      else .next (s.setMailbox fn { m with busy := false, data := page p (arg * 0x1000) })
    | 3, some p =>
      if fn ≠ 0 then fail 5
      else .next ({ s with rel := { s.rel with proof := some { p with acked := true } } }.setMailbox fn { m with busy := false })
    | 1, none | 2, none => fail 3
    | 3, none => if fn ≠ 0 then fail 5 else fail 3
    | _, _ => fail 2

/-! Full freeze and attestation (R221, R222) -/

/-- FULL_FREEZE: every clock stops. -/
def execFullFreeze (s : State) : Host.Outcome State Fault Refusal := .next { s with rel := { s.rel with fullFreeze := true } }

/-- What attestation measures of the state: HUB.ILV of each hub, HUB.DROP, and the bank-mode configuration, cluster by cluster (R222). -/
def State.measured (s : State) : List Byte :=
  (s.hub.ilv ++ [s.hub.drop]).flatMap (fun x => bytesOf 8 x.toNat)
    ++ (List.range 65536).flatMap fun k => bytesOf 4 (s.bankWord (k / 512) (k % 512)).toNat

/-- ATTESTATION: an answer of a 64-byte SHAKE256 hash over the request and what is measured, and a 114-byte signature of that hash by the
key in fuses (R222, notes/assumptions/10.md). -/
def execAttestation (request : Nat) (s : State) : Host.Outcome State Fault Refusal :=
  let hash := shake256 (Config.attestText request s.measured)
  .next { s with out := { s.out with mgmtOut := s.out.mgmtOut ++ [hash ++ (List.range 114).map (Config.signByte hash)] } }

end Sys2Proof.Machine
end

