-- ==== Sys2Proof/Machine/Faults.lean ====
section
/-! DEFINITION. The fault units: free pools, migration, zero-fill, copy-on-write, the driver's answers, and the hot-page tracker
(R139, R151-R159, R161, R228, R229, R385, R386). -/

namespace Sys2Proof.Machine

/-! What a fault is for -/

/-- Release the place that a fault holds, to try again. A page that the fault unit has resolved stays resident for a logged word's replay
(R151). -/
def State.releaseWho (s : State) (w : Who) (kept : Option Nat) : State :=
  match w with
  | .log k e => s.changeCtx k fun c =>
      { c with log := c.log.change e fun x => if x.state == .parked then { x with state := .resolved, kept := kept } else x }
  | .fetch k p => s.changeCtx k fun c => c.changePath p fun p => if p.wait == .fetching none then { p with wait := .none } else p
  | .chan c ch => s.setChan c ch fun x => { x with queue := x.queue.mapIdx fun i o => if i = 0 then { o with held := false } else o }
  | .gather c => match s.gathers c with | o :: r => s.setGathers c ({ o with held := false } :: r) | [] => s
  | .matrix c => s.setMatrix c fun x => { x with held := false }
  | .coll h => match s.colls h with | o :: r => s.setColls h ({ o with held := false } :: r) | [] => s
  | .record _ | .walker _ | .line .. => s

def State.dropFault (s : State) (n : Nat) : State := { s with eng := { s.eng with faults := s.eng.faults.del n } }

/-- Every access parked on the page of a fault replays (R153). -/
def State.releasePage (s : State) (f : PFault) : State :=
  let same := s.eng.faults.filter fun (_, g) => g.tenant == f.tenant && g.va.toNat / 65536 == f.va.toNat / 65536
  same.foldl (fun s (n, g) => (s.dropFault n).releaseWho g.who (some (f.va.toNat / 65536))) s

/-- The node and recorder of what a fault is for. -/
def State.whoNode (s : State) (w : Who) : Option (Nat × Nat) :=
  let ofCtx (k : Nat) : Option (Nat × Nat) := (s.ctx? k).map fun c => (c.node, c.core)
  match w with
  | .log k _ | .fetch k _ => ofCtx k
  | .chan c ch => (s.chan c ch).queue.head?.map fun o => (o.node, if o.own then hubRecorder (hubOf c) else o.recorder)
  | .gather c => (s.gathers c).head?.map fun o => (o.node, o.recorder)
  | .matrix c => (s.matrix c).queue.head?.map fun o => (o.node, coreOf c 512)
  | .coll h => (s.colls h).head?.map fun o => (o.node, hubRecorder h)
  | .record n => some (n, hubRecorder 0)
  | .walker _ | .line .. => none

/-- A RINGFLT record for the entry at HEAD of a chain, once for its position (R53). -/
def State.ringFaulted (s : State) (chain : Nat) : State :=
  let p := s.chainHead chain
  let said := match s.work.ringFault.look chain with | some (q, _) => q == p | none => false
  let va := s.chainBase chain + 16 * (p % s.chainRing chain)
  let s := if said then s else s.galley (hubRecorder 0) 4 0x86#8 0 3 0 (dbl (chain * 2 ^ 56 + va % 2 ^ 56))
  { s with work := { s.work with ringFault := s.work.ringFault.put chain (p, s.chainTail chain) } }

/-- The fault of one element of a view line of a merge buffer, if it does not translate. -/
def State.elemFault (s : State) (m : MergeLine) (e : Nat) : Option AFault :=
  let n := s.lineElem m
  let mine := m.written.filter fun b => b.off / n == e
  match (s.globalTarget (m.requester (mine.all (·.priv))).peek .write false ((m.line * 128 + e * n : Nat) : Int) n).2 with
  | .error f => some f
  | .ok _ => none

/-- A held view line whose fault reaches no resolution: the elements that the fault concerns are dropped, each with its FLOG record; the
others stay to be drained (R112). -/
def State.dropHeldBytes (s : State) (core line : Nat) (f : PFault) (code : BitVec 8) : State :=
  match s.mem.merge.find? fun m => m.core == core && m.space == 1 && m.tenant == f.tenant && m.line == line with
  | none => s
  | some m =>
    let n := s.lineElem m
    let hit (e : Nat) : Option AFault := (s.elemFault m e).filter fun x =>
      x.code == f.code.toNat && x.page / 65536 == f.va.toNat / 65536 && m.stores.any fun b => b.off / n == e
    let gone := (List.range (128 / n)).filterMap fun e => (hit e).map fun x => (e, x)
    let s := s.dropRecords m (gone.map fun x => { x.2 with code := code.toNat })
    let left := m.stores.filter fun b => !gone.any fun x => x.1 == b.off / n
    if left.isEmpty then s.mergeRemove m
    else { s with mem := { s.mem with merge := s.mem.merge.map fun x => if x == m then { m with stores := left } else x } }

/-- A parked fault reaches software (R148, R152, R156): a handler, or the failure of an engine's operation, with this code. -/
def State.deliverFault (s : State) (f : PFault) (code : BitVec 8) : State :=
  match f.who with
  | .log k n =>
    match s.ctx? k with
    | none => s
    | some c => match c.log.look n with
      | none => s
      | some e =>
        let s := s.changeCtx k fun c => { c with log := c.log.put n { e with state := .toDeliver, code := code } }
        (if e.sb = 7 then s.count k e.path 7 false else s).noPathLeft k
  | .fetch k id =>
    s.changeCtx k fun c => c.changePath id fun p =>
      let t : TrapState := { code := code, pc := p.pc, word := 0#5, addr := f.addr, bva := 0#64, mask := if c.isComp then 0#32 else p.mask,
                             log := 0xF#4, ret := p.pc }
      { p with wait := .none, deliver := some t }
  | .chan c ch =>
    match (s.chan c ch).queue with
    | o :: _ => s.failCopy c ch { o with obj := s.copyObj c o } 0x05#8 (detailOf code f.addr) false
    | [] => s
  | .gather c =>
    match s.gathers c with
    | [] => s
    | o :: _ =>
      let all := !o.psel && decide (o.units.length = unitCount o.dstAt (o.count * o.size))
      let x := { o with held := false }.fail code f.addr
      -- a fault of the DMAP write ends the operation (R200)
      if all || !o.going then s.endGather c x else s.setGather c x
  | .matrix c =>
    match (s.matrix c).queue with
    | [] => s
    | o :: _ =>
      let s := s.setMatrix c fun x => { x with queue := [], started := false, held := false, mprog := (x.mprog &&& ~~~3#64) ||| 2#64 }
      s.endLaunch o.node 0x05#8 (detailOf code f.addr)
  | .coll h =>
    match s.colls h with
    | [] => s
    | o :: r => (s.setColls h r).engineFails o.node true 0x05#8 (detailOf code f.addr)
  | .record n => s.changeNode n fun x => { x with noRecord := some code }
  | .walker ch => s.ringFaulted ch
  | .line core _ line => s.dropHeldBytes core line f code

/-- A launch or node fails for want of frames (R155): FRAMEX, DETAIL the faulting VA, fatal event 1. -/
def State.framex (s : State) (f : PFault) : State :=
  match s.whoNode f.who with
  | none => (s.deliverFault f 0x22#8).fatal 1 (hubRecorder 0)
  | some (n, r) =>
    let va := f.va.toNat % 2 ^ 48
    let s := match f.who with
      | .log .. | .fetch .. => s.endLaunch n 0x08#8 va
      | .matrix c => (s.setMatrix c fun x => { x with queue := [], started := false, held := false, mprog := (x.mprog &&& ~~~3#64) ||| 2#64 }).endLaunch
          n 0x08#8 va
      | .chan c ch => match (s.chan c ch).queue with
        | o :: _ =>
          let s := s.failCopy c ch { o with obj := s.copyObj c o } 0x08#8 va false
          if o.own then s else s.endLaunch n 0x08#8 va
        | [] => s
      | .gather c => match s.gathers c with
        | o :: r =>
          let (s, l) := s.closeGathers c (fun q => q == o) false [o]
          let s := (s.setGathers c (l ++ r)).engineFails n o.isNode 0x08#8 va
          if o.isNode then s else s.endLaunch n 0x08#8 va
        | [] => s
      | .coll h => (s.setColls h ((s.colls h).drop 1)).engineFails n true 0x08#8 va
      | .record _ | .walker _ | .line .. => s.failNode n 0x08#8 va
    s.fatal 1 r

/-! Frames (R139, R154, R159, R161) -/

/-- A number written at its home slice by the device. -/
def State.pokeHome (s : State) (a n x : Nat) : State :=
  s.acceptPhys ((bytesOf n x).zipIdx.map fun (b, i) => (a + i, b)) none none

def State.putPte (s : State) (at_ : Nat) (e : Pte) : State := s.pokeHome at_ 16 e.toNat
def State.putFdt (s : State) (frame : Nat) (e : Nat) : State := s.pokeHome (s.fdtAt frame) 8 e

/-- A frame takes new contents encoded under a grade, with a count of mappings: it is neither free nor locked, and its metadata is clear
(R161). -/
def State.claim (s : State) (frame grade rcnt : Nat) : State :=
  let s := { s with mem := { s.mem with sectorMeta := s.mem.sectorMeta.filter fun e => e.1 / 2048 != frame } }
  s.putFdt frame (rcnt % 65536 + grade * 2 ^ 21)

/-- A frame goes back to the tail of its tier's pool (R385), counted by no mapping (notes/assumptions/19.md). -/
def State.giveBack (s : State) (frame : Nat) : State :=
  let s := s.putFdt frame (fdtGrade (s.fdt frame) * 2 ^ 21 + 2 ^ 20)
  if frame < fastFrames then { s with hub := { s.hub with fast := s.hub.fast ++ [frame] } }
  else { s with hub := { s.hub with cap := s.hub.cap ++ [frame] } }

/-- Cached copies of a frame go (R115, R139). -/
def State.forgetSectors (s : State) (frame : Nat) : State :=
  (List.range 2048).foldl (fun s i => s.forgetSector (frame * 2048 + i)) s

/-- Cached copies of a frame go, in clusters and in what a view composed from it, whatever the state of its page, and translations to it
that logged words hold (R115, R139). -/
def State.forgetFrame (s : State) (frame : Nat) : State :=
  (s.forgetSectors frame).forgetGot fun t => t.bytes.any fun l => match l with
    | .phys pa => pa / 65536 == frame
    | .peer _ | .replicas .. | .store _ | .zero => false

/-- Writes under way to a frame reach it. -/
def State.settleFrame (s : State) (frame : Nat) : State := s.drainWhere fun m => m.space == 0 && m.line / 512 == frame

/-- The contents of a frame, accepted writes and poison included, in another (R139). -/
def State.copyFrame (s : State) (from_ to_ : Nat) : State :=
  let s := s.settleFrame from_
  -- the frame is read at its home slices (R154)
  let s := (List.range 2048).foldl (fun s i => s.touchHome (from_ * 2048 + i)) s
  let move (k : Nat) (unit : Nat) : Nat := k - from_ * unit + to_ * unit
  let old := s.mem.phys.filter fun c => c.1 / 65536 == from_
  let phys := old.foldl (fun m c => m.poke (move c.1 65536) c.2) (s.mem.phys.clear (to_ * 65536) 65536)
  let bad := (s.mem.poison.filter fun q => q / 2048 == from_).map fun q => move q 2048
  let s := { s with mem := { s.mem with phys := phys, poison := nubNat ((s.mem.poison.filter fun q => q / 2048 != to_) ++ bad) } }
  (s.forgetFrame from_).forgetFrame to_

/-- Zero-fill a frame. -/
def State.zeroFrame (s : State) (frame : Nat) : State :=
  { s with mem := { s.mem with phys := s.mem.phys.clear (frame * 65536) 65536, poison := s.mem.poison.filter fun q => q / 2048 != frame } }.forgetFrame frame

/-- Leaves at every level below a table: (level, VA, PA of the entry, entry). -/
def entriesBelow (m : Memory) : Nat → Nat → Nat → Nat → List (Nat × Nat × Nat × Pte)
  | 0, _, _, _ => []
  | fuel + 1, level, table, va =>
    (List.range 1024).flatMap fun i =>
      let at_ := table + 16 * i
      let e := BitVec.ofNat 128 (m.num at_ 16)
      let v := va + i * 2 ^ levelBits level
      if !pteV e then []
      else if pteLeaf e then (if pteBad level e then [] else [(level, v, at_, e)])
      else if 3 ≤ level then []
      else entriesBelow m fuel (level + 1) (e.toNat / 2 ^ 64 % 2 ^ 50 * 2 ^ 14) v

/-- A page in memory, of any size. -/
structure PageAt where
  tenant : Nat
  level : Nat
  va : Nat
  at_ : Nat
  entry : Pte
  deriving DecidableEq, Repr
def PageAt.frame (p : PageAt) : Nat := pteFrame p.entry
/-- Its frames of 64 KiB. -/
def PageAt.frames (p : PageAt) : Nat := 2 ^ (levelBits p.level - 16)

/-- Every page of every enabled address space that lies in this package's memory. -/
def State.pagesAt (s : State) : List PageAt :=
  (List.range 16).flatMap fun t =>
    let r := nth s.hub.ptroot t 0#64
    if r.getLsbD 0 then
      (entriesBelow s.mem.phys 4 0 (r.toNat / 2 ^ 14 * 2 ^ 14) 0).filterMap fun (l, v, a, e) =>
        if pteTier e = 3 then none else some { tenant := t, level := l, va := v, at_ := a, entry := e }
    else []

/-- The 64 KiB pages of every enabled address space: (tenant, VA, entry's PA, entry). -/
def State.pages (s : State) : List (Nat × Nat × Nat × Pte) :=
  (s.pagesAt.filter (·.level == 3)).map fun p => (p.tenant, p.va, p.at_, p.entry)

/-- Pages that an access of `n` bytes needs: those it names, and for a view access those of its base locations and index entries. -/
def State.pagesOf (s : State) (q : Requester) (a : Int) (n : Nat) : List Nat :=
  if spaceOf a = .shadow then
    match s.ownView q.tenant (a.toNat / 2 ^ 44 % 4096) with
    | none => []
    | some view =>
      let v := viewOf view.words
      if v.remote then []
      else nubNat ((List.range n).flatMap fun i =>
        let o := a.toNat % 2 ^ 44 + i
        let index := if v.xform = 4 then [(v.idxBase + o / v.esize * v.idxSize) / 65536] else []
        index ++ match (s.mapOffset (viewRequester q.peek view) v o).2 with
          | .ok (.at_ b) => [b.toNat / 65536]
          | .ok _ | .error _ => [])
  else nubNat [a.toNat / 65536, (a.toNat + n - 1) / 65536]

/-- Addresses in every page that a gather or selector reads or writes (R155): its index vector, the source elements that it names, its
destination and DMAP; its summaries, query, page table, results and the pages that it has chosen. -/
def State.gatherReach (s : State) (q : Requester) (op : GatherOp) : List Int :=
  let peek (a n : Nat) : Option Nat := match (s.engineRead q.peek (.va (a : Int)) 0 n).2 with | .ok bs => some (leNat bs.bytes) | _ => none
  if op.psel then
    let entry (k : Nat) : Nat := op.at_ 0x10 8 + 8 * k
    pagesFrom (op.at_ 0 8) (128 * op.pages) ++ pagesFrom (op.at_ 8 8) 128 ++ pagesFrom (op.at_ 0x18 8) (8 * op.pick)
      ++ op.chosen.flatMap fun x => (entry x.1 : Int) :: match peek (entry x.1) 8 with
        | some a => pagesFrom a (2 ^ op.lps * 128)
        | none => []
  else
    let source (i : Nat) : List Int := match peek (op.at_ 8 8 + i * op.idxSize) op.idxSize with
      | some j => if j < op.at_ 0x28 8 then pagesFrom (op.at_ 0 8 + j * op.size) op.size else []
      | none => []
    pagesFrom (op.at_ 8 8) (op.count * op.idxSize) ++ (List.range op.count).flatMap source
      ++ (if op.dsp then [] else pagesFrom (op.at_ 0x10 8) (op.count * op.size))
      ++ (if op.at_ 0x18 8 = 0 then [] else pagesFrom (op.at_ 0x18 8) ((op.count + 7) / 8))

/-- Pages that the faulting instruction or operation needs (R155). -/
def State.needed (s : State) (f : PFault) : List Nat :=
  let engine (c : Nat) (priv : Bool) : Requester := engineRequester f.tenant c priv
  match f.who with
  | .log k n => match s.ctx? k with
    | some c => match c.log.look n with
      | some e => e.reqs.flatMap fun r => (c.touched e.word r).map Int.toNat ++
          (if e.word.memSeg = 0 then s.pagesOf c.requester r.addr (memBytes e.word) else [])
      | none => []
    | none => []
  | .fetch k id => match (s.ctx? k).bind (·.path? id) with
    | some p => [p.pc.toNat / 65536, (p.pc.toNat + 135) / 65536]
    | none => []
  | .chan c ch => match (s.chan c ch).queue with
    | o :: _ =>
      let (si, di, n) := o.unit
      ([o.src.va? si, o.dst.va? di].filterMap id).flatMap fun a => s.pagesOf (engine c o.priv) a n
    | [] => []
  | .gather c => match s.gathers c with
    | o :: _ => (s.gatherReach (engine c o.priv) o).flatMap fun a => s.pagesOf (engine c o.priv) a 1
    | [] => []
  | .matrix c => match (s.matrix c).queue with
    | o :: _ =>
      let x := s.matrix c
      let rs := bandRows o.cDesc.rows x.rowBand x.from_ 16
      let cs := bandCols o.cDesc.cols x.cb
      (o.ahead rs cs ++ o.beside rs cs).flatMap fun a => s.pagesOf (o.requester c) a 1
    | [] => []
  | .line core _ line => s.pagesOf { (engine (core / 9) true) with unit := none } (line * 128 : Nat) 128
  | .coll h => match s.colls h with
    | o :: _ =>
      let n := o.at_ 2 * o.size
      let parts := if o.kind = 2 then (s.collMembers o).length else 1
      (pagesFrom (o.at_ 0) n ++ pagesFrom (o.at_ 1) (parts * n)).flatMap fun a => s.pagesOf (hubRequester o.tenant h o.priv) a 1
    | [] => []
  | .record n => match (s.node? n).bind (·.crec) with | some va => [va.toNat / 65536] | none => []
  | .walker ch => [(s.chainBase ch + 16 * (s.chainHead ch % s.chainRing ch)) / 65536]

/-- Pages that the tracker never selects and eviction never takes: pinned, or in a frame mapped twice. -/
def State.keeps (s : State) (e : Pte) : Bool := ptePin e || decide (2 ≤ fdtRcnt (s.fdt (pteFrame e)))

/-- A page that a resolved fault holds for the replay of a logged word, wherever its context stands (R151). -/
def State.heldResident (s : State) (tenant page : Nat) : Bool :=
  s.holders.any fun c => c.tenant == tenant && c.log.any fun (_, e) => e.state == .resolved && e.kept == some page

/-- The victim of an eviction (R155): the coldest FAST page, ties to the lowest frame. -/
def State.victim (s : State) (f : PFault) : Option (Nat × Nat × Nat × Pte) :=
  let heat (e : Pte) : Nat := (s.mem.hot.look (pteFrame e)).getD 0
  let need := s.needed f
  let busy (t v : Nat) : Bool := (s.eng.faults.any fun (_, g) => g.tenant == t && g.va.toNat / 65536 == v / 65536)
    || (t == f.tenant && need.contains (v / 65536)) || s.heldResident t (v / 65536)
  let can := s.pages.filter fun (t, v, _, e) => pteTier e == 0 && !s.keeps e && !busy t v
  let less (a b : Nat × Nat × Nat × Pte) : Bool :=
    decide (heat a.2.2.2 < heat b.2.2.2) || (heat a.2.2.2 == heat b.2.2.2 && decide (pteFrame a.2.2.2 < pteFrame b.2.2.2))
  can.foldl (fun best x => match best with | none => some x | some y => if less x y then some x else best) none

/-- What asking for a fast frame gives. -/
inductive Taken where
  | frame (f : Nat)
  /-- no page can be evicted: resolve in place -/
  | inPlace
  /-- no capacity frame for the page to be evicted: FRAMEX -/
  | exhausted
  deriving DecidableEq, Repr

/-- Move a page to another frame of a tier: contents, count, entry; its old frame goes back (R139, R154). -/
def State.movePage (s : State) (tenant va at_ : Nat) (e : Pte) (frame tier : Nat) : State :=
  let old := pteFrame e
  let n := fdtRcnt (s.fdt old)
  let s := ((s.copyFrame old frame).claim frame (pteGrade e) n).putPte at_ (pteMove e frame tier)
  (s.giveBack old).tlbDropPage tenant va

/-- A fast frame from the pool, or by evicting a page (R154, R155). -/
def State.takeFast (s : State) (f : PFault) : State × Taken :=
  match s.hub.fast with
  | x :: r => ({ s with hub := { s.hub with fast := r } }, .frame x)
  | [] =>
    match s.victim f, s.hub.cap with
    | none, _ => (s, .inPlace)
    | some _, [] => (s, .exhausted)
    | some (t, v, at_, e), c :: r =>
      let s := { s with hub := { s.hub with cap := r } }
      let s := s.movePage t v at_ e c 1
      match s.hub.fast with
      | x :: r => ({ s with hub := { s.hub with fast := r } }, .frame x)
      | [] => (s, .inPlace)

/-- A capacity frame. -/
def State.takeCap (s : State) : State × Option Nat :=
  match s.hub.cap with
  | c :: r => ({ s with hub := { s.hub with cap := r } }, some c)
  | [] => (s, none)

/-! Resolutions -/

/-- A resolution of a parked fault with this code that the device is to make. -/
def State.deviceFault (s : State) (n : Nat) (code : BitVec 8) : Option PFault :=
  match s.eng.faults.look n with
  | some f => if f.code = code ∧ !f.toDriver then some f else none
  | none => none

/-- CAPRES_RESOLVE (R154, R155). -/
def execCapresResolve (fault : Nat) (s : State) : Host.Outcome State Fault Refusal :=
  match s.deviceFault fault 0x19#8 with
  | none => .next s
  | some f =>
    match s.walk f.tenant f.va.toNat with
    | .leaf e at_ 3 =>
      if pteTier e ≠ 1 then .next (s.releasePage f)
      -- a pinned page does not migrate: it is used where it lies (R157, notes/assumptions/99.md)
      else if ptePin e then .next (((s.putPte at_ (pteWith e (3 * 2 ^ 18) (2 * 2 ^ 18))).tlbDropPage f.tenant f.va.toNat).releasePage f)
      else
        let (s, t) := s.takeFast f
        match t with
        | .exhausted => .next ((s.framex f).releasePage f)
        | .inPlace => .next (((s.putPte at_ (pteWith e (3 * 2 ^ 18) (2 * 2 ^ 18))).tlbDropPage f.tenant f.va.toNat).releasePage f)
        | .frame x => .next ((s.movePage f.tenant f.va.toNat at_ e x 0).releasePage f)
    | _ => .next (s.releasePage f)

/-- ZERO_FILL_RESOLVE (R154, R155). -/
def execZeroFillResolve (fault : Nat) (s : State) : Host.Outcome State Fault Refusal :=
  match s.deviceFault fault 0x18#8 with
  | none => .next s
  | some f =>
    match s.walk f.tenant f.va.toNat with
    | .absent at_ 3 true =>
      let e := BitVec.ofNat 128 (s.mem.phys.num at_ 16)
      let map (s : State) (x tier : Nat) : State :=
        ((((s.zeroFrame x).claim x (pteGrade e) 1).putPte at_ (pteWith (pteMove e x tier) (2 ^ 17) 1)).tlbDropPage f.tenant f.va.toNat).releasePage f
      let (s, t) := s.takeFast f
      match t with
      | .exhausted => .next ((s.framex f).releasePage f)
      | .frame x => .next (map s x 0)
      | .inPlace =>
        let (s, c) := s.takeCap
        match c with
        | some c => .next (map s c 2)
        | none => .next ((s.framex f).releasePage f)
    | _ => .next (s.releasePage f)

/-- A resolution fails: its faults go to the driver's queue or to software, with its code (R156, R159). -/
def State.unresolved (s : State) (f : PFault) : State :=
  let same := s.eng.faults.filter fun (_, g) => g.tenant == f.tenant && g.code == f.code && g.va.toNat / 65536 == f.va.toNat / 65536
  if (nth s.hub.ptroot f.tenant 0#64).getLsbD 1 then
    same.foldl (fun s (n, g) =>
      let fs := s.eng.faults.put n { g with toDriver := true }
      { s with eng := { s.eng with faults := fs } }.fqPost n) s
  else same.foldl (fun s (n, g) => (s.dropFault n).deliverFault g g.code) s

/-- COWF_RESOLVE (R159, R386). -/
def execCowfResolve (fault : Nat) (s : State) : Host.Outcome State Fault Refusal :=
  match s.deviceFault fault 0x1A#8 with
  | none => .next s
  | some f =>
    match s.walk f.tenant f.va.toNat with
    | .leaf e at_ level =>
      let old := pteFrame e
      let fdt := s.fdt old
      let ready (e : Pte) : Pte := pteWith e (2 ^ 13) (2 ^ 5)
      if !pteCow e then .next (s.releasePage f)
      else if level ≠ 3 ∨ fdtRcnt fdt = 0 then .next (s.unresolved f)
      else if fdtRcnt fdt = 1 then .next (((s.putPte at_ (ready e)).tlbDropPage f.tenant f.va.toNat).releasePage f)
      else
        let map (s : State) (x tier : Nat) : State :=
          let s := (((s.copyFrame old x).claim x (pteGrade e) 1).putPte at_ (ready (pteMove e x tier))).tlbDropPage f.tenant f.va.toNat
          (s.putFdt old (fdtWith (s.fdt old) (fdtRcnt (s.fdt old) - 1) false).toNat).releasePage f
        let (s, t) := s.takeFast f
        match t with
        | .exhausted => .next ((s.framex f).releasePage f)
        | .frame x => .next (map s x 0)
        -- with no page to evict the copy is mapped in place, as a zero-fill is (notes/assumptions/19.md)
        | .inPlace =>
          let (s, c) := s.takeCap
          match c with
          | some c => .next (map s c 2)
          | none => .next ((s.framex f).releasePage f)
    | _ => .next (s.releasePage f)

/-! The driver's answers (R228) -/

/-- Apply the answer of the record at a position of the ring: 1 retry, else deliver; another code than 1 or 2 is reported. -/
def State.answer (s : State) (pos : Nat) : State :=
  let a := s.hub.fqBase.toNat + 32 * (pos % s.fqSize)
  let ans := s.mem.phys.num (a + 0x18) 8
  let parked := s.eng.faults.find? fun (_, f) => f.queued == some pos
  -- the fault of a record may have gone with its context since
  let va := match parked with | some (_, f) => f.va.toNat | none => s.mem.phys.num a 8
  let s := if ans = 1 ∨ ans = 2 then s else s.galley (hubRecorder 0) 4 0x85#8 0 3 0 (dbl (ans % 256 * 2 ^ 56 + va % 2 ^ 56))
  match parked with
  | none => s
  | some (n, f) =>
    let s := s.dropFault n
    if ans = 1 then s.releaseWho f.who none else s.deliverFault f f.code

/-- A write of HUB.FQ.HEAD: it applies the answers of the records it passes, and parked faults take the room. -/
def State.writeFqHead (s : State) (value : Dbl) : State :=
  let head := s.hub.fqHead.toNat
  let upto := min value.toNat s.hub.fqTail.toNat
  let s := (List.range (upto - head)).foldl (fun s i => s.answer (head + i)) s
  let s := { s with hub := { s.hub with fqHead := value } }
  (s.eng.faults.filter fun (_, f) => f.toDriver && f.queued.isNone).foldl (fun s (n, _) => s.fqPost n) s

/-- FQ_HEAD_WRITE (R228). -/
def execFqHeadWrite (value : Dbl) (s : State) : Host.Outcome State Fault Refusal := .next (s.writeFqHead value)

/-! The hot-page tracker (R158) -/

/-- Insert by falling heat, ties to the lower frame. -/
def hotInsert (heat : Pte → Nat) (x : Nat × Nat × Nat × Pte) : List (Nat × Nat × Nat × Pte) → List (Nat × Nat × Nat × Pte)
  | [] => [x]
  | y :: r =>
    let h (z : Nat × Nat × Nat × Pte) : Nat := heat z.2.2.2
    if h y < h x ∨ (h y = h x ∧ pteFrame x.2.2.2 < pteFrame y.2.2.2) then x :: y :: r else y :: hotInsert heat x r

/-- Go down a ranking: kept pages add to SKIP, others are promoted, while batch and free fast frames last. -/
def State.promote (s : State) (hub : Nat) : List (Nat × Nat × Nat × Pte) → Nat → State
  | [], _ => s
  | _ :: _, 0 => s
  | (t, v, at_, e) :: r, n + 1 =>
    if s.keeps e then
      let x := nth s.hub.hotSkip hub 0#32
      let s := { s with hub := { s.hub with hotSkip := setNth s.hub.hotSkip hub (if x = 0xFFFFFFFF#32 then x else x + 1#32) } }
      s.promote hub r (n + 1)
    else match s.hub.fast with
      | [] => s
      | x :: q => ({ s with hub := { s.hub with fast := q } }.movePage t v at_ e x 0).promote hub r n

/-- EPOCH_END (R158): once EPOCH·2^16 f-cycles have passed, the hub promotes by its counts, then halves them. -/
def execEpochEnd (hub : Nat) (s : State) : Host.Outcome State Fault Refusal :=
  let ctl := (nth s.hub.hotCtl hub 0#32).toNat
  let began := nth s.hub.epoch hub 0
  if ctl % 256 = 0 ∨ s.fCyc < began + ctl % 256 * 2 ^ 16 then .next s
  else
    let mine (f : Nat) : Bool := s.frameHub f == some hub
    let heat (e : Pte) : Nat := (s.mem.hot.look (pteFrame e)).getD 0
    let cands := (s.pages.filter fun (_, _, _, e) => pteTier e == 2 && mine (pteFrame e)).foldl (fun l x => hotInsert heat x l) []
    let s := if ctl / 2 ^ 16 % 2 = 1 then s.promote hub cands (ctl / 2 ^ 8 % 256) else s
    let halved := s.mem.hot.map fun (f, n) => (f, if mine f then n / 2 else n)
    .next { s with mem := { s.mem with hot := halved.filter fun e => e.2 != 0 }, hub := { s.hub with epoch := setNth s.hub.epoch hub s.fCyc } }

end Sys2Proof.Machine
end

