-- ==== Sys2Proof/Machine/Fetch.lean ====
section
/-! DEFINITION. The word that a lane issues next, the passing of cycles, errors that checks find, which events a halted package admits, and
placing one word to be issued (R15, R161, R206, R207, R221, R237, R239, Table 11.4). -/

namespace Sys2Proof.Machine

/-- What a lane or compositor does next. -/
inductive NextWord where
  /-- no clause in progress: an issue opportunity -/
  | opportunity
  | word (i : Instr)
  | undecodable (w : Dbl)
  | none
  deriving DecidableEq, Repr

/-- The next word of the clause in progress on a lane, decoded in the CLASS of its context (R238, R239). -/
def State.nextWord (s : State) (cluster lane : Nat) : NextWord :=
  match (s.lane (laneKey cluster lane)).clause with
  | none => .opportunity
  | some cl =>
    match s.ctx? (ctxKey cluster lane cl.bind), parseHeader cl.header, cl.words[cl.pos - 1]? with
    | some c, some h, some w =>
      match decode c.cls (h.paired cl.pos) w with
      | .ok i => .word i
      | .error _ => .undecodable w
    | _, _, _ => .none

/-- A clause whose context is gone is dropped. -/
def State.dropClause (s : State) (cluster lane : Nat) : State :=
  s.changeLane (laneKey cluster lane) fun l => { l with clause := none }

/-- With the agenda empty and nothing ready on the issuer's lane, the first word in flight there commits (notes/assumptions/1.md). -/
def State.idleCommit (s : State) (cluster lane : Nat) : Option (Nat × Nat) :=
  if (s.readyBinds (laneKey cluster lane)).isEmpty then
    (s.onLane cluster lane).findSome? fun c => match c.inflight with | e :: _ => some (c.key, e.serial) | [] => none
  else none

/-- Cycles of a half-rate window (R15, R206): two cycles of the clock are one own cycle of the domain, `odd` is the first of the next
pair. The window ends with its last own cycle, after which the domain counts every cycle again. -/
def State.tickDomain (s : State) (a f : Nat) (d left odd : Nat) : State :=
  let n := if d < 1152 then a else f
  let own := min left ((odd + n) / 2)
  let used := if own = left then 2 * left - odd else n
  let rel := { s.rel with halves := s.rel.halves.put d (left - own, if own = left then 0 else (odd + n) % 2),
                          lost := s.rel.lost.put d ((s.rel.lost.look d).getD 0 + (used - own)) }
  if left = 0 then s else { s with rel := rel }

/-- Cycles pass (R15); none in full freeze (R221). -/
def State.tick (s : State) (a f : Nat) : State :=
  if s.rel.fullFreeze then s
  else
    let s := s.rel.halves.foldl (fun s e => s.tickDomain a f e.1 e.2.1 e.2.2) s
    { s with aCyc := s.aCyc + a, fCyc := s.fCyc + f }

/-- A detected error is corrected by the code itself: a bit or a symbol under SYM, a bit under SECDED and in the cluster store (R161,
R207). -/
def State.corrects (s : State) (u : PoisonUnit) (kind : Nat) : Bool :=
  match u with
  | .word _ => kind == 0
  | .sector q => match fdtGrade (s.fdt (q / 2048)) with | 0 => decide (kind ≤ 1) | 1 => kind == 0 | _ => false

/-- Who records an error: the hub that homes the sector, or the core whose bank holds the word (R396). -/
def State.errorRecorder (s : State) (u : PoisonUnit) : Option Nat :=
  match u with
  | .word k => some (coreOf (k / 2 ^ 24) (k % 2 ^ 24 / 0x8000))
  | .sector q => (s.homeHub (q * 32)).map hubRecorder

/-- A check finds an error in a sector of memory or a word of a store (R161, R207): corrected, it is counted and recorded with its sector
number; any other poisons the unit (notes/assumptions/84.md). -/
def State.errorFound (s : State) (u : PoisonUnit) (kind : Nat) : State :=
  match s.errorRecorder u with
  | none => s
  | some r =>
    if s.corrects u kind then
      let s := { s with rel := { s.rel with corrected := s.rel.corrected.put r ((s.rel.corrected.look r).getD 0 + 1) } }
      s.galley r 1 0x81#8 0 3 0 (dbl (match u with | .sector q => q | .word _ => 0))
    else s.setPoison u

/-- What a check has found, as the agenda names it; a package in full freeze makes none. -/
def State.checked (s : State) (store : Bool) (at_ kind : Nat) : State :=
  if s.rel.fullFreeze then s else s.errorFound (if store then .word (at_ % 2 ^ 31 / 4 * 4) else .sector at_) kind

/-- Events that happen in a package that has halted or is in full freeze: resets, and what H0's management path and mailbox do; with H0
lost nothing does these any more (R13, R19). -/
def State.admits (s : State) (i : Instr) : Bool :=
  if s.rel.h0Lost then (match i with | .coldReset _ | .warmReset _ | .freeze _ | .fatalEvent _ _ => true | _ => false)
  else if s.rel.fullFreeze then (match i with | .coldReset _ | .warmReset _ | .attestation _ => true | _ => false)
  else if s.rel.halted then
    (match i with
     | .coldReset _ | .warmReset _ | .attestation _ | .fullFreeze | .mbxInfo _ | .mbxRead _ _ | .mbxAck _ | .mbxCommandDone _ | .freeze _
     | .proofCut | .fatalEvent _ _ => true
     -- the mailbox of a function through its window (R224, R227)
     | .bar2Access (.bar0 _ off) _ _ => decide (0x100000 ≤ off) && decide (off < 0x102000)
     | _ => false)
  else true

/-! Placing one word (notes/assumptions/1.md) -/

/-- A node as H0's table holds it, with every payload field zero but REGS. -/
def Node.blank (kind : NodeKind) : Node :=
  { chain := 0, seq := 1, tenant := 0, priv := true, kind := kind, prio := 0, rscope := 5, payloadVa := 0#64, crec := none,
    waitEn := false, waitChan := 0, waitSeq := 0#64, phandler := 0#64, place := 0#128, feet := [], slots := [],
    payload := [0#64, BitVec.ofNat 64 (24 * 2 ^ 32), BitVec.ofNat 64 (2 ^ 32 + 32), BitVec.ofNat 64 (2 ^ 32 + 1), 0#64, 0#64, 0#64, 0#64, BitVec.ofNat 64 (2 ^ 56 + 2 ^ 53), 0#64,
                0#64, 0#64, 0#64, 0#64, 0#64, 0#64],
    state := .running, accept := 0, preds := [], predFailed := false, readyAt := 0, passedAt := none, blocking := false,
    code := 0#8, detail := 0#48, engineFail := none, relaunches := 0, released := [], noRecord := none, recv := none }

/-- A context with one word as the clause in progress, next to issue, as its launch or compositor program would leave it: a warp of
32 items on cluster 0, lane 0, binding 0, or the program of cluster 0's compositor. -/
def State.placeWord (s : State) (h x : Dbl) (k : Cls) : State :=
  let comp := k == .compositor
  let lane := if comp then 512 else 0
  let node := Node.blank (if comp then .comp else .kernel)
  let s := { s with work := { s.work with nodes := s.work.nodes.put 0 node } }
  let box : Box := { lo := quadOf fun _ => 0, hi := { d0 := 31, d1 := 0, d2 := 0, d3 := 0 } }
  let s := if comp then s else s.placeGang 0 node 0 box [(0, 0, 0)]
  let g := s.groupNo 0 0
  let (uid, s) := s.fresh
  let c := Ctx.fresh uid (if comp then .comp else .warp) 0 node 0 lane 0 box (if comp then [] else List.range 24) 0#64
  let launched : Word := if comp then 1#32 else 0xFFFFFFFF#32
  let c := { c with launched := launched, group := if comp then none else g, segs := if comp then compSegs 0 0 else s.segsFor node g,
                    paths := [Path.at 0 launched 0#64 false] }
  let cl : Clause := { bind := 0, path := 0, pc := 0#64, header := h, words := [x], pos := 1, stage := none }
  let s := (s.putCtx c).changeLane (laneKey 0 lane) fun l => { l with clause := some cl }
  { s with issuer := some (0, lane), agenda := [] }

end Sys2Proof.Machine
end

