-- ==== Sys2Proof/Machine/Mapping.lean ====
section
/-! DEFINITION. Page attributes, shared frames, translation invalidation, bank modes, and the privileged register space (R69, R70, R89,
R97, R136, R146, R158, R229, R235, R278, R348, R350, R351, R367, R368, R374, Tables 4.2, 4.3, 7.7, 14.6, 16.6, 16.7, 16.13). -/

namespace Sys2Proof.Machine

/-! Page attributes (R136, R348) -/

/-- The use of a shadow address faults with VRIGHT (R97). -/
def shadowFault (slot : Nat) (a : Dbl) : MemOut := raiseFault .read [(slot, { code := 0x14, addr := a.toNat, bva := 0, page := 0 })]

/-- A page that a range meets: its first VA, its size, and its leaf. -/
abbrev RangePage := Nat × Nat × Option (Nat × Pte)

/-- The pages from `va` to below `last`. -/
def State.rangePages (s : State) (tenant last : Nat) : Nat → Nat → List RangePage
  | 0, _ => []
  | fuel + 1, va =>
    if last ≤ va then []
    else
      match (if va < 2 ^ 56 then s.walk tenant va else .bad) with
      | .leaf e at_ level =>
        let n := 2 ^ levelBits level
        (va / n * n, n, some (at_, e)) :: s.rangePages tenant last fuel (va / n * n + n)
      | _ => (va, 65536, none) :: s.rangePages tenant last fuel (va + 65536)

/-- Table 16.6: the nonzero result of `pgattr`, if any. -/
def State.pgattrBad (s : State) (a n c : Nat) (tenant : Nat) (ps : List RangePage) : Option Nat :=
  let cst := c % 4
  let owner := c / 4 % 128
  if a % 65536 ≠ 0 ∨ n % 65536 ≠ 0 ∨ n = 0 ∨ (ps.any fun (v, k, _) => decide (v < a ∨ a + n < v + k)) then some 1
  else if !(nth s.hub.ptroot tenant 0#64).getLsbD 0 ∨ (ps.any fun (_, _, e) => e.isNone) then some 2
  else if cst = 3 ∨ (owner ≠ 0 ∧ cst ≠ 2) ∨ (cst = 2 ∧ s.clusterDropped owner) then some 3
  else if ps.any (fun (_, _, e) => match e with | some (_, e) => pteTier e == 3 | none => false) then some 4
  else none

/-- Mark the pages that a `pgattr` changes as in transit, and drop their translations (Table 7.7 step 1). -/
def State.markTransit (s : State) (uid tenant cst owner : Nat) (ps : List RangePage) : State :=
  ps.foldl (fun s p => match p with
    | (_, _, none) => s
    | (v, _, some (at_, e)) =>
      if (pteCst e = cst ∧ pteOwner e = owner) ∨ pteXt e then s
      else
        let s := (s.putPte at_ (pteWith (BitVec.ofNat 128 (s.mem.phys.num at_ 16)) 0 (2 ^ 27))).tlbDropPage tenant v
        { s with eng := { s.eng with transit := s.eng.transit ++ [(uid, at_)] } }) s

/-- Table 7.7 for one page: translations go, stores under way are accepted, cached copies and translations that logged words hold go, and
the entry takes its new state. -/
def State.changePage (s : State) (tenant cst owner : Nat) (p : RangePage) : State :=
  match p with
  | (_, _, none) => s
  | (v, n, some (at_, e)) =>
    if pteCst e = cst ∧ pteOwner e = owner then s
    else
      let lo := pteFrame e * 2048
      let hi := lo + n / 32
      let s := s.tlbDropPage tenant v
      let s := s.dropSectors fun l k x => match l.view with
        | some _ => decide (x.lo < hi) && decide (lo ≤ x.hi)
        | none => decide (lo ≤ l.line * 4 + k) && decide (l.line * 4 + k < hi)
      let s := { s with mem := { s.mem with directory := s.mem.directory.filter fun d => !(decide (lo ≤ d.1 * 4) && decide (d.1 * 4 < hi)) } }
      let s := s.forgetGot fun t => t.leaves.contains at_
      s.putPte at_ (pteWith (BitVec.ofNat 128 (s.mem.phys.num at_ 16)) (3 * 2 ^ 9 + 127 * 2 ^ 20) (cst * 2 ^ 9 + owner * 2 ^ 20))

/-- After a drain, a view line that a fault still holds has a byte on these pages, or one that cannot be mapped yet (R112, R136). -/
def State.heldOn (s : State) (ps : List RangePage) : Bool :=
  let on (pa : Nat) : Bool := ps.any fun p => match p with
    | (_, n, some (_, e)) => decide (pteFrame e * 65536 ≤ pa) && decide (pa < pteFrame e * 65536 + n)
    | (_, _, none) => false
  s.mem.merge.any fun m => m.space == 1 && m.written.any fun b =>
    match (s.globalTarget (m.requester b.priv).peek .write false ((m.line * 128 + b.off : Nat) : Int) 1).2 with
    | .ok t => t.bytes.any fun l => match l with | .phys pa => on pa | .peer _ | .replicas .. | .store _ | .zero => false
    | .error _ => true

def pgattrAct (w : RegWord) (s : State) (c : Ctx) (reqs : List Req) : State × MemOut :=
  match reqs with
  | [] => (s, .done [] 0#32 none)
  | r :: _ =>
    let a := r.a.toNat
    let n := r.b.toNat
    let tenant := w.modAt 17 4
    let ans (x : Nat) : MemOut := .done (reqs.flatMap fun y => c.slotWrites (.pgattr w) y.slot (BitVec.ofNat 128 x)) 0#32 none
    if spaceOf (a : Int) = .shadow then (s, shadowFault r.slot r.a)
    else
      let ps := s.rangePages tenant (a + n) (n / 65536 + 1) a
      match s.pgattrBad a n r.c.toNat tenant ps with
      | some x => (s.endTransit c.uid, ans x)
      | none =>
        let cst := r.c.toNat % 4
        let owner := r.c.toNat / 4 % 128
        let s := s.drainWhere fun _ => true
        -- while a line that the drain left behind is waited for, accesses to the range park (notes/assumptions/117.md)
        if s.heldOn ps then (s.markTransit c.uid tenant cst owner ps, .begun)
        else (ps.foldl (fun s p => s.changePage tenant cst owner p) (s.endTransit c.uid), ans 0)
/-- PGATTR (R348). -/
def execPgattr (w : RegWord) (s : State) : Host.Outcome State Fault Refusal := s.issueWord (.pgattr w) (warpMemBody (.pgattr w) 0 (pgattrAct w))

/-! Shared frames (R350, R351) -/

/-- Table 16.7 for `pshare`: the result, and the change when it is 0. -/
def State.share (s : State) (tenant a b : Nat) : State × Nat :=
  if a % 65536 ≠ 0 ∨ b % 65536 ≠ 0 then (s, 1)
  else match (if a < 2 ^ 56 then s.walk tenant a else .bad) with
    | .leaf e at_ 3 =>
      if pteTier e = 1 ∨ pteTier e = 3 then (s, 2)
      else match (if b < 2 ^ 56 then s.walk tenant b else .bad) with
        | .absent to_ 3 _ =>
          let f := s.fdt (pteFrame e)
          if fdtRcnt f = 0xFFFF then (s, 4)
          else if pteX e || !pteU e then (s, 5)
          else
            let e := BitVec.ofNat 128 (s.mem.phys.num at_ 16)
            let s := s.putPte to_ (pteWith e (2 ^ 5 + 2 ^ 15 + 2 ^ 16) (2 ^ 13))
            let s := s.putPte at_ (pteWith e (2 ^ 5) (2 ^ 13))
            let s := s.putFdt (pteFrame e) (fdtWith f (fdtRcnt f + 1) (fdtFree f)).toNat
            -- stores translated through the source entry are accepted before it changes for good (R146)
            ((s.drainWhere fun _ => true).tlbDropPage tenant a, 0)
        | _ => (s, 3)
    | _ => (s, 2)

def pshareAct (w : RegWord) (s : State) (c : Ctx) (reqs : List Req) : State × MemOut :=
  match reqs with
  | [] => (s, .done [] 0#32 none)
  | r :: _ =>
    if spaceOf (r.a.toNat : Int) = .shadow then (s, shadowFault r.slot r.a)
    else if spaceOf (r.b.toNat : Int) = .shadow then (s, shadowFault r.slot r.b)
    else
      let (s, x) := s.share c.tenant r.a.toNat r.b.toNat
      (s, .done (reqs.flatMap fun y => c.slotWrites (.pshare w) y.slot (BitVec.ofNat 128 x)) 0#32 none)
/-- PSHARE (R350). -/
def execPshare (w : RegWord) (s : State) : Host.Outcome State Fault Refusal := s.issueWord (.pshare w) (warpMemBody (.pshare w) 0 (pshareAct w))

/-- Table 16.7 for `prel`. The frame of a peer page is no frame of this package's table: the entry alone changes. -/
def State.unshare (s : State) (tenant a : Nat) : State × Nat :=
  if a % 65536 ≠ 0 then (s, 1)
  else match (if a < 2 ^ 56 then s.walk tenant a else .bad) with
    | .leaf e at_ 3 =>
      if ptePin e then (s, 3)
      else
        let s := (s.drainWhere fun _ => true).tlbDropPage tenant a
        let s := s.putPte at_ (pteWith (BitVec.ofNat 128 (s.mem.phys.num at_ 16)) (2 ^ 17 + 1) 0)
        let frame := pteFrame e
        let f := s.fdt frame
        if pteTier e = 3 ∨ fdtRcnt f = 0 then (s, 0)
        else if fdtRcnt f = 1 then ((s.forgetFrame frame).giveBack frame, 0)
        else (s.putFdt frame (fdtWith f (fdtRcnt f - 1) (fdtFree f)).toNat, 0)
    | _ => (s, 2)

def prelAct (w : RegWord) (s : State) (c : Ctx) (reqs : List Req) : State × MemOut :=
  match reqs with
  | [] => (s, .done [] 0#32 none)
  | r :: _ =>
    if spaceOf (r.a.toNat : Int) = .shadow then (s, shadowFault r.slot r.a)
    else
      let (s, x) := s.unshare c.tenant r.a.toNat
      (s, .done (reqs.flatMap fun y => c.slotWrites (.prel w) y.slot (BitVec.ofNat 128 x)) 0#32 none)
/-- PREL (R351). -/
def execPrel (w : RegWord) (s : State) : Host.Outcome State Fault Refusal := s.issueWord (.prel w) (warpMemBody (.prel w) 0 (prelAct w))

/-! Translations (R146, R374) -/

def tlbiAct (w : RegWord) (s : State) (_ : Ctx) (reqs : List Req) : State × MemOut :=
  match reqs with
  | [] => (s, .done [] 0#32 none)
  | r :: _ =>
    let kind := w.modAt 21 2
    let ten := w.modAt 17 4
    let va := r.a.toNat
    if kind = 0 ∧ spaceOf (va : Int) = .shadow then (s, shadowFault r.slot r.a)
    else if kind = 0 ∧ 2 ^ 57 ≤ va then (s, .done [] 0#32 none)
    else
      let s := s.drainWhere fun _ => true
      (match kind with
        | 0 => s.tlbDropPage ten va
        | 1 => s.tlbDrop fun t => t.tenant == ten
        | _ => s.tlbDrop fun _ => true, .done [] 0#32 none)
/-- TLBI (R374). -/
def execTlbi (w : RegWord) (s : State) : Host.Outcome State Fault Refusal := s.issueWord (.tlbi w) (warpMemBody (.tlbi w) 0 (tlbiAct w))

/-! Bank modes (R69, R70) -/

/-- A request for a mode: the result of Table 14.6. The reuse latch of the bank's lane is invalid from then on (R74). -/
def State.bankRequest (s : State) (cluster bank mode : Nat) : State × Nat :=
  let w := s.bankWord cluster bank
  let s := if bank < 512 then s.clearLatch (laneKey cluster bank) else s
  if 511 < bank ∨ 3 < mode then (s, 3)
  else if bankState w ≠ 0 then (s, 2)
  else if bankMode w = mode then (s, 1)
  else (s.setBank cluster bank (bankWordOf (bankMode w) mode 1), 0)

/-- BMODE (R278). -/
def bmodeBody (w : RegWord) : State → Issuer → Word → State × Ending :=
  warpOp fun s u t m =>
    let i := Instr.bmode w
    let (s, x) := s.bankRequest u.ctx.cluster (s.argA u i t).toNat (s.argB u i t).toNat
    (s, .on (u.result i m (BitVec.ofNat 128 x)) 0#32 none)
def execBmode (w : RegWord) (s : State) : Host.Outcome State Fault Refusal := s.issueWord (.bmode w) (coveredBody (.bmode w) (bmodeBody w))

/-- CLS_BANKMODE_WRITE (R69). -/
def execClsBankmodeWrite (cluster bank : Nat) (value : Word) (s : State) : Host.Outcome State Fault Refusal :=
  .next (if s.clusterDropped cluster then s else (s.bankRequest cluster bank (value.toNat % 4)).1)

/-- A warp waits to pop a FIFO bank. -/
def State.popWaits (s : State) (cluster bank : Nat) : Bool :=
  (List.range 512).any fun l =>
    match s.nextWord cluster l with
    | .word (.ld w) =>
      w.seg == 5#3 && match { s with issuer := some (cluster, l) }.issuing (.ld w) with
        | some u => (s.capture u (.ld w) (u.actSlots (.ld w) ((u.active (.ld w)).getD 0#32)) w.offset).any fun r =>
            match s.fifoBank u.ctx false r.addr (typeBytes w.mfmt.toNat) with | .ok b => b == bank | .error _ => false
        | none => false
    | _ => false

/-- The condition of Table 4.3 for leaving a mode. -/
def State.bankLeft (s : State) (cluster bank : Nat) : Bool :=
  match bankMode (s.bankWord cluster bank) with
  | 0 => (s.onLane cluster bank).isEmpty
  | 1 => (s.allocs cluster).all fun (lo, hi) => decide (hi ≤ bank * 32768 ∨ bank * 32768 + 32768 ≤ lo)
  | 2 => true
  | _ => (s.fifo cluster bank).isEmpty && !s.popWaits cluster bank

/-- The lines of a bank that leaves CACHE mode are discarded (Table 4.3). -/
def State.dropWay (s : State) (cluster bank : Nat) : State :=
  { s with mem := { s.mem with cache := s.mem.cache.filter fun l => !(l.cluster == cluster && l.way == bank) } }

/-- BANK_DRAIN_DONE (R70). -/
def execBankDrainDone (cluster bank : Nat) (s : State) : Host.Outcome State Fault Refusal :=
  let w := s.bankWord cluster bank
  if bankState w ≠ 1 || !s.bankLeft cluster bank then .next s
  else
    let s := s.setBank cluster bank (bankWordOf (bankMode w) (bankNext w) 2)
    let s := if bankMode w = 2 then s.dropWay cluster bank else s
    .next { s with eng := { s.eng with fill := s.eng.fill.put (512 * cluster + bank) s.aCyc } }

/-- BANK_FILL_DONE (R70): zeros written, which take 256 a-cycles, the bank takes users in its new mode. -/
def execBankFillDone (cluster bank : Nat) (s : State) : Host.Outcome State Fault Refusal :=
  let w := s.bankWord cluster bank
  let since := (s.eng.fill.look (512 * cluster + bank)).getD 0
  if bankState w ≠ 2 ∨ s.aCyc < since + 256 then .next s
  else
    let s := (s.zeroStore cluster (bank * 32768) 32768).setBank cluster bank (bankWordOf (bankNext w) (bankNext w) 0)
    .next { s with eng := { s.eng with fill := s.eng.fill.del (512 * cluster + bank) } }

/-! Registers (Table 16.13) -/

/-- The privileged registers. -/
inductive RegName where
  | id (h : Nat) | ilv (h : Nat) | drop | ready | chtbl | fdtBase | bar2 | pwr | hotCtl (h : Nat) | hotSkip (h : Nat) | fast | cap
  | fqBase | fqCtl | fqHead | fqTail | peerSelf | peerDom | peerTmo | peerDown (i : Nat) | vquota (t : Nat) | ptroot (t : Nat)
  | bankmode (cluster k : Nat)
  deriving DecidableEq, Repr

/-- The register at an offset of a hub unit. -/
def hubReg (h off : Nat) : Option RegName :=
  match off with
  | 0x00 => some (.id h)
  | 0x08 => some (.ilv h)
  | 0x10 => some .drop
  | 0x18 => some .ready
  | 0x20 => some .chtbl
  | 0x28 => some .fdtBase
  | 0x30 => some .bar2
  | 0x38 => some .pwr
  | 0x40 => some (.hotCtl h)
  | 0x48 => some (.hotSkip h)
  | 0x50 => some .fast
  | 0x58 => some .cap
  | 0x60 => some .fqBase
  | 0x68 => some .fqCtl
  | 0x70 => some .fqHead
  | 0x78 => some .fqTail
  | 0x80 => some .peerSelf
  | 0x88 => some .peerDom
  | 0x90 => some .peerTmo
  | _ =>
    if off % 8 ≠ 0 then none
    else if 0x98 ≤ off ∧ off ≤ 0xD0 then some (.peerDown ((off - 0x98) / 8))
    else if 0x100 ≤ off ∧ off < 0x180 then some (.vquota ((off - 0x100) / 8))
    else if 0x180 ≤ off ∧ off < 0x200 then some (.ptroot ((off - 0x180) / 8))
    else none

/-- The register at an address; `own` is the issuing cluster. -/
def regAt (own : Option Nat) (a : Nat) : Option RegName :=
  let unit := a / 2 ^ 20
  let off := a % 2 ^ 20
  let cls (n : Nat) : Option RegName := if off % 4 = 0 ∧ off < 2048 then some (.bankmode n (off / 4)) else none
  if unit < 4 then hubReg unit off
  else if unit = 0x10 then own.bind cls
  else if 0x80 ≤ unit ∧ unit < 0x100 then cls (unit - 0x80)
  else none

/-- Width 64. -/
def RegName.wide (r : RegName) : Bool :=
  match r with
  | .hotCtl _ | .hotSkip _ | .vquota _ | .bankmode _ _ => false
  | _ => true

/-- User reads: `t` is the reader's tenant. -/
def RegName.userRead (r : RegName) (t : Nat) : Bool :=
  match r with
  | .id _ | .ilv _ | .drop | .ready | .peerSelf | .peerDom | .peerDown _ | .bankmode _ _ => true
  | .vquota k => k == t
  | _ => false

/-- The value that a register reads. -/
def State.readReg64 (s : State) (r : RegName) : Dbl :=
  match r with
  | .id h => dbl (0x0B070002 + h * 256)
  | .ilv h => nth s.hub.ilv h 0#64
  | .drop => s.hub.drop
  | .ready => s.hub.ready
  | .chtbl => s.hub.chtbl
  | .fdtBase => s.hub.fdtBase
  | .bar2 => s.hub.bar2
  | .pwr => s.hub.pwr
  | .hotCtl h => (nth s.hub.hotCtl h 0#32).setWidth 64
  | .hotSkip h => (nth s.hub.hotSkip h 0#32).setWidth 64
  | .fast => dbl s.hub.fast.length
  | .cap => dbl s.hub.cap.length
  | .fqBase => s.hub.fqBase
  | .fqCtl => s.hub.fqCtl
  | .fqHead => s.hub.fqHead
  | .fqTail => s.hub.fqTail
  | .peerSelf => s.hub.peerSelf
  | .peerDom => s.hub.peerDom
  | .peerTmo => s.hub.peerTmo
  | .peerDown i => s.hub.peerDown.extractLsb' (64 * i) 64
  | .vquota t => (nth s.hub.vquota t 0#32).setWidth 64
  | .ptroot t => nth s.hub.ptroot t 0#64
  | .bankmode c k => if s.clusterDropped c then 0#64 else (s.bankWord c k).setWidth 64

/-- Add a frame to a tier's pool, or drop the write (R229). -/
def State.poolAdd (s : State) (fastTier : Bool) (pa : Dbl) : State :=
  let f := pa.toNat / 65536
  if pa.toNat % 65536 ≠ 0 ∨ (s.frameHub f).isNone ∨ (decide (f < fastFrames)) ≠ fastTier ∨ fdtFree (s.fdt f) then s
  else
    let s := s.putFdt f (s.fdt f ||| 0x100000#64).toNat
    if fastTier then { s with hub := { s.hub with fast := s.hub.fast ++ [f] } } else { s with hub := { s.hub with cap := s.hub.cap ++ [f] } }

/-- The power cap that a write sets (R235). -/
def clampPower (x : Dbl) : Dbl := if x.toNat < 800 then 800#64 else if 2400 < x.toNat then 2400#64 else x

/-- A write of a register under its own rules (R368, Table 11.5). RSVD fields stay zero. -/
def State.writeReg64 (s : State) (by_ : Writer) (r : RegName) (x : Dbl) : State :=
  let root := by_ == .root
  let hub (f : Hub → Hub) : State := { s with hub := f s.hub }
  match r with
  | .id _ | .peerDown _ => s
  | .ilv h => if root then hub fun b => { b with ilv := setNth b.ilv h (x &&& 0xFFFFFFFFFFFFF#64) } else s
  | .drop => if root then hub fun b => { b with drop := x &&& 0xFFFF000F00FF#64 } else s
  | .peerSelf => if root then hub fun b => { b with peerSelf := x } else s
  | .peerDom => if root then hub fun b => { b with peerDom := x } else s
  | .ptroot t => if root then hub fun b => { b with ptroot := setNth b.ptroot t (x &&& ~~~0x3FFC#64) } else s
  | .ready => hub fun b => { b with ready := x &&& 1#64 }
  | .chtbl => hub fun b => { b with chtbl := x }
  | .fdtBase => hub fun b => { b with fdtBase := x, fdtOn := true }
  | .bar2 => hub fun b => { b with bar2 := x }
  | .pwr => hub fun b => { b with pwr := clampPower x }
  | .hotCtl h => hub fun b => { b with hotCtl := setNth b.hotCtl h (x.setWidth 32 &&& 0x1FFFF#32) }
  | .hotSkip h => if x.setWidth 32 = 0#32 then hub fun b => { b with hotSkip := setNth b.hotSkip h 0#32 } else s
  | .fast => s.poolAdd true x
  | .cap => s.poolAdd false x
  | .fqBase => hub fun b => { b with fqBase := x }
  | .fqCtl => hub fun b => { b with fqCtl := x &&& 0x1F#64 }
  | .fqHead => s.writeFqHead x
  | .fqTail => hub fun b => { b with fqTail := x }
  | .peerTmo => hub fun b => { b with peerTmo := x }
  | .vquota t => hub fun b => { b with vquota := setNth b.vquota t (x.setWidth 32 &&& 0x1FFF0FFF#32) }
  | .bankmode c k => if s.clusterDropped c then s else (s.bankRequest c k (x.toNat % 4)).1

/-- SRD (R367). -/
def srdBody (w : RegWord) : State → Issuer → Word → State × Ending :=
  warpOp fun s u t m =>
    let i := Instr.srd w
    let x : Dbl := match regAt (some u.ctx.cluster) (s.argA u i t).toNat with
      | some r => if r.wide == (w.wid == 2) && (u.ctx.priv || r.userRead u.ctx.tenant) then s.readReg64 r else 0#64
      | none => 0#64
    (s, .on (u.result i m (x.setWidth 128)) 0#32 none)
def execSrd (w : RegWord) (s : State) : Host.Outcome State Fault Refusal := s.issueWord (.srd w) (warpBody (srdBody w))

/-- A write by address and width. -/
def State.writeAt (s : State) (by_ : Writer) (own : Option Nat) (a : Nat) (wide : Bool) (x : Dbl) : State :=
  match regAt own a with
  | some r => if r.wide = wide then s.writeReg64 by_ r x else s
  | none => s

/-- SRW (R368). -/
def srwBody (w : RegWord) : State → Issuer → Word → State × Ending :=
  warpOp fun s u t _ =>
    let i := Instr.srw w
    (s.writeAt .device (some u.ctx.cluster) (s.argA u i t).toNat (w.wid == 2) (s.argB u i t), .done)
def execSrw (w : RegWord) (s : State) : Host.Outcome State Fault Refusal := s.issueWord (.srw w) (warpBody (srwBody w))

/-- REGISTER_WRITE (R224, R368): by firmware, or through the PF's windows. -/
def execRegisterWrite (by_ : Writer) (address : Word) (wide : Bool) (value : Dbl) (s : State) : Host.Outcome State Fault Refusal :=
  .next (s.writeAt by_ none address.toNat wide value)

/-- FPOOL_FAST_ADD (R229). -/
def execFpoolFastAdd (pa : Dbl) (s : State) : Host.Outcome State Fault Refusal := .next (s.poolAdd true pa)
/-- FPOOL_CAP_ADD (R229). -/
def execFpoolCapAdd (pa : Dbl) (s : State) : Host.Outcome State Fault Refusal := .next (s.poolAdd false pa)
/-- PWR_LIMIT_WRITE (R235). -/
def execPwrLimitWrite (value : Dbl) (s : State) : Host.Outcome State Fault Refusal := .next (s.writeReg64 .field .pwr value)
/-- HOT_SKIP_CLEAR (R158, R368). -/
def execHotSkipClear (hub : Nat) (value : Word) (s : State) : Host.Outcome State Fault Refusal :=
  .next (s.writeReg64 .field (.hotSkip hub) (value.setWidth 64))

end Sys2Proof.Machine
end

