-- ==== Sys2Proof/Machine/Replay.lean ====
section
/-! DEFINITION. Replay of operand-log entries, and the return from a fault or trap (R150, R151, R241, R375, R377). -/

namespace Sys2Proof.Machine

/-- What a memory word does with its captured operands; none for a word that never stands in an operand log. -/
def memFn (i : Instr) : Option MemAct :=
  match i with
  | .ld w => some (ldAct w)
  | .st w => some (stAct w)
  | .atom w => some (atomAct w)
  | .red w => some (redAct w)
  | .scat w => some (scatAct w)
  | .ldm w => some (ldmAct w)
  | .stm _ => some stmAct
  | .binit w => some (binitAct w)
  | .barv w => some (barvAct w)
  | .btest w => some (btestAct w)
  | .bwait w => some (bwaitAct w)
  | .chapp w => some (chappAct w)
  | .chsq w => some (chsqAct w)
  | .tsub w => some (tsubAct w)
  | .sqwait w => some (sqwaitAct w)
  | .cpy w => some (cpyAct w)
  | .cpyt w => some (cpytAct w)
  | .gath _ => some gathAct
  | .psel _ => some pselAct
  | .vset w => some (vsetAct w)
  | .vclr w => some (vclrAct w)
  | .vinfo _ => some vinfoAct
  | .dld w => some (dldAct w)
  | .dsv w => some (dsvAct w)
  | .pgattr w => some (pgattrAct w)
  | .pshare w => some (pshareAct w)
  | .prel w => some (prelAct w)
  | .tlbi w => some (tlbiAct w)
  | _ => none

/-- The entry waits for no older entry of its context (R151). -/
def Ctx.oldest (c : Ctx) (e : LogEntry) : Bool :=
  !c.log.any fun (_, x) => decide (x.serial < e.serial) && match x.state with | .parked | .resolved => true | .toDeliver | .held => false

/-- The entry frees, and its word's count falls. -/
def State.freeEntry (s : State) (k n : Nat) (e : LogEntry) : State :=
  (s.changeCtx k fun c => { c with log := c.log.del n }).count k e.path e.sb false

/-- A replayed word faults again: the entry goes the way of its new fault (R150). -/
def State.faultAgain (s : State) (k n : Nat) (c : Ctx) (e : LogEntry) (f : AFault) (mask : Word) (a : Access) (got : List (Nat × Target)) :
    State :=
  let new (st : LogState) : LogEntry :=
    { e with state := st, kept := none, reqs := withGot e.reqs got, code := BitVec.ofNat 8 f.code, addr := dbl f.addr, bva := dbl f.bva, mask := mask }
  let set (st : LogState) : State := s.changeCtx k fun c => { c with log := c.log.put n (new st) }
  match s.resolver c.tenant f with
  | .transit => set .resolved
  | .software => (if e.sb = 7 then (set .toDeliver).count k e.path 7 false else set .toDeliver).noPathLeft k
  | .device => (set .parked).parkFault (.log k n) c.tenant (accessCode a) f false
  | .driver => (set .parked).parkFault (.log k n) c.tenant (accessCode a) f true

/-- The writes of a replayed word to registers that `rshrink` has not freed since (R361). -/
def LogEntry.keeps (e : LogEntry) (ws : List RegWrite) : List RegWrite :=
  match e.limit with | some n => ws.filter (RegWrite.below n) | none => ws

/-- Replay entry `n` of a context: the word runs again with the logged operands, its results are committed whole (R151). -/
def State.replay (s : State) (k n : Nat) : State :=
  match s.ctx? k with
  | none => s
  | some c =>
    match c.log.look n with
    | none => s
    | some e =>
      if e.state != .resolved || !c.oldest e || c.stopped then s
      else
        match memFn e.word with
        | none => s.freeEntry k n e
        | some act =>
          let (s', out) := act s { c with log := [] } e.reqs
          match out with
          | .wait => s
          | .begun => s'
          | .fault f mask a got => s'.faultAgain k n c e f mask a got
          | .done ws fl none => ((s'.freeEntry k n e).commitWrites k (e.keeps ws)).raise k fl
          | .done _ _ (some q) => (s'.freeEntry k n e).consume k q

/-- LOG_REPLAY (R151). -/
def execLogReplay (ctx entry : Nat) (s : State) : Host.Outcome State Fault Refusal := .next (s.replay ctx entry)

/-! Return (Table 16.18) -/

/-- Where a path goes on: its pc, the body word, and the word it passes over (R241). A clause that a trunk or limb ran is run again from
word 1, also by the warps it may have become. -/
def TrapState.resume (t : TrapState) (skip : Bool) : Dbl × Nat × Nat :=
  let precise := t.word != 0#5 && t.log == 0xF#4 && t.code != 0x06#8 && t.code != 0x07#8
  if !precise then (t.ret, t.start, t.skip)
  else if t.whole then (t.pc, 1, if skip then t.word.toNat else 0)
  else (t.pc, if skip then t.word.toNat + 1 else t.word.toNat, 0)

/-- What the held cause asks for beside the transfer: its log entry replays or is discarded, the matrix unit restarts or is cleared. -/
def State.returnFrom (s : State) (k : Nat) (c : Ctx) (t : TrapState) (skip : Bool) : State :=
  if t.code = 0x06#8 then s.matrixReturn c skip
  else if t.log = 0xF#4 then s
  else
    let n := t.log.toNat
    match c.log.look n with
    | none => s
    | some e =>
      if skip then
        let s := s.changeCtx k fun c => { c with log := c.log.del n }
        if e.sb = 7 then s else s.count k e.path e.sb false
      else
        -- the word counts again until its replay is done
        let s := s.changeCtx k fun c => { c with log := c.log.put n { e with state := .resolved } }
        (if e.sb = 7 then s.count k e.path 7 true else s).replay k n

/-- TRET (R377). -/
def tretBody (w : RegWord) (s : State) (u : Issuer) (_m : Word) : State × Ending :=
  match u.ctx.trap with
  | none => (s, .goto u.clause.after .none [])
  | some t =>
    let skip := w.modAt 17 1 == 1
    if t.code = 0x06#8 && s.matrixWaits u.ctx skip then (s, .hold) else
    let s := (s.useBits u (.tret w)).endClause u u.clause.after .none
    let (pc, start, past) := t.resume skip
    let s := s.leaveTrap u.key u.path.id pc start past
    (s.returnFrom u.key u.ctx t skip, .left)
def execTret (w : RegWord) (s : State) : Host.Outcome State Fault Refusal := s.issueWord (.tret w) (tretBody w)

end Sys2Proof.Machine
end

