-- ==== Sys2Proof/Machine/Outside.lean ====
section
/-! DEFINITION. What other parties do to the package: drains of merge buffers, peer and scale-out traffic, what BAR2 reaches, power and temperature,
and resets (R80, R124, R162, R212, R218, R220, R223, R230, R231, R233-R235). -/

namespace Sys2Proof.Machine

/-! Drains (R80, R124) -/

/-- Line `index` of a core's merge buffer, oldest first. -/
def State.mergeNth (s : State) (core index : Nat) : Option MergeLine := (s.mem.merge.filter fun m => m.core == core)[index]?

/-- MERGE_DRAIN (R80): a line may drain at any time. -/
def execMergeDrain (core index : Nat) (s : State) : Host.Outcome State Fault Refusal :=
  match s.mergeNth core index with
  | some m => .next (s.drainLine m)
  | none => .next s

/-- MERGE_DRAIN_TIMEOUT (R124): 4,096 a-cycles have passed since the line's first store. -/
def execMergeDrainTimeout (core index : Nat) (s : State) : Host.Outcome State Fault Refusal :=
  match s.mergeNth core index with
  | some m => if m.since + 4096 ≤ s.aCyc then .next (s.drainLine m) else .next s
  | none => .next s

/-! Peers and scale-out (R230, R231, R233) -/

/-- The hub that homes a PA. -/
def State.hubAt (s : State) (pa : Nat) : Nat := (s.homeHub pa).getD 0

/-- A write by a party outside: bytes to locked code frames and to no memory are dropped, the others are accepted at home. -/
def State.outsideWrite (s : State) (pa : Nat) (bytes : List Byte) : State :=
  let bs := (bytes.zipIdx.map fun (b, i) => (pa + i, b)).filter fun b => s.isMemory b.1
  let (s, bs) := s.dropLocked bs
  if bs.isEmpty then s else s.acceptPhys bs none none

/-- PEER_WRITE_ACCEPT (R230): a write from another package is accepted at the hub homing its PA. -/
def execPeerWriteAccept (package pa : Nat) (bytes : List Byte) (s : State) : Host.Outcome State Fault Refusal :=
  if package = s.hub.peerSelf.toNat then .next s
  else
    let r := hubRecorder (s.hubAt pa)
    .next (((s.peerRecord r 0 false).outsideWrite pa bytes).peerRecord r 0 true)

/-- RDMA_WRITE (R233). -/
def execRdmaWrite (pa : Nat) (bytes : List Byte) (s : State) : Host.Outcome State Fault Refusal := .next (s.outsideWrite pa bytes)

/-- PEER_LINK_TIMEOUT (R231): the far package is marked down until reset. -/
def execPeerLinkTimeout (package : Nat) (s : State) : Host.Outcome State Fault Refusal :=
  if package < 512 ∧ package ≠ s.hub.peerSelf.toNat then
    .next { s with hub := { s.hub with peerDown := s.hub.peerDown ||| (1#512 <<< package) } }
  else .next s

/-- Locations of `n` bytes from a PA. -/
def physTarget (pa n : Nat) : Target :=
  { bytes := (List.range n).map fun i => .phys (pa + i), csts := [], leaves := [], shadow := none }

/-- Bytes of a type of an atomic. -/
def peerWidth (fmt : Nat) : Nat := if fmt = 10 then 8 else 4

/-- Bytes with their poison, as they go back to a peer. -/
def replyOf (us : List (Byte × Option Nat)) : List (Byte × Bool) := us.map fun u => (u.1, u.2.isSome)

/-- A peer's update at the home slice: the old value. -/
def State.peerAtom (s : State) (pa opc fmt : Nat) (b c : Dbl) : State × List (Byte × Bool) :=
  let n := peerWidth fmt
  let (s, us) := s.readUnits (physTarget pa n)
  (s.outsideWrite pa (bytesOf n (atomNew opc fmt (leNat (us.map (·.1))) b.toNat c.toNat)), replyOf us)

/-! This package as the far hub of another one's remote views (R104, R118): BASE and the entries of an index vector name its own
memory by bits [47:0] (notes/assumptions/80.md) -/

/-- Location of a byte of a guest view, or the fault that the local access reports. -/
def State.guestByte (s : State) (v : ViewDesc) (k : Access) (o : Nat) : Except Nat Loc :=
  let sz := v.esize
  let e := o / sz
  let out : Except Nat Loc := if v.oobZero then .ok .zero else .error 0x15
  let at_ (a : Int) : Except Nat Loc :=
    let pa := (a % 2 ^ 48).toNat
    if !s.isMemory pa then .error 0x16
    else if (k == .write || k == .atomic) && s.locked pa then .error 0x1C
    else .ok (.phys pa)
  if v.count ≤ e then out
  else match v.xform with
    | 4 =>
      let m := s.mem.phys.num ((v.idxBase + e * v.idxSize) % 2 ^ 48) v.idxSize
      if v.bcount ≤ m then out else at_ ((v.base + m * sz + o % sz : Nat) : Int)
    | _ => at_ (v.base + v.map (coords e v.exts) * (sz : Int) + ((o % sz : Nat) : Int))

/-- The locations of `n` bytes of a guest view: of several faults the one highest in Table 8.4. -/
def State.guestTarget (s : State) (v : ViewDesc) (k : Access) (o n : Nat) : Except Nat Target :=
  let bs := (List.range n).map fun i => s.guestByte v k (o + i)
  let codes := bs.filterMap fun b => match b with | .error c => some c | .ok _ => none
  match codes with
  | c :: r => .error (r.foldl min c)
  | [] => .ok { bytes := bs.filterMap fun b => match b with | .ok l => some l | .error _ => none, csts := [], leaves := [], shadow := none }

/-- Sectors that an access through a guest view brings to their home slices before its bytes: the index entries of its elements, and for a
load what its lines are composed from (R107, R118). -/
def State.guestSectors (s : State) (v : ViewDesc) (load : Bool) (o n : Nat) : List Nat :=
  let last := o + (n - 1)
  let index := if v.xform = 4 then ((List.range n).map fun i => ((v.idxBase + (o + i) / v.esize * v.idxSize) % 2 ^ 48) / 32) else []
  let line := if load then (List.range ((last / 128 + 1 - o / 128) * 128)).filterMap fun i =>
    match s.guestByte v .read (o / 128 * 128 + i) with
    | .ok (.phys pa) => some (pa / 32)
    | .ok _ | .error _ => none
  else []
  nubNat (index ++ line)

/-- An access through a guest view, composed or decomposed here: the data, each byte with its poison (R111), or the fault that goes back. -/
def State.guestAccess (s : State) (v : ViewDesc) (o : Nat) (op : ViewOp) : State × Except Nat (List (Byte × Bool)) :=
  let go (k : Access) (n : Nat) (f : State → Target → State × List (Byte × Bool)) : State × Except Nat (List (Byte × Bool)) :=
    match s.guestTarget v k o n with
    | .error c => (s, .error c)
    | .ok t => let (s, bs) := f ((s.guestSectors v (k == .read) o n).foldl State.touchHome s) t
      (s, .ok bs)
  let update (n opc fmt : Nat) (b c : Dbl) (s : State) (t : Target) : State × List (Byte × Bool) :=
    let (s, us) := s.readUnits t
    let bad := us.any (·.2.isSome) && opc != 6
    (s.writeHome t (bytesOf n (atomNew opc fmt (leNat (us.map (·.1))) b.toNat c.toNat)) (List.replicate n bad) none none, replyOf us)
  match op with
  | .load n => go .read n fun s t => let (s, us) := s.readUnits t
    (s, replyOf us)
  | .store bytes => go .write bytes.length fun s t => (s.writeHome t bytes [] none none, [])
  | .atom f g b c => go .atomic (peerWidth g.toNat) (update (peerWidth g.toNat) f.toNat g.toNat b c)
  | .red f g b => go .atomic (peerWidth g.toNat) fun s t => ((update (peerWidth g.toNat) f.toNat g.toNat b 0#64 s t).1, [])

/-- What a peer's request does here, and what goes back. -/
def State.peerServe (s : State) (package pa : Nat) (op : PeerOp) : State × Except Nat (List (Byte × Bool)) :=
  match op with
  | .load n => let (s, us) := s.readUnits (physTarget pa n)
    (s, .ok (replyOf us))
  | .atom o f b c => let (s, bs) := s.peerAtom pa o.toNat f.toNat b c
    (s, .ok bs)
  | .red o f b => ((s.peerAtom pa o.toNat f.toNat b 0#64).1, .ok [])
  | .dropView slot => ({ s with eng := { s.eng with guests := s.eng.guests.del (4096 * package + slot) } }, .ok [])
  | .view slot off desc op =>
    let k := 4096 * package + slot
    let s := match desc with
      | some d => { s with eng := { s.eng with guests := s.eng.guests.put k { words := d, asid := 0 } } }
      | none => s
    match s.eng.guests.look k with
    | some g => s.guestAccess (viewOf g.words) off op
    | none => (s, .error 0x12)

/-- PEER_READ_REQUEST (R118, R230): a load, atomic or reduction of another package, or an access through one of its remote views,
performed at the home slices here and answered. -/
def execPeerReadRequest (package pa : Nat) (op : PeerOp) (s : State) : Host.Outcome State Fault Refusal :=
  if package = s.hub.peerSelf.toNat then .next s
  else
    let r := hubRecorder (s.hubAt pa)
    let (s, x) := (s.peerRecord r 0 false).peerServe package pa op
    let out := match x with
      | .ok bs => { s.out with peerReply := bs.map (·.1), peerPoison := bs.map (·.2), peerFault := none }
      | .error c => { s.out with peerReply := [], peerPoison := [], peerFault := some c }
    .next ({ s with out := out }.peerRecord r 0 true)

/-! BAR2 (R157, R162, R223) -/

/-- A frame that a leaf with PIN = 1 maps. -/
def State.pinnedFrame (s : State) (frame : Nat) : Bool :=
  s.pagesAt.any fun p => ptePin p.entry && decide (p.frame ≤ frame) && decide (frame < p.frame + p.frames)

/-- A byte that BAR2 reaches: its offset in the aperture of 64 GiB, its frame pinned. -/
def State.bar2Reaches (s : State) (offset : Nat) : Bool :=
  let pa := s.hub.bar2.toNat + offset
  decide (offset < 2 ^ 36) && s.isMemory pa && s.pinnedFrame (pa / 65536)

/-! Power and temperature (R235) -/

/-- THERMAL_GATE: above the cap or 100 °C issue is gated, which changes timing only; above 110 °C it stops. -/
def execThermalGate (watts celsius : Nat) (s : State) : Host.Outcome State Fault Refusal :=
  .next { s with rel := { s.rel with gated := decide (s.hub.pwr.toNat < watts) || decide (100 < celsius),
                                     tooHot := s.rel.tooHot || decide (110 < celsius) } }

/-- TEMPERATURE_BACK_BELOW_100: issue that stopped goes on. -/
def execTemperatureBackBelow100 (celsius : Nat) (s : State) : Host.Outcome State Fault Refusal :=
  if celsius < 100 then .next { s with rel := { s.rel with tooHot := false } } else .next s

/-! Resets (R234) -/

/-- A reset, before bring-up: what lies outside the package stays, and so does the agenda (notes/assumptions/21.md). -/
def State.cold (s : State) : State :=
  { State.reset with mem := { Mem.reset with host := s.mem.host, peer := s.mem.peer },
                     out := { State.reset.out with msix := s.out.msix, mgmtOut := s.out.mgmtOut }, agenda := s.agenda }

/-- A warm reset keeps the Proof, PSEQ and what has been dropped (R213, R218, R220); H0 stays lost and the package halted with it (R19). -/
def State.warm (s : State) : State :=
  let c := s.cold
  { c with hub := { c.hub with drop := s.hub.drop },
           rel := { c.rel with proof := s.rel.proof, pseq := s.rel.pseq, h0Lost := s.rel.h0Lost, halted := s.rel.h0Lost } }

/-- Set members of a list of registers. -/
def setAll {α : Type} (l : List α) (xs : List (Nat × α)) : List α := xs.foldl (fun l x => setNth l x.1 x.2) l

/-- Field firmware writes a chain's block: BASE, CTL, and counts of zero (R52). -/
def State.setChain (s : State) (x : Nat × Dbl × Dbl) : State :=
  [(0, x.2.1.toNat), (8, x.2.2.toNat), (0x10, 0), (0x18, 0), (0x20, 0)].foldl (fun s p => s.setCcb x.1 p.1 p.2) s

/-- Steps 3 to 7 of bring-up: what the firmwares write (R234), then HUB.READY.UP. -/
def State.bringUp (s : State) (b : BringUp) : State :=
  let s := { s with hub := { s.hub with
      ilv := List.replicate 4 (b.ilv &&& 0x000FFFFFFFFFFFFF#64), peerSelf := b.peerSelf, peerDom := b.peerDom,
      chtbl := b.chtbl, fdtBase := b.fdtBase, fdtOn := true, ptroot := setAll s.hub.ptroot (b.ptroot.map fun (t, x) => (t, x &&& ~~~0x3FFC#64)),
      vquota := setAll s.hub.vquota (b.vquota.map fun (t, x) => (t, x &&& 0x1FFF0FFF#32)) } }
  let s := b.modes.foldl (fun s (c, k, m) =>
    if c < 128 ∧ k < 512 ∧ m < 4 ∧ !s.clusterDropped c then s.setBank c k (bankWordOf m m 0) else s) s
  let s := b.chains.foldl State.setChain s
  -- a descriptor reads FREE = 1 after reset, and a free frame is added to no pool (R229, Table 8.7; notes/assumptions/7.md)
  let s := (b.fast ++ b.cap).foldl (fun s f => if (s.frameHub f).isSome then s.setFdt f 0#64 else s) s
  let s := b.fast.foldl (fun s f => s.poolAdd true (dbl (f * 65536))) s
  let s := b.cap.foldl (fun s f => s.poolAdd false (dbl (f * 65536))) s
  { s with hub := { s.hub with ready := 1#64 } }

/-- COLD_RESET (R234). -/
def execColdReset (b : BringUp) (s : State) : Host.Outcome State Fault Refusal := .next (s.cold.bringUp b)
/-- WARM_RESET (R234): with H0 lost no firmware runs that would bring the package up (R13, R19). -/
def execWarmReset (b : BringUp) (s : State) : Host.Outcome State Fault Refusal :=
  .next (if s.rel.h0Lost then s.warm else s.warm.bringUp b)

end Sys2Proof.Machine
end

