-- ==== Sys2Proof/Machine/Accept.lean ====
section
/-! DEFINITION. Chain registers, and the acceptance of nodes: the walker, the checks of a node and of its payload, footprints and their
edges (R21, R22, R43-R45, R47, R52-R56, R65, R66, R91, R103, R185, R224, R226, R234). -/

namespace Sys2Proof.Machine

/-! Chain registers (R52, R55, R66) -/

/-- A function reaches a chain: the PF every chain, VF k those of tenant k - 1 with PRV = 0. -/
def State.reaches (s : State) (fn chain : Nat) : Bool :=
  decide (chain < 256) && (fn == 0 || (s.chainTenant chain + 1 == fn && !s.chainPrv chain))

/-- A tail write is dropped with BADTAIL. -/
def State.badTailWrite (s : State) (chain value : Nat) : State :=
  let s := { s with hub := { s.hub with badTail := s.hub.badTail ||| (1#256 <<< chain) } }
  s.galley (hubRecorder 0) 4 0x81#8 0 3 0 (dbl (chain * 2 ^ 56 + value % 2 ^ 56))

/-- A function's write of CHN.TAIL (R55): entries up to `value` are published; the walker reads again an entry that it could not read
(R53). -/
def State.writeTail (s : State) (fn chain : Nat) (value : Dbl) : State :=
  let v := value.toNat
  let tail := s.chainTail chain
  if s.hub.ready = 0#64 ∨ !s.reaches fn chain then s
  else if s.chainDevice chain ∨ v < tail ∨ s.chainSeq chain + s.chainRing chain < v then s.badTailWrite chain v
  else
    let again : Nat × Nat → Nat × Nat := fun e => (e.1, 2 ^ 64)
    let s := (s.setWork { s.work with ringFault := s.work.ringFault.change chain again }).setCcb chain 0x10 v
    (List.range (v - tail)).foldl (fun s i =>
      s.send (hubRecorder 0) (s.chainTenant chain) 3 0 .publish (publishKey chain (tail + i))) s

/-- CHN_TAIL (R55). -/
def execChnTail (fn chain : Nat) (value : Dbl) (s : State) : Host.Outcome State Fault Refusal := .next (s.writeTail fn chain value)

/-- A function's write of CHN.STAT (R66): a 1 in BADTAIL clears it, and nothing else has an effect. -/
def State.writeStat (s : State) (fn chain : Nat) (value : Dbl) : State :=
  if s.reaches fn chain && value.getLsbD 0 then
    { s with hub := { s.hub with badTail := s.hub.badTail &&& ~~~(1#256 <<< chain) } }
  else s

/-- CHN_STAT_WRITE (R66). -/
def execChnStatWrite (fn chain : Nat) (value : Dbl) (s : State) : Host.Outcome State Fault Refusal := .next (s.writeStat fn chain value)

/-! Reading for H0 -/

/-- H0 translates for the tenant of a chain, at the level of its nodes (R52, R53). -/
def State.chainRequester (s : State) (chain : Nat) : Requester :=
  { tenant := s.chainTenant chain, priv := s.chainPrv chain, cluster := none, unit := some (.hub 0) }

/-- `n` bytes at a VA; none where they are not readable. -/
def State.readFor (s : State) (q : Requester) (va n : Nat) : State × Option (List Byte) :=
  let (s, r) := s.globalTarget q .read false (va : Int) n
  match r with
  | .error _ => (s, none)
  | .ok t => let (s, bs, _) := s.readHome t
    (s, some bs)

/-- A VA that H0 may write 16 bytes at, now or once the device has resolved a fault (R45 check 6). -/
def State.writable (s : State) (q : Requester) (va : Nat) : Bool :=
  decide (va % 16 = 0) && match (s.globalTarget q.peek .write false (va : Int) 16).2 with
    | .ok _ => true
    | .error f => match s.resolver q.tenant f with | .device | .transit => true | .driver | .software => false

/-- A little-endian field of bytes. -/
def fieldOf (bs : List Byte) (off n : Nat) : Nat := leNat ((bs.drop off).take n)

/-! Launch records (R22) -/

/-- The levels above the last are zero, RSVD fields too. -/
def Node.recordZero (n : Node) : Bool :=
  decide (n.ctrl / 2 ^ 48 = 0) && decide (n.ctrl % 2 ^ 26 = 0) && decide (n.dbl 5 / 2 ^ 32 = 0) && decide (n.dbl 6 = 0) && decide (n.dbl 7 = 0)
    && (List.range 8).all fun l =>
      if n.nlev ≤ l then decide (n.level l = 0) else decide (n.level l / 2 ^ 59 = 0) && decide (n.level l / 2 ^ 48 % 2 ^ 5 = 0)

/-- Items of a box of a level. The box is taken whole, not clipped to the extents of the launch: the model's choice where R22 does not
say (notes/assumptions/100.md). -/
def Node.boxVolume (n : Node) (l : Nat) : Nat := n.tile l 0 * n.tile l 1 * n.tile l 2 * n.tile l 3

/-- A launch record is valid (R22). -/
def Node.recordOk (n : Node) : Bool :=
  (List.range 4).all (fun k => decide (1 ≤ n.ext k) && (decide (k < n.ndim) || n.ext k == 1))
    && decide (n.ext 0 * n.ext 1 * n.ext 2 * n.ext 3 ≤ 2 ^ 40) && decide (1 ≤ n.regs ∧ n.regs ≤ 24)
    && (List.range n.nlev).all (fun l => decide (1 ≤ n.domain l ∧ n.domain l ≤ 5 ∧ n.domain l ≤ n.scope l)) && n.domain 0 == 1
    && (List.range (n.nlev - 1)).all (fun l => decide (n.domain l < n.domain (l + 1))
      && (List.range 4).all fun k => decide (n.tile (l + 1) k % n.tile l k = 0))
    && decide (n.boxVolume 0 ≤ 1024)
    && (match n.levelOf 2 with | some l => decide (n.boxVolume l ≤ 4 * n.boxVolume 0) | none => true)
    && n.recordZero && decide (n.entry.toNat % 8 = 0)

/-! Payloads (R45 checks 7 and 8) -/

/-- Bytes and alignment of a kind's payload. -/
def payloadSize : NodeKind → Nat × Nat
  | .kernel => (128, 64)
  | .copy | .gather | .coll => (64, 64)
  | .comp | .signal => (32, 32)
  | .nop => (0, 1)

/-- The fields of a payload lie within their ranges: the code of the node that fails, 0 when none does. -/
def Node.payloadCode (n : Node) : BitVec 8 :=
  let rest (k : Nat) : Bool := (n.payload.drop k).all (· == 0#64)
  let rowb := n.dbl 4 % 2 ^ 32
  let rows := n.dbl 4 / 2 ^ 32
  let ok : Bool := match n.kind with
    | .kernel | .gather | .nop => true
    | .comp => decide (n.dbl 2 / 2 ^ 32 ≤ 255) && rest 3
    | .copy => decide (1 ≤ rowb ∧ rowb ≤ 2 ^ 20 ∧ 1 ≤ rows ∧ rows ≤ 2 ^ 20) && rest 5
        && (rows == 1 || decide (rowb ≤ (nth n.payload 3 0#64).toInt.natAbs))
    | .coll => collOk n.payload
    | .signal => decide (n.dbl 0 % 8 = 0) && decide (n.dbl 2 < 2 ^ 12) && rest 3
  if !ok then 0x02#8 else if n.kind = .kernel ∧ !n.recordOk then 0x01#8 else 0x00#8

/-! Footprints (R44, R103) -/

/-- The base ranges that a part of a shadow range in one owned slot stands for: element bounds lo to hi, inclusive. -/
def ViewDesc.cover (v : ViewDesc) (lo hi : Nat) : List (Nat × Nat) :=
  let sz := v.esize
  let last := min hi (v.count - 1)
  let vector := if v.remote then 2 ^ 57 + v.pkg * 2 ^ 48 + v.idxBase % 2 ^ 48 else v.idxBase
  if v.xform = 4 then
    (v.base, v.base + v.bcount * sz) :: (if v.count ≤ lo then [] else [(vector + lo * v.idxSize, vector + (last + 1) * v.idxSize)])
  else if v.count ≤ lo then []
  else
    let at_ (e : Nat) : Int := v.base + v.map (coords e v.exts) * (sz : Int)
    let ends := (List.range (last + 1 - lo)).map fun i => at_ (lo + i)
    let least := ends.foldl min (at_ lo)
    let most := ends.foldl max (at_ lo)
    [(least.toNat, (most + sz).toNat)]

/-- Base ranges of a shadow range: `a` to below `b`, both offsets in shadow space; and the owned slots that it names. -/
def State.shadowCover (s : State) (tenant a b : Nat) : List (Nat × Nat) × List Nat :=
  let slots := (List.range ((b - 1) / 2 ^ 44 + 1 - a / 2 ^ 44)).map (a / 2 ^ 44 + ·)
  let part (k : Nat) : List (Nat × Nat) :=
    match (if s.slotOwner k = some tenant then s.eng.views.look k else none) with
    | none => [(0, 2 ^ 56)]
    | some w =>
      let v := viewOf w.words
      v.cover ((max a (k * 2 ^ 44) - k * 2 ^ 44) / v.esize) ((min b ((k + 1) * 2 ^ 44) - 1 - k * 2 ^ 44) / v.esize)
  (slots.flatMap part, slots.filter fun k => s.slotOwner k == some tenant)

/-- The ranges of a footprint entry from `lo` to below `hi`, and the owned slots that it names. -/
def State.footprint (s : State) (tenant lo hi : Nat) (write : Bool) : List Foot × List Nat :=
  let foot (a b : Nat) : Foot := { lo := a, hi := b, write := write }
  let base := if lo < 2 ^ 56 then [foot lo (min hi (2 ^ 56))] else []
  let peer := if 2 ^ 57 < hi then [foot (max lo (2 ^ 57)) hi] else []
  let a := max lo (2 ^ 56) - 2 ^ 56
  let b := min hi (2 ^ 57) - 2 ^ 56
  if a < b then
    let (rs, ks) := s.shadowCover tenant a b
    (base ++ rs.map (fun r => foot r.1 r.2) ++ peer, ks)
  else (base ++ peer, [])

/-- The entries of a footprint array, checked in ascending order: the code that fails, or (lo, hi, ACC). -/
def checkFeet (bs : List Byte) : Nat → Nat → List (Nat × Nat × Nat) → Except (BitVec 8) (List (Nat × Nat × Nat))
  | 0, _, acc => .ok acc.reverse
  | n + 1, i, acc =>
    let base := fieldOf bs (32 * i) 8
    let len := fieldOf bs (32 * i + 8) 8
    let ctl := fieldOf bs (32 * i + 0x10) 8
    if ctl / 4 ≠ 0 ∨ fieldOf bs (32 * i + 0x18) 8 ≠ 0 then .error 0x02#8
    else if ctl % 4 = 0 ∨ len = 0 ∨ 2 ^ 58 < base + len then .error 0x03#8
    else checkFeet bs n (i + 1) ((base, base + len, ctl % 4) :: acc)

/-- Two nodes' footprints give an edge (R47). -/
def footEdge (m n : List Foot) : Bool :=
  m.any fun e => n.any fun f => decide (e.lo < f.hi) && decide (f.lo < e.hi) && (e.write || f.write)

/-! Acceptance -/

/-- KIND of Table 3.2. -/
def kindOf : Nat → Option NodeKind
  | 0 => some .kernel | 1 => some .comp | 2 => some .copy | 3 => some .gather | 4 => some .coll | 5 => some .signal | 6 => some .nop
  | _ => none

/-- A node that has only been read as far as its place in its chain. -/
def Node.bare (chain seq tenant : Nat) (priv : Bool) (accept : Nat) : Node :=
  { chain := chain, seq := seq, tenant := tenant, priv := priv, kind := .nop, prio := 0, rscope := 5, payloadVa := 0#64, crec := none,
    waitEn := false, waitChan := 0, waitSeq := 0#64, phandler := 0#64, place := 0#128, feet := [], slots := [], payload := [],
    state := .waiting, accept := accept, preds := [], predFailed := false, readyAt := 0, passedAt := none, blocking := false,
    code := 0#8, detail := 0#48, engineFail := none, relaunches := 0, released := [], noRecord := none, recv := none }

/-- The node with the fields of its 128 bytes (Tables 3.1, 3.2). A misaligned CREC is none: no record is written there. An entry at priority 0 counts as 1 outside chains of the PF (R49). -/
def Node.ofBytes (n : Node) (kind : NodeKind) (bs : List Byte) : Node :=
  let hdr := fieldOf bs 0 8
  let prio := hdr / 2 ^ 29 % 4
  let x (off : Nat) : Dbl := BitVec.ofNat 64 (fieldOf bs off 8)
  { n with kind := kind, prio := if n.priv then prio else max 1 prio, rscope := hdr / 2 ^ 36 % 8, waitEn := hdr / 2 ^ 39 % 2 == 1,
           waitChan := hdr / 2 ^ 40 % 256, payloadVa := x 8, crec := if (x 0x18).toNat % 16 = 0 then some (x 0x18) else none,
           waitSeq := x 0x20, phandler := x 0x28, place := BitVec.ofNat 128 (fieldOf bs 0x30 16) }

/-- A node that fails a check completes without running (R45). -/
def Node.fails (n : Node) (code : BitVec 8) : Node := { n with code := code, state := .finished, feet := [], slots := [] }

/-- Checks 6 to 8: the completion record, the payload, the payload's fields. -/
def State.loadPayload (s : State) (q : Requester) (n : Node) : State × Node :=
  if !n.crec.any fun va => s.writable q va.toNat then (s, { n with crec := none }.fails 0x04#8)
  else
    let (size, align) := payloadSize n.kind
    if size = 0 then (s, n)
    else if n.payloadVa.toNat % align ≠ 0 then (s, n.fails 0x04#8)
    else
      let (s, r) := s.readFor q n.payloadVa.toNat size
      match r with
      | none => (s, n.fails 0x04#8)
      | some p =>
        let n := { n with payload := doublesOf p (size / 8) }
        (s, if n.payloadCode = 0#8 then n else n.fails n.payloadCode)

/-- The node at a VA, through the checks of R45 in order. -/
def State.loadNode (s : State) (q : Requester) (n : Node) (va : Nat) : State × Node :=
  if va % 128 ≠ 0 then (s, n.fails 0x04#8)
  else
    let (s, r) := s.readFor q va 128
    match r with
    | none => (s, n.fails 0x04#8)
    | some bs =>
      let hdr := fieldOf bs 0 8
      let nfp := hdr / 2 ^ 31 % 2 ^ 5
      let fptr := fieldOf bs 0x10 8
      match kindOf (hdr % 16) with
      | none => (s, (n.ofBytes .nop bs).fails 0x02#8)
      | some kind =>
        let n := n.ofBytes kind bs
        if n.rscope < 5 ∨ hdr / 2 ^ 48 ≠ 0 ∨ hdr / 16 % 2 ^ 25 ≠ 0 then (s, n.fails 0x02#8)
        else if 16 < nfp then (s, n.fails 0x03#8)
        else if nfp = 0 then s.loadPayload q n
        else if fptr % 32 ≠ 0 then (s, n.fails 0x04#8)
        else
          let (s, r) := s.readFor q fptr (32 * nfp)
          match r with
          | none => (s, n.fails 0x04#8)
          | some fs =>
            match checkFeet fs nfp 0 [] with
            | .error c => (s, n.fails c)
            | .ok es =>
              let cover := es.map fun (lo, hi, acc) => s.footprint n.tenant lo hi (decide (2 ≤ acc))
              s.loadPayload q { n with feet := cover.flatMap (·.1), slots := nubNat (cover.flatMap (·.2)) }

/-- Nodes that wait become ready, finish with PRED, or, without an effect of their own, finish (R48). -/
def State.refreshReady (s : State) : State :=
  let turn (n : Node) : Node :=
    if n.state != .waiting || !n.preds.isEmpty || (n.waitEn && decide (s.chainSeq n.waitChan < n.waitSeq.toNat)) then n
    else if n.predFailed then { n with state := .finished, code := 0x07#8 }
    else match n.kind with
      | .nop => { n with state := .finished }
      | .kernel | .comp | .copy | .gather | .coll | .signal => { n with state := .ready, readyAt := s.fCyc }
  { s with work := { s.work with nodes := s.work.nodes.map fun (k, n) => (k, turn n) } }

/-- The node of an entry enters the table (R47). -/
def State.enterNode (s : State) (index chain seq va : Nat) : State :=
  let q := s.chainRequester chain
  let bare := Node.bare chain seq q.tenant q.priv s.work.acceptNo
  let (s, n) := s.loadNode q bare va
  let before := (s.work.nodes.filter fun (_, m) => m.tenant == n.tenant && footEdge m.feet n.feet).map fun (_, m) => m.accept
  let n := { n with preds := if n.state = .finished then [] else before }
  let w := { s.work with nodes := s.work.nodes.put index n, acceptNo := s.work.acceptNo + 1 }
  ((s.setWork w).setCcb chain 0x18 seq).refreshReady

/-- The read of the entry at HEAD failed, and TAIL has not moved since: the entry counts as not valid (R53). -/
def State.ringUnread (s : State) (chain : Nat) : Bool :=
  match s.work.ringFault.look chain with
  | some (p, t) => p == s.chainHead chain && t == s.chainTail chain
  | none => false
/-- The walker waits at the entry at HEAD: its fault is parked, or its read failed. -/
def State.walkerWaits (s : State) (chain : Nat) : Bool := (s.eng.faults.any fun (_, f) => f.who == .walker chain) || s.ringUnread chain

/-- An entry's bytes at position `p` are valid (R53). -/
def entryValid (p ring : Nat) (bs : List Byte) : Bool := fieldOf bs 8 8 % 2 == 1 - p / ring % 2

/-- CHN.STAT.WAITENT (Table 3.10): HEAD < TAIL and the entry at HEAD is not valid; one that a fault keeps from being read counts so,
unless the fault unit resolves it (R53). -/
def State.waitsEntry (s : State) (chain : Nat) : Bool :=
  let p := s.chainHead chain
  let n := s.chainRing chain
  let q := s.chainRequester chain
  decide (p < s.chainTail chain) && (s.ringUnread chain || match (s.globalTarget q.peek .read false ((s.chainBase chain + 16 * (p % n) : Nat) : Int) 16).2 with
    | .ok t => !entryValid p n (t.bytes.map fun l => (s.homeByte l).1)
    | .error f => match s.resolver q.tenant f with | .software | .driver => true | .device | .transit => false)

/-- A function's read of CHN.TAIL and of CHN.STAT (Tables 3.7, 3.10): zero for a chain that it does not reach (R66, R224). -/
def State.readTail (s : State) (fn chain : Nat) : Dbl := if s.reaches fn chain then dbl (s.chainTail chain) else 0#64
def State.readStat (s : State) (fn chain : Nat) : Dbl :=
  if s.reaches fn chain then
    let full := s.chainTail chain == s.chainSeq chain + s.chainRing chain
    dbl ((if s.waitsEntry chain then 4 else 0) + (if full then 2 else 0) + (if s.hub.badTail.getLsbD chain then 1 else 0))
  else 0#64

/-- CHAIN_ACCEPT (R53): the walker reads the entry at HEAD and, where it is valid and the table has room, accepts its node. -/
def execChainAccept (chain : Nat) (s : State) : Host.Outcome State Fault Refusal :=
  let p := s.chainHead chain
  let n := s.chainRing chain
  if 256 ≤ chain ∨ s.chainTail chain ≤ p ∨ s.walkerWaits chain then .next s
  else
    match s.work.nodes.freeBelow 4096 with
    | none => .next s
    | some index =>
      let va := s.chainBase chain + 16 * (p % n)
      let q := s.chainRequester chain
      let (s, r) := s.globalTarget q .read false (va : Int) 16
      match r with
      | .error f =>
        match s.resolver q.tenant f with
        | .transit => .next s
        | .device => .next (s.parkFault (.walker chain) q.tenant 4 f false)
        -- any fault but one that the fault unit resolves makes the entry count as not valid (R53)
        | .driver | .software => .next (s.ringFaulted chain)
      | .ok t =>
        let (s, bs, _) := s.readHome t
        if !entryValid p n bs then .next s
        else
          let key := publishKey chain p
          let s := (s.recv (hubRecorder 0) q.tenant 3 0 .publish key).forget key
          .next (s.enterNode index chain (p + 1) (fieldOf bs 0 8))

end Sys2Proof.Machine
end

