-- ==== Sys2Proof/Machine/Bar0.lean ====
section
/-! DEFINITION. The host's accesses through BAR0 and BAR2: the registers of chains, the mailbox, the PF's windows on the privileged
register space, and the aperture on pinned frames (R53, R55, R66, R223, R224, R227, Table 12.1). -/

namespace Sys2Proof.Machine

/-! BAR0 (R224, Table 12.1) -/

/-- What an offset of BAR0 names for a function: the PF's windows name nothing to a virtual function. -/
inductive Bar0Place where
  | tail (chain : Nat)
  | stat (chain : Nat)
  | cmd
  | mbxStat
  | data (i : Nat)
  /-- a register, by its address for `srd` -/
  | reg (a : Nat)
  | none
  deriving DecidableEq, Repr

def bar0Place (fn off : Nat) : Bar0Place :=
  if 16 < fn then .none
  else if off < 0x100000 then (if off % 0x1000 = 0 then .tail (off / 0x1000) else if off % 0x1000 = 8 then .stat (off / 0x1000) else .none)
  else if off = 0x100000 then .cmd
  else if off = 0x100008 then .mbxStat
  else if 0x101000 ≤ off ∧ off < 0x102000 then .data (off - 0x101000)
  else if fn ≠ 0 then .none
  else if 0x180000 ≤ off ∧ off < 0x184000 then .reg ((off - 0x180000) / 0x1000 * 2 ^ 20 + off % 0x1000)
  else if 0x1A0000 ≤ off ∧ off < 0x1E0000 then .reg ((0x80 + (off - 0x1A0000) / 0x800) * 2 ^ 20 + off % 0x800)
  else .none

/-- MBX.STAT: BUSY, ERR, RESULT (R227). -/
def Mailbox.stat (m : Mailbox) : Dbl := dbl ((if m.busy then 1 else 0) + 2 * (m.err % 8) + 2 ^ 32 * m.result.toNat)

/-- The bytes that a read of `n` bytes answers: a register answers at its own width and reads zero at another. -/
def State.bar0Read (s : State) (fn off n : Nat) : List Byte :=
  let wide (x : Dbl) : List Byte := bytesOf n (if n = 8 then x.toNat else 0)
  match bar0Place fn off with
  | .tail c => wide (s.readTail fn c)
  | .stat c => wide (s.readStat fn c)
  | .cmd => wide (s.mailbox fn).cmd
  | .mbxStat => wide (s.mailbox fn).stat
  | .data i => (List.range n).map fun k => if i + k < 0x1000 then nth (s.mailbox fn).data (i + k) 0#8 else 0#8
  | .reg a => bytesOf n (match regAt Option.none a with
      | some r => if (r.wide && n == 8) || (!r.wide && n == 4) then (s.readReg64 r).toNat else 0
      | Option.none => 0)
  | .none => bytesOf n 0

/-- A write of some bytes: a register takes a write of its own width, everything else is dropped. RSVD bits of MBX.CMD stay zero (R8). -/
def State.bar0Write (s : State) (fn off : Nat) (bs : List Byte) : State :=
  let n := bs.length
  let x := dbl (leNat bs)
  match bar0Place fn off with
  | .tail c => if n = 8 then s.writeTail fn c x else s
  | .stat c => if n = 8 then s.writeStat fn c x else s
  | .cmd => if n = 8 then s.command fn (x &&& 0xFFFFFFFF000000FF#64) else s
  | .reg a => if n = 8 ∨ n = 4 then s.writeAt .field Option.none a (n == 8) x else s
  | .mbxStat | .data _ | .none => s

/-! BAR2 (R223) -/

/-- What a read through BAR2 answers. -/
def State.bar2Bytes (s : State) (offset count : Nat) : List Byte :=
  (List.range count).map fun i => if s.bar2Reaches (offset + i) then (s.homeByte (.phys (s.hub.bar2.toNat + offset + i))).1 else 0xFF#8

/-- The sectors that a read through BAR2 brings to their home slices. -/
def State.bar2Sectors (s : State) (offset count : Nat) : List Nat :=
  nubNat (((List.range count).filter fun i => s.bar2Reaches (offset + i)).map fun i => (s.hub.bar2.toNat + offset + i) / 32)

/-- A write through BAR2: bytes beside pinned frames, and those to locked code frames (R162), are dropped. -/
def State.bar2Write (s : State) (offset : Nat) (d : List Byte) : State :=
  let bs := ((d.zipIdx.map fun (b, i) => (i, b)).filter fun x => s.bar2Reaches (offset + x.1)).map fun x => (s.hub.bar2.toNat + offset + x.1, x.2)
  let (s, bs) := s.dropLocked bs
  if bs.isEmpty then s else s.acceptPhys bs none none

/-- BAR2_ACCESS (R223), and an access through BAR0 (R224): a read of `count` bytes when `data` is none, else a write. -/
def execBar2Access (place : Aperture) (count : Nat) (data : Option (List Byte)) (s : State) : Host.Outcome State Fault Refusal :=
  let answer (bs : List Byte) : Host.Outcome State Fault Refusal := .next { s with out := { s.out with bar2Read := bs } }
  match place, data with
  | .bar2 offset, none =>
    let s := (s.bar2Sectors offset count).foldl State.touchHome s
    .next { s with out := { s.out with bar2Read := s.bar2Bytes offset count } }
  | .bar2 offset, some d => .next (s.bar2Write offset d)
  | .bar0 fn offset, none => answer (s.bar0Read fn offset count)
  | .bar0 fn offset, some d => .next (s.bar0Write fn offset d)

end Sys2Proof.Machine
end

