-- ==== Sys2Proof/Machine/Float.lean ====
section
/-! DEFINITION. Floating-point, conversion, packed-half, function and dot-product words (R256, R289-R298, R303, R310, R327, R345, R346). -/

namespace Sys2Proof.Machine

/-- CVT (R290). -/
def execCvt (w : RegWord) (s : State) : Host.Outcome State Fault Refusal := s.issueAlu (.cvt w) (cvtOp w)

/-- FADD (R293). -/
def execFadd (w : RegWord) (s : State) : Host.Outcome State Fault Refusal := s.issueAlu (.fadd w) (faddOp w)

/-- FADD_IMM (R256). -/
def execFaddImm (w : ImmWord) (s : State) : Host.Outcome State Fault Refusal := s.issueAlu (.faddImm w) (faddImmOp w)

/-- FSUB (R293). -/
def execFsub (w : RegWord) (s : State) : Host.Outcome State Fault Refusal := s.issueAlu (.fsub w) (fsubOp w)

/-- FMUL (R293). -/
def execFmul (w : RegWord) (s : State) : Host.Outcome State Fault Refusal := s.issueAlu (.fmul w) (fmulOp w)

/-- FMUL_IMM (R256). -/
def execFmulImm (w : ImmWord) (s : State) : Host.Outcome State Fault Refusal := s.issueAlu (.fmulImm w) (fmulImmOp w)

/-- FFMA (R293). -/
def execFfma (w : RegWord) (s : State) : Host.Outcome State Fault Refusal := s.issueAlu (.ffma w) (ffmaOp w)

/-- FSCALE (R293). -/
def execFscale (w : RegWord) (s : State) : Host.Outcome State Fault Refusal := s.issueAlu (.fscale w) (fscaleOp w)

/-- FROUND (R293). -/
def execFround (w : RegWord) (s : State) : Host.Outcome State Fault Refusal := s.issueAlu (.fround w) (froundOp w)

/-- FMIN (R294). -/
def execFmin (w : RegWord) (s : State) : Host.Outcome State Fault Refusal := s.issueAlu (.fmin w) (fminOp w)

/-- FMIN_IMM (R256). -/
def execFminImm (w : ImmWord) (s : State) : Host.Outcome State Fault Refusal := s.issueAlu (.fminImm w) (fminImmOp w)

/-- FMAX (R294). -/
def execFmax (w : RegWord) (s : State) : Host.Outcome State Fault Refusal := s.issueAlu (.fmax w) (fmaxOp w)

/-- FMAX_IMM (R256). -/
def execFmaxImm (w : ImmWord) (s : State) : Host.Outcome State Fault Refusal := s.issueAlu (.fmaxImm w) (fmaxImmOp w)

/-- FCLASS (R295). -/
def execFclass (w : RegWord) (s : State) : Host.Outcome State Fault Refusal := s.issueAlu (.fclass w) (fclassOp w)

/-- FCMP (R296). -/
def execFcmp (w : RegWord) (s : State) : Host.Outcome State Fault Refusal := s.issueAlu (.fcmp w) (fcmpOp w)

/-- FDIV (R297). -/
def execFdiv (w : RegWord) (s : State) : Host.Outcome State Fault Refusal := s.issueAlu (.fdiv w) (fdivOp w)

/-- FRCP (R297). -/
def execFrcp (w : RegWord) (s : State) : Host.Outcome State Fault Refusal := s.issueAlu (.frcp w) (frcpOp w)

/-- FRSQ (R297). -/
def execFrsq (w : RegWord) (s : State) : Host.Outcome State Fault Refusal := s.issueAlu (.frsq w) (frsqOp w)

/-- FSQRT (R297). -/
def execFsqrt (w : RegWord) (s : State) : Host.Outcome State Fault Refusal := s.issueAlu (.fsqrt w) (fsqrtOp w)

/-- FEXP2 (R297). -/
def execFexp2 (w : RegWord) (s : State) : Host.Outcome State Fault Refusal := s.issueAlu (.fexp2 w) (fexp2Op w)

/-- FLOG2 (R297). -/
def execFlog2 (w : RegWord) (s : State) : Host.Outcome State Fault Refusal := s.issueAlu (.flog2 w) (flog2Op w)

/-- FSIN (R297). -/
def execFsin (w : RegWord) (s : State) : Host.Outcome State Fault Refusal := s.issueAlu (.fsin w) (fsinOp w)

/-- FCOS (R297). -/
def execFcos (w : RegWord) (s : State) : Host.Outcome State Fault Refusal := s.issueAlu (.fcos w) (fcosOp w)

/-- FTANH (R303). -/
def execFtanh (w : RegWord) (s : State) : Host.Outcome State Fault Refusal := s.issueAlu (.ftanh w) (ftanhOp w)

/-- FDOT2 (R298). -/
def execFdot2 (w : RegWord) (s : State) : Host.Outcome State Fault Refusal := s.issueAlu (.fdot2 w) (fdot2Op w)

/-- HADD2 (R310). -/
def execHadd2 (w : RegWord) (s : State) : Host.Outcome State Fault Refusal := s.issueAlu (.hadd2 w) (hadd2Op w)

/-- HMUL2 (R310). -/
def execHmul2 (w : RegWord) (s : State) : Host.Outcome State Fault Refusal := s.issueAlu (.hmul2 w) (hmul2Op w)

/-- HFMA2 (R310). -/
def execHfma2 (w : RegWord) (s : State) : Host.Outcome State Fault Refusal := s.issueAlu (.hfma2 w) (hfma2Op w)

/-- PACK (R345). -/
def execPack (w : RegWord) (s : State) : Host.Outcome State Fault Refusal := s.issueAlu (.pack w) (packOp w)

/-- UNPACK (R346). -/
def execUnpack (w : RegWord) (s : State) : Host.Outcome State Fault Refusal := s.issueAlu (.unpack w) (unpackOp w)

/-- The scaled form of a dot product: the scales of a slot's block, the addend in D (R176, R177, Table 9.7). -/
def dotScaledBody (i : Instr) (w : RegWord) (dot : Int → Dbl → Dbl → Dbl → Res) (s : State) (u : Issuer) (m : Word) : State × Ending :=
  if u.symbolic then s.makeConcrete u
  else
    let scale (t : Nat) : Nat := elemAt (s.readSlot u.ctx t 1 w.c) 8 (w.modAt 22 2)
    let rs := (u.actSlots i m).map fun t =>
      (t, scaledRes (scale (t / 8 * 8)) (scale (t / 8 * 8 + 4)) fun k => dot k (s.argA u i t) (s.argB u i t) (s.argD u i t))
    (s, .on (rs.flatMap fun (t, r) => u.resultAt i t r.val) (rs.foldl (fun acc (_, r) => acc ||| r.flags) 0#32) none)

/-- FDOT4 (R298). -/
def execFdot4 (w : RegWord) (s : State) : Host.Outcome State Fault Refusal :=
  if w.modAt 21 1 = 0 then s.issueAlu (.fdot4 w) (fdot4Op w)
  else s.issueWord (.fdot4 w) (dotScaledBody (.fdot4 w) w fun k a b d => dotRes w.fmt.toNat 4 w.rmode w.ftz k a b d)

/-- LGDOT4 (R327). -/
def execLgdot4 (w : RegWord) (s : State) : Host.Outcome State Fault Refusal :=
  if w.modAt 21 1 = 0 then s.issueAlu (.lgdot4 w) (lgdot4Op w)
  else s.issueWord (.lgdot4 w) (dotScaledBody (.lgdot4 w) w fun k a b d => lgDotRes w.rmode w.ftz k a b d)

/-! The paired word (R250, R251) -/

/-- One half at one slot: its own instruction's function over the half's registers. -/
def halfRes (s : State) (u : Issuer) (h : HalfOp) (t : Nat) : Res :=
  let r (x : BitVec 6) : Dbl := (s.readV u.ctx t x.toNat).setWidth 64
  match h.instr with
  | none => Res.ok 0
  | some i => match aluFn i with
    | some f => f { cls := .vector, a := r h.a, b := r h.b, c := r h.d, d := 0#64 }
    | none => Res.ok 0

/-- Both halves read, then both are staged and committed together, flags ORed. -/
def pairedBody (l r : HalfOp) (s : State) (u : Issuer) (m : Word) : State × Ending :=
  if u.symbolic then
    match (u.ctx.sym u.clause.stage).pair l r with
    | some (ws, f) => (s, .on ws f none)
    | none => s.makeConcrete u
  else
    let one (h : HalfOp) (t : Nat) : RegWrite × Word :=
      let x := halfRes s u h t
      (.v t h.d.toNat (x.val.setWidth 32), x.flags)
    let rs := (slotsOf m).flatMap fun t => [one l t, one r t]
    (s, .on (rs.map (·.1)) (rs.foldl (fun acc x => acc ||| x.2) 0#32) none)

/-- PAIRED_WORD (R250). -/
def execPairedWord (l r : HalfOp) (s : State) : Host.Outcome State Fault Refusal := s.issueWord (.pairedWord l r) (pairedBody l r)

end Sys2Proof.Machine
end

