-- ==== Sys2Proof/Machine/Integer.lean ====
section
/-! DEFINITION. Integer, bit, logic, shift, compare, move and predicate words (R249, R256, R269, R312-R318, R326, R328, R337-R344, R347). -/

namespace Sys2Proof.Machine

/-- AND (R269). -/
def execAnd (w : RegWord) (s : State) : Host.Outcome State Fault Refusal := s.issueAlu (.and w) (andOp w)

/-- AND_IMM (R256). -/
def execAndImm (w : ImmWord) (s : State) : Host.Outcome State Fault Refusal := s.issueAlu (.andImm w) (andImmOp w)

/-- BFE (R269). -/
def execBfe (w : RegWord) (s : State) : Host.Outcome State Fault Refusal := s.issueAlu (.bfe w) (bfeOp w)

/-- BFI (R269). -/
def execBfi (w : RegWord) (s : State) : Host.Outcome State Fault Refusal := s.issueAlu (.bfi w) (bfiOp w)

/-- BREV (R269). -/
def execBrev (w : RegWord) (s : State) : Host.Outcome State Fault Refusal := s.issueAlu (.brev w) (brevOp w)

/-- CLZ (R269). -/
def execClz (w : RegWord) (s : State) : Host.Outcome State Fault Refusal := s.issueAlu (.clz w) (clzOp w)

/-- CTZ (R269). -/
def execCtz (w : RegWord) (s : State) : Host.Outcome State Fault Refusal := s.issueAlu (.ctz w) (ctzOp w)

/-- IADD (R312). -/
def execIadd (w : RegWord) (s : State) : Host.Outcome State Fault Refusal := s.issueAlu (.iadd w) (iaddOp w)

/-- IADD_IMM (R256). -/
def execIaddImm (w : ImmWord) (s : State) : Host.Outcome State Fault Refusal := s.issueAlu (.iaddImm w) (iaddImmOp w)

/-- ISUB (R312). -/
def execIsub (w : RegWord) (s : State) : Host.Outcome State Fault Refusal := s.issueAlu (.isub w) (isubOp w)

/-- ISUB_IMM (R256). -/
def execIsubImm (w : ImmWord) (s : State) : Host.Outcome State Fault Refusal := s.issueAlu (.isubImm w) (isubImmOp w)

/-- IADD3 (R312). -/
def execIadd3 (w : RegWord) (s : State) : Host.Outcome State Fault Refusal := s.issueAlu (.iadd3 w) (iadd3Op w)

/-- IMUL (R312). -/
def execImul (w : RegWord) (s : State) : Host.Outcome State Fault Refusal := s.issueAlu (.imul w) (imulOp w)

/-- IMUL_IMM (R256). -/
def execImulImm (w : ImmWord) (s : State) : Host.Outcome State Fault Refusal := s.issueAlu (.imulImm w) (imulImmOp w)

/-- IMULHI (R312). -/
def execImulhi (w : RegWord) (s : State) : Host.Outcome State Fault Refusal := s.issueAlu (.imulhi w) (imulhiOp w)

/-- IMAD (R312). -/
def execImad (w : RegWord) (s : State) : Host.Outcome State Fault Refusal := s.issueAlu (.imad w) (imadOp w)

/-- IMADW (R312). -/
def execImadw (w : RegWord) (s : State) : Host.Outcome State Fault Refusal := s.issueAlu (.imadw w) (imadwOp w)

/-- IABS (R312). -/
def execIabs (w : RegWord) (s : State) : Host.Outcome State Fault Refusal := s.issueAlu (.iabs w) (iabsOp w)

/-- IMIN (R312). -/
def execImin (w : RegWord) (s : State) : Host.Outcome State Fault Refusal := s.issueAlu (.imin w) (iminOp w)

/-- IMIN_IMM (R256). -/
def execIminImm (w : ImmWord) (s : State) : Host.Outcome State Fault Refusal := s.issueAlu (.iminImm w) (iminImmOp w)

/-- IMAX (R312). -/
def execImax (w : RegWord) (s : State) : Host.Outcome State Fault Refusal := s.issueAlu (.imax w) (imaxOp w)

/-- IMAX_IMM (R256). -/
def execImaxImm (w : ImmWord) (s : State) : Host.Outcome State Fault Refusal := s.issueAlu (.imaxImm w) (imaxImmOp w)

/-- IDIV (R313). -/
def execIdiv (w : RegWord) (s : State) : Host.Outcome State Fault Refusal := s.issueAlu (.idiv w) (idivOp w)

/-- IREM (R313). -/
def execIrem (w : RegWord) (s : State) : Host.Outcome State Fault Refusal := s.issueAlu (.irem w) (iremOp w)

/-- ICMP (R316). -/
def execIcmp (w : RegWord) (s : State) : Host.Outcome State Fault Refusal := s.issueAlu (.icmp w) (icmpOp w)

/-- ICMP_IMM (R256). -/
def execIcmpImm (w : ImmWord) (s : State) : Host.Outcome State Fault Refusal := s.issueAlu (.icmpImm w) (icmpImmOp w)

/-- LEA (R326). -/
def execLea (w : RegWord) (s : State) : Host.Outcome State Fault Refusal := s.issueAlu (.lea w) (leaOp w)

/-- LOP3 (R328). -/
def execLop3 (w : RegWord) (s : State) : Host.Outcome State Fault Refusal := s.issueAlu (.lop3 w) (lop3Op w)

/-- MOVI (R338). -/
def execMovi (w : ImmWord) (s : State) : Host.Outcome State Fault Refusal := s.issueAlu (.movi w) (moviOp w)

/-- MOVHI (R338). -/
def execMovhi (w : ImmWord) (s : State) : Host.Outcome State Fault Refusal := s.issueAlu (.movhi w) (movhiOp w)

/-- NOP (R342). -/
def execNop (w : RegWord) (s : State) : Host.Outcome State Fault Refusal := s.issueAlu (.nop w) (nopOp w)

/-- NOT (R343). -/
def execNot (w : RegWord) (s : State) : Host.Outcome State Fault Refusal := s.issueAlu (.not w) (notOp w)

/-- OR (R343). -/
def execOr (w : RegWord) (s : State) : Host.Outcome State Fault Refusal := s.issueAlu (.or w) (orOp w)

/-- OR_IMM (R256). -/
def execOrImm (w : ImmWord) (s : State) : Host.Outcome State Fault Refusal := s.issueAlu (.orImm w) (orImmOp w)

/-- XOR (R343). -/
def execXor (w : RegWord) (s : State) : Host.Outcome State Fault Refusal := s.issueAlu (.xor w) (xorOp w)

/-- XOR_IMM (R256). -/
def execXorImm (w : ImmWord) (s : State) : Host.Outcome State Fault Refusal := s.issueAlu (.xorImm w) (xorImmOp w)

/-- POPC (R343). -/
def execPopc (w : RegWord) (s : State) : Host.Outcome State Fault Refusal := s.issueAlu (.popc w) (popcOp w)

/-- SHL (R343). -/
def execShl (w : RegWord) (s : State) : Host.Outcome State Fault Refusal := s.issueAlu (.shl w) (shlOp w)

/-- SHL_IMM (R256). -/
def execShlImm (w : ImmWord) (s : State) : Host.Outcome State Fault Refusal := s.issueAlu (.shlImm w) (shlImmOp w)

/-- SHR (R343). -/
def execShr (w : RegWord) (s : State) : Host.Outcome State Fault Refusal := s.issueAlu (.shr w) (shrOp w)

/-- SHR_IMM (R256). -/
def execShrImm (w : ImmWord) (s : State) : Host.Outcome State Fault Refusal := s.issueAlu (.shrImm w) (shrImmOp w)

/-- SAR (R343). -/
def execSar (w : RegWord) (s : State) : Host.Outcome State Fault Refusal := s.issueAlu (.sar w) (sarOp w)

/-- SAR_IMM (R256). -/
def execSarImm (w : ImmWord) (s : State) : Host.Outcome State Fault Refusal := s.issueAlu (.sarImm w) (sarImmOp w)

/-- SHF (R343). -/
def execShf (w : RegWord) (s : State) : Host.Outcome State Fault Refusal := s.issueAlu (.shf w) (shfOp w)

/-- PRMT (R343). -/
def execPrmt (w : RegWord) (s : State) : Host.Outcome State Fault Refusal := s.issueAlu (.prmt w) (prmtOp w)

/-- SEL (R343). -/
def execSel (w : RegWord) (s : State) : Host.Outcome State Fault Refusal := s.issueAlu (.sel w) (selOp w)

/-- PAND (R347). -/
def execPand (w : RegWord) (s : State) : Host.Outcome State Fault Refusal := s.issueAlu (.pand w) (pandOp w)

/-- An indexed `mov` at the active slots (R249, R337): RIDX when a computed number is beyond the allocation, in a trunk or limb too. -/
def movIndexedBody (w : RegWord) (s : State) (u : Issuer) (m : Word) : State × Ending :=
  let sk := if u.symbolic then ((u.ctx.sregs u.clause.stage).look (w.c.toNat - 0xC0)).getD 0#32 else u.ctx.readS (w.c.toNat - 0xC0)
  let (a, d) := movIndex w sk
  let beyond (n : Nat) : Bool := decide (8 * u.ctx.map.length ≤ n)
  let vsrc := w.modAt 22 2 = 1 ∨ w.a.toNat < 0xC0
  if m = 0#32 then (s, .done)
  else if (vsrc ∧ beyond a) ∨ beyond d then (s, .trap 0x02#8 0#64 m)
  else if u.symbolic then
    match u.sguard (.mov w), (u.ctx.sym u.clause.stage).movIndexed w with
    | .uni _, some ws => (s, .on ws 0#32 none)
    | _, _ => s.makeConcrete u
  else
    let src (t : Nat) : Word := if vsrc then s.readV u.ctx t a else u.ctx.readS (w.a.toNat - 0xC0)
    (s, .on ((slotsOf m).map fun t => .v t d (src t)) 0#32 none)

/-- MOV (R337, R249). -/
def execMov (w : RegWord) (s : State) : Host.Outcome State Fault Refusal :=
  if w.modAt 22 2 = 0 then s.issueAlu (.mov w) (movOp w) else s.issueWord (.mov w) (movIndexedBody w)

/-- PMOV (R347): predicates to a register, or a register to predicates. -/
def pmovBody (w : RegWord) (s : State) (u : Issuer) (m : Word) : State × Ending :=
  let i := Instr.pmov w
  let ks := (List.range 7).filter fun k => w.mod.getLsbD k
  if u.symbolic then
    match u.sguard i, (u.ctx.sym u.clause.stage).pmov w with
    | .uni b, some ws => (s, if b then .on ws 0#32 none else .done)
    | _, _ => s.makeConcrete u
  else if w.fmt == 0#4 then
    let bits (t : Nat) : Word := ks.foldl (fun x k => setBit x k (u.ctx.readP t k)) 0#32
    (s, .on ((u.actSlots i m).flatMap fun t => u.writes [t] i.rules.d w.d ((bits t).setWidth 128)) 0#32 none)
  else
    (s, .on ((slotsOf m).flatMap fun t => ks.map fun k => .p t k ((s.readOpd u.ctx t (.src 1) w.a).getLsbD k)) 0#32 none)

/-- PMOV (R347). -/
def execPmov (w : RegWord) (s : State) : Host.Outcome State Fault Refusal := s.issueWord (.pmov w) (pmovBody w)

/-- IDX (R318): the coordinate of the item in a dimension; in a trunk or limb the form with coefficient 1. -/
def idxBody (w : ImmWord) (s : State) (u : Issuer) (m : Word) : State × Ending :=
  let i := Instr.idx w
  let k := w.imm.toNat
  if u.symbolic then
    match u.sguard i, writeForm (.dstV 1) w.d (idxForm k) with
    | .uni b, some ws => (s, if b then .on ws 0#32 none else .done)
    | _, _ => s.makeConcrete u
  else
    (s, .on ((slotsOf m).map fun t => .v t w.d.toNat (word (nth (s.itemOf u.ctx t).list k 0))) 0#32 none)

/-- IDX (R318). -/
def execIdx (w : ImmWord) (s : State) : Host.Outcome State Fault Refusal := s.issueWord (.idx w) (idxBody w)

end Sys2Proof.Machine
end

