-- ==== Sys2Proof/Machine/Preempt.lean ====
section
/-! DEFINITION. Pre-emption: its start, forced save, saving and resuming a unit, and the break of register growth (R35, R50, R58-R62, R152,
R186, R353). -/

namespace Sys2Proof.Machine

/-! Units (R58) -/

/-- The groups of the unit that a group belongs to, and their boxes. -/
def State.unitBoxes (s : State) (gk : Nat) : List Box := (s.gangMembers gk).filterMap fun k => (s.work.groups.look k).map (·.box)
/-- A context lies wholly, or in part, in a unit. -/
def State.unitHolds (s : State) (gk : Nat) (c : Ctx) : Bool :=
  match c.group, (s.work.groups.look gk).bind fun g => (s.node? g.node).map (g.node, ·) with
  | some g, _ => (s.gangMembers gk).contains g
  | none, some (k, n) =>
    let numbers := (s.gangMembers gk).filterMap fun k => (s.work.groups.look k).map (·.number)
    c.node == k && !c.isComp && match c.part with
      | some x => numbers.contains x
      | none => (n.groupsIn c.box).all numbers.contains
  | none, none => false
def State.unitTouches (s : State) (gk : Nat) (c : Ctx) : Bool :=
  s.unitHolds gk c || (c.group.isNone && !c.isComp && (s.work.groups.look gk).any (fun g => g.node == c.node)
    && match c.part with | some _ => false | none => (s.unitBoxes gk).any c.box.meets)

/-- The unit under pre-emption that a group belongs to. -/
def State.preUnit (s : State) (gk : Nat) : Option PreUnit := s.work.units.find? fun u => (s.gangMembers u.group).contains gk

/-- Pre-emption of a unit starts: through its handler, or by forced save when it has none (R58). Trunks and limbs that touch it
materialise first; one that lies wholly in the unit is saved as it is by a forced save (R35, R59, R60, notes/assumptions/68.md). -/
def State.preempt (s : State) (node gk : Nat) (growth : Bool) : State :=
  match s.node? node, s.preUnit gk with
  | some n, none =>
    let forced := growth || n.phandler == 0#64 || n.kind == .comp
    -- a warp that holds a trap takes its PREEMPT after `tret`, and the budget runs meanwhile (R375)
    let late := (s.work.ctxs.map (·.2)).any fun c => s.unitHolds gk c && !c.symbolic && c.trap.isSome && c.live != 0#32
    let u : PreUnit := { node := node, group := gk, since := if late && !forced then some s.aCyc else none, forced := forced, growth := growth }
    let first (c : Ctx) : Bool := c.symbolic && s.unitTouches gk c && !(forced && s.unitHolds gk c)
    let mark (c : Ctx) : Ctx := if first c then { c with must := true } else c
    { s with work := { s.work with units := s.work.units ++ [u], ctxs := s.work.ctxs.map (fun (k, c) => (k, mark c)),
                                   limbQueue := s.work.limbQueue.map mark } }
  | _, _ => s

/-- The group that stands for a unit of a node: a placed group, or for a compositor's program the entry of its scratch. -/
def State.unitOf (s : State) (node group : Nat) : Option Nat :=
  match s.node? node with
  | some n =>
    if n.state != .running then none
    else if n.kind = .comp then (s.work.groups.find? fun (_, g) => g.node == node).map (·.1)
    else match s.work.groups.look group with
      | some g => if g.node = node ∧ !g.freed ∧ !g.saved then some group else none
      | none => none
  | none => none

/-- PREEMPT_REQUEST (R58): privileged software asks through the management interface. -/
def execPreemptRequest (node group : Nat) (s : State) : Host.Outcome State Fault Refusal :=
  match s.unitOf node group with
  | some gk => .next (s.preempt node gk false)
  | none => .next s

/-- PREEMPT_TIMEOUT (R59): 60,000 a-cycles have passed since the first PREEMPT trap; the save is forced. -/
def execPreemptTimeout (node group : Nat) (s : State) : Host.Outcome State Fault Refusal :=
  match s.preUnit group with
  | some u =>
    if u.node = node ∧ !u.forced ∧ u.since.any (fun t => decide (t + 60000 ≤ s.aCyc)) then
      let units := s.work.units.map fun x => if x.group = u.group then { x with forced := true } else x
      .next (s.setWork { s.work with units := units })
    else .next s
  | none => .next s

/-! Moving scratch -/

/-- Where a saved group's scratch stands: a cluster number that no cluster has. -/
def saveCluster (gk : Nat) : Nat := 2 ^ 20 + gk

/-- A store key after its range has moved. -/
def movedKey (from_ to_ n k : Nat) : Nat := if from_ ≤ k ∧ k < from_ + n then to_ + (k - from_) else k

/-- A range of the store moves, with what names it: poison, flips of its objects and their messages, and the places and objects of queued
operations, which run on (R60). What stood in the new range is gone. -/
def State.moveStore (s : State) (from_ to_ n : Nat) : State :=
  let mv := movedKey from_ to_ n
  let inNew (k : Nat) : Bool := decide (to_ ≤ k) && decide (k < to_ + n)
  let inOld (k : Nat) : Bool := decide (from_ ≤ k) && decide (k < from_ + n)
  let table {α : Type} (t : Table α) (key : Nat → Nat) (old new : Nat → Bool) : Table α :=
    (t.filter fun e => old e.1).foldl (fun t e => t.put (key e.1) e.2) (t.filter fun e => !old e.1 && !new e.1)
  let place (p : Place) : Place := match p with
    | .va a => .va a
    | .store c a => let k := mv (storeKey c a.toNat)
      if a < 0 then .store c a else .store (k / 2 ^ 24) ((k % 2 ^ 24 : Nat) : Int)
  let obj (o : Option ObjRef) : Option ObjRef := o.map fun r => { r with key := mv r.key }
  let flip (k : Nat) (p : Nat → Bool) : Bool := k % 8 == 3 && p (k / 8)
  { s with
    mem := { s.mem with
      store := (s.mem.store.filter fun b => inOld b.1).foldl (fun m b => m.poke (mv b.1) b.2)
        (s.mem.store.filter fun b => !inOld b.1 && !inNew b.1),
      storePoison := (s.mem.storePoison.filter fun k => inOld k || !inNew k).map mv },
    eng := { s.eng with
      flips := table s.eng.flips mv inOld inNew,
      chans := s.eng.chans.map fun (i, c) => (i, { c with queue := c.queue.map fun o => { o with src := place o.src, dst := place o.dst, obj := obj o.obj } }),
      gathers := s.eng.gathers.map fun (i, l) => (i, l.map fun o => { o with obj := obj o.obj }) },
    rel := { s.rel with messages := table s.rel.messages (fun k => mv (k / 8) * 8 + k % 8) (flip · inOld) (flip · inNew) } }

/-! Saving (R60) -/

/-- A store key lies in the scratch of a unit's groups. -/
def State.inScratch (s : State) (gk key : Nat) : Bool :=
  (s.gangMembers gk).any fun k => match s.work.groups.look k with
    | some g => !g.freed && decide (storeKey g.cluster g.base ≤ key) && decide (key < storeKey g.cluster g.base + g.kib * 1024)
    | none => false

/-- The destination of a queued copy; of one whose record has not been read, as the record gives it now. None: it cannot be read yet. -/
def State.copyDest (s : State) (cluster : Nat) (op : CopyOp) : Option Place :=
  match op.record with
  | none => some op.dst
  | some va =>
    if va.toNat % 64 ≠ 0 then some (.va 0)
    else match (s.globalTarget (engineRequester op.tenant cluster op.priv).peek .read false (va.toNat : Int) 64).2 with
      | .ok t => some (((s.recordCopy op (s.readHome t).2.1).1.map (·.dst)).getD (.va 0))
      | .error _ => none

/-- A copy or gather that targets the unit's scratch is queued or runs: it writes there. Copies that target other memory run on (R60). A
copy of the unit whose record cannot be read yet is waited for (notes/assumptions/67.md). -/
def State.unitCopies (s : State) (gk : Nat) : Bool :=
  let at_ (p : Place) : Bool := match p with | .store c a => s.inScratch gk (storeKey c a.toNat) | .va _ => false
  let mine (g : Option Nat) : Bool := match g with | some g => (s.gangMembers gk).contains g | none => false
  (s.eng.chans.any fun (i, c) => c.queue.any fun q => match s.copyDest (i / 4) q with | some d => at_ d | none => mine q.group)
    || (s.eng.gathers.any fun (_, l) => l.any fun q => match s.gatherPlace q with | some p => at_ p | none => false)

/-- The context has no clause in progress and nothing in flight. -/
def State.atRest (s : State) (c : Ctx) : Bool :=
  c.inflight.isEmpty && match (s.lane (c.key / 8)).clause with | some cl => cl.bind != c.bind | none => true

/-- The contexts on bindings that a unit holds. -/
def State.unitCtxs (s : State) (gk : Nat) : List Ctx := (s.work.ctxs.map (·.2)).filter (s.unitHolds gk)

/-- Every live warp of a unit has executed `psig` or exited, those that the save area holds as leaf warps among them (R59). -/
def State.unitSaid (s : State) (u : PreUnit) : Bool :=
  let said (c : Ctx) : Bool := c.live == 0#32 || c.declared
  (s.unitCtxs u.group).all said && ((s.work.leafSaved.map (·.ctx)).filter (s.unitHolds u.group)).all said

/-- The unit can be saved: forced, or every live warp has declared; at clause boundaries, its copies complete. -/
def State.unitReady (s : State) (u : PreUnit) : Bool :=
  let cs := s.unitCtxs u.group
  let limbs := (s.work.ctxs.map (·.2) ++ s.work.limbQueue).any fun c =>
    c.symbolic && s.unitTouches u.group c && !(u.forced && s.unitHolds u.group c)
  cs.all s.atRest && !s.unitCopies u.group && !limbs && (u.forced || s.unitSaid u)

/-- Merge buffers drain by a release at gang scope, and the release completes: no line that a fault holds is left (R112, R125, R138). -/
def State.drainCores (s : State) (cores : List Nat) : State × Bool :=
  let s := cores.foldl State.drainCore s
  (s, !s.mem.merge.any fun m => cores.contains m.core)

/-- What a unit keeps: registers per item and KiB of scratch (R59, R60). -/
def State.unitKeeps (s : State) (u : PreUnit) : Nat × Nat :=
  if u.forced then (256, 256)
  else (s.unitCtxs u.group).foldl (fun acc c =>
    match c.pre with | .declared k j => (min acc.1 (8 * k), min acc.2 j) | .none | .handler => acc) (256, 256)

/-- A group goes to the save area with the first `kib` KiB of its scratch; the rest reads as zero after resumption. -/
def State.saveGroup (s : State) (gk kib : Nat) : State :=
  match s.work.groups.look gk with
  | none => s
  | some g =>
    let s := (s.moveStore (storeKey g.cluster g.base) (storeKey (saveCluster gk) 0) (g.kib * 1024)).zeroStore (saveCluster gk) (kib * 1024)
      (g.kib * 1024)
    s.changeGroup gk fun g => { g with cluster := saveCluster gk, base := 0, saved := true }

/-- What the save area holds of a group's scratch is gone. -/
def State.dropHome (s : State) (gk : Nat) : State := s.zeroStore (saveCluster gk) 0 (2 ^ 24)

/-- SAVE records, one for each context. -/
def State.saveRecords (s : State) (cs : List Ctx) (forced : Bool) : State :=
  cs.foldl (fun s c => s.galleyCtx c 2 0x04#8 (if forced then 1#64 else 0#64)) s

/-- A unit's contexts and scratch go to the save area; bindings, rows and scratch are free, and the latches of its lanes invalid (R74). -/
def State.saveUnit (s : State) (u : PreUnit) : State :=
  let keys := s.gangMembers u.group
  let holds (c : Ctx) : Bool := s.unitHolds u.group c
  let cs := s.unitCtxs u.group
  let (regs, kib) := s.unitKeeps u
  let s := s.dropFaults fun c => cs.any fun x => x.uid == c.uid
  let s := cs.foldl (fun s c => s.clearLatch (c.key / 8)) s
  let keep (c : Ctx) : SavedCtx :=
    let x := s.saveCtx c
    { ctx := c.rested, rows := x.rows.filter fun r => decide (r.2.1 < regs), bad := x.bad.filter fun r => decide (r.2 < regs) }
  let groups := keys.filterMap fun k => (s.work.groups.look k).map (k, ·)
  let queued := (s.work.limbQueue.filter holds).map fun c : Ctx => ({ ctx := c.rested, rows := [], bad := [] } : SavedCtx)
  let x : SavedUnit := { node := u.node, groups := groups, ctxs := cs.map keep ++ (if u.forced then queued else []),
                         cluster := 0, matrix := none, growth := u.growth }
  let s := s.saveRecords cs u.forced
  let leaf (x : SavedCtx) : SavedCtx := if holds x.ctx then { x with ctx := { x.ctx with pre := .none } } else x
  let s := { s with work := { s.work with
      leafSaved := s.work.leafSaved.map leaf,
      saved := s.work.saved ++ [x], units := s.work.units.filter (·.group != u.group),
      ctxs := s.work.ctxs.having fun c => !cs.any fun y => y.uid == c.uid,
      limbQueue := if u.forced then s.work.limbQueue.filter (!holds ·) else s.work.limbQueue } }
  keys.foldl (fun s k => s.saveGroup k kib) s

/-- A compositor's program goes to the save area with its matrix unit; its allocation is kept (R186). The unit stays behind with its MPROG,
STOPPED where an operation ran (R193). -/
def State.saveComp (s : State) (u : PreUnit) (c : Ctx) : State :=
  let m := { s.matrix c.cluster with held := false }
  let x : SavedUnit := { node := u.node, groups := [], ctxs := [{ ctx := c.rested, rows := [], bad := [] }],
                         cluster := c.cluster, matrix := some m, growth := false }
  let s := ((s.dropFaults fun y => y.uid == c.uid).saveRecords [c] true).clearLatch (c.key / 8)
  let left := if m.mprog.toNat % 4 = 1 then (m.mprog &&& ~~~3#64) ||| 2#64 else m.mprog
  let s := s.setMatrix c.cluster fun _ => { Matrix.fresh with mprog := left }
  { s with
    eng := { s.eng with faults := s.eng.faults.having fun f => f.who != .matrix c.cluster },
    work := { s.work with saved := s.work.saved ++ [x], units := s.work.units.filter (·.group != u.group), ctxs := s.work.ctxs.del c.key } }

/-- The compositor's program of a node. -/
def State.compOf (s : State) (node : Nat) : Option Ctx := (s.work.ctxs.find? fun (_, c) => c.node == node && c.isComp).map (·.2)

/-- Save a unit that can be saved, once its buffers have drained (R60, R186); else it waits. -/
def State.trySave (s : State) (u : PreUnit) : State :=
  match s.compOf u.node with
  | some c =>
    if s.atRest c && !c.stopped then (match s.drainCores [c.core] with | (s, true) => s.saveComp u c | (s, false) => s) else s
  | none =>
    if s.unitReady u then
      (match s.drainCores (nubNat ((s.unitCtxs u.group).map Ctx.core)) with | (s, true) => s.saveUnit u | (s, false) => s)
    else s

/-- UNIT_SAVE (R60, R186). -/
def execUnitSave (node group : Nat) (s : State) : Host.Outcome State Fault Refusal :=
  match s.work.units.find? fun u => u.node == node && (u.group == group || (s.gangMembers u.group).contains group) with
  | none => .next s
  | some u => .next (s.trySave u)

/-! Resuming (R60, R62, R186) -/

/-- Ranges of scratch before a save and after resumption: old key, new key, bytes. -/
abbrev Moves := List (Nat × Nat × Nat)
def Moves.key (ms : Moves) (k : Nat) : Nat :=
  match ms.find? fun m => decide (m.1 ≤ k) && decide (k < m.1 + m.2.2) with
  | some m => m.2.1 + (k - m.1)
  | none => k

/-- A context as it goes on at a new place of its group's scratch (R75): SEG.S moves with the scratch and keeps the rest of what `segld`
gave it, an awaited object is the moved one, a request for growth waits afresh, and translations to scratch are made again
(notes/assumptions/70.md). -/
def Ctx.movedTo (c : Ctx) (ms : Moves) (old new now : Nat) : Ctx :=
  let path (p : Path) : Path := match p.wait with
    | .grow n d m _ => { p with wait := .grow n d m now }
    | .object k ph g d m => { p with wait := .object (ms.key k) ph g d m }
    | _ => p
  let seg := c.seg 1
  let inStore (t : Target) : Bool := t.bytes.any fun l => match l with | .store _ => true | .phys _ | .peer _ | .replicas .. | .zero => false
  let req (r : Req) : Req := if r.got.any inStore then { r with got := none } else r
  { c with segs := if c.group.isSome then setNth c.segs 1 { seg with base := seg.base - dbl old + dbl new } else c.segs,
           paths := c.paths.map path, log := c.log.map fun (n, e) => (n, { e with reqs := e.reqs.map req }) }

/-- Group `j` of a unit returns to a cluster: scratch, group, contexts. On another cluster than before it acquires first, so that it observes
its own earlier writes, those to SWC pages too (R60, R138, notes/assumptions/115.md). Its warps are placed there anew, and its age counts
from then (R61, notes/assumptions/102.md). -/
def State.resumeGroup (s : State) (u : SavedUnit) (ms : Moves) (j : Nat) (h : Nat × Nat × List (Nat × Nat)) : State :=
  match u.groups[j]? with
  | some (k, old) =>
    let (cluster, base, binds) := h
    let s := ((s.acquireCluster cluster (if cluster = old.cluster then 3 else 4)).zeroStore cluster base (old.kib * 1024)).moveStore (storeKey (saveCluster k) 0) (storeKey cluster base)
      (old.kib * 1024)
    let s := s.changeGroup k fun g => { g with cluster := cluster, base := base, saved := false, age := s.fCyc }
    let move (c : Ctx) : Ctx := c.movedTo ms old.base base s.fCyc
    let leaf (x : SavedCtx) : SavedCtx := if x.ctx.group = some k then { x with ctx := { move x.ctx with cluster := cluster } } else x
    let s := s.setWork { s.work with leafSaved := s.work.leafSaved.map leaf }
    let xs := u.ctxs.filter fun x => u.groupOf x.ctx == j
    (xs.zip binds).foldl (fun s (x, l, b) => s.loadSaved { x with ctx := move x.ctx } cluster l b) s
  | none => s

/-- UNIT_RESUME (R60, R62, R186): a saved unit is loaded where it fits, unless a kill has struck it; a compositor's program, on its own
compositor when idle. -/
def execUnitResume (index : Nat) (s : State) : Host.Outcome State Fault Refusal :=
  match s.work.saved[index]? with
  | none => .next s
  | some u =>
    let gone : State := { s with work := { s.work with saved := s.work.saved.eraseIdx index } }
    match u.matrix, u.ctxs with
    | some m, x :: _ =>
      if s.clusterDropped u.cluster || (s.ctx? (ctxKey u.cluster 512 0)).isSome then .next s
      else .next (((gone.putCtx x.ctx).setMatrix u.cluster fun _ => m).clearLatch (laneKey u.cluster 512))
    | _, _ =>
      match (if u.ctxs.any (·.ctx.stopped) then none else s.findHome u) with
      | none => .next s
      | some hs =>
        let ms : Moves := (u.groups.zip hs).map fun (g, h) => (storeKey g.2.cluster g.2.base, storeKey h.1 h.2.1, g.2.kib * 1024)
        .next ((hs.zipIdx.foldl (fun s (h, j) => s.resumeGroup u ms j h)) gone)

/-! The break of register growth (R62) -/

/-- A path is held at a word on SEG.F: its FIFO bank has no room, or not the words it asks for (R81). -/
def State.fifoHeld (s : State) (c : Ctx) (p : Path) : Bool :=
  match (s.lane (c.key / 8)).clause, s.nextWord c.cluster c.lane with
  | some cl, .word i =>
    cl.bind == c.bind && cl.path == p.id && i.memSeg == 5 && match { s with issuer := some (c.cluster, c.lane) }.issuing i, memFn i with
      | some u, some act => match (memBody i (match i with | .ld w | .st w => w.offset | _ => 0) act s u ((u.active i).getD 0#32)).2 with
        | .hold => true
        | .on .. | .logged _ | .trap .. | .goto .. | .left => false
      | _, _ => false
  | _, _ => false

/-- Every path of a context waits in `rgrow` or on a barrier; `sqwait` and a wait at a FIFO bank count as a barrier (R62, R81, R366). -/
def State.growthStuck (s : State) (c : Ctx) : Bool :=
  !c.paths.isEmpty && c.paths.all fun p => match p.wait with
    | .grow .. => true
    | .groupBar _ | .gangBar _ | .named _ _ | .object .. | .chain .. => !s.waitOver c p
    | .none => s.fifoHeld c p
    | .matrix _ | .halting | .joining | .fetching _ | .saving => false

/-- Older of two groups (R61). -/
def Group.older (a b : Group) : Bool := decide (a.age < b.age ∨ (a.age = b.age ∧ a.number < b.number))
/-- The oldest, or the youngest, of groups by key. -/
def pickGroup (before : Group → Group → Bool) (l : List (Nat × Group)) : Option (Nat × Group) :=
  l.foldl (fun best x => match best with | none => some x | some y => if before x.2 y.2 then some x else some y) none

/-- GROWTH_DEADLOCK (R62): the youngest group with a waiting request is saved by force; when it is also the oldest requester, the
youngest other group with rows in the blocked bank. A context without a live slot is an exit in progress, and one that a kill has stopped
frees its rows too: the test then waits, as it does for a unit whose save has begun; a chosen group under pre-emption is waited for
(State.preempt leaves it). -/
def execGrowthDeadlock (cluster : Nat) (s : State) : Host.Outcome State Fault Refusal :=
  let here := (s.work.ctxs.map (·.2)).filter fun c => c.cluster == cluster && !c.isComp
  let cs := here.filter fun c => c.live != 0#32 && !c.stopped
  let asks (c : Ctx) : Bool := c.paths.any fun p => match p.wait with | .grow .. => true | _ => false
  let groupsOf (l : List Ctx) : List (Nat × Group) :=
    (nubNat (l.filterMap (·.group))).filterMap fun k => (s.work.groups.look k).map (k, ·)
  let reqs := groupsOf (cs.filter asks)
  let busy := s.work.units.any fun u => (u.forced || s.unitSaid u) &&
    (s.gangMembers u.group).any fun k => ((s.work.groups.look k).map (·.cluster)) == some cluster
  if reqs.isEmpty || busy || cs.length < here.length || !cs.all s.growthStuck then .next s
  else
    match pickGroup (fun a b => b.older a) reqs, pickGroup Group.older reqs with
    | some (y, gy), some (o, _) =>
      if y ≠ o then .next (s.preempt gy.node y true)
      else
        let lanes := (cs.filter fun c => asks c && c.group == some o).map (·.lane)
        let others := groupsOf (cs.filter fun c => lanes.contains c.lane && c.group != some o)
        match pickGroup (fun a b => b.older a) others with
        | some (k, g) => .next (s.preempt g.node k true)
        | none => .next s
    | _, _ => .next s

end Sys2Proof.Machine
end

