-- ==== Sys2Proof/Machine/Work.lean ====
section
/-! DEFINITION. The ready pool, the dispatch of nodes to their executors, and their completion (R42, R46-R51, R54, R58, R64, R65, R86, R132,
R152, R185, R186, R199, R210, R211, R226, R232, R311, R396). -/

namespace Sys2Proof.Machine

/-! The pool (R49, R50) -/

/-- READY_AGING (R49): ready and undispatched for 2^21 f-cycles, a node rises one level, not above 1. -/
def execReadyAging (node : Nat) (s : State) : Host.Outcome State Fault Refusal :=
  match s.node? node with
  | some n =>
    if n.state = .ready ∧ 1 < n.prio ∧ n.readyAt + 2 ^ 21 ≤ s.fCyc then
      .next (s.changeNode node fun n => { n with prio := n.prio - 1, readyAt := n.readyAt + 2 ^ 21 })
    else .next s
  | none => .next s

/-- Ready nodes of a class, by priority and then accept order. -/
def insertNode (x : Nat × Node) : List (Nat × Node) → List (Nat × Node)
  | [] => [x]
  | y :: r => if x.2.prio < y.2.prio ∨ (x.2.prio = y.2.prio ∧ x.2.accept < y.2.accept) then x :: y :: r else y :: insertNode x r
def State.pool (s : State) (kind : NodeKind) : List (Nat × Node) :=
  (s.work.nodes.filter fun (_, n) => n.kind == kind && n.state == .ready).foldl (fun l x => insertNode x l) []

/-- Clusters that a node may take now: permitted, and not kept by a node of higher priority that has been passed over too long. -/
def State.openTo (s : State) (n : Node) : List Nat :=
  let kept (c : Nat) : Bool := s.work.nodes.any fun (_, b) => b.blocking && b.kind == n.kind && b.state == .ready && decide (b.prio < n.prio) && s.permits b c
  (List.range 128).filter fun c => s.permits n c && !kept c

/-- Every cluster that PLACE permits has been dropped. -/
def State.placeless (s : State) (n : Node) : Bool := !(List.range 128).any (s.permits n)
/-- The lowest cluster that PLACE names. -/
def Node.firstPlace (n : Node) : Nat := ((List.range 128).find? fun c => n.place == 0#128 || n.place.getLsbD c).getD 0


/-- A node starts: it runs, its successors' order is kept by an acquire on the clusters it may use (R51), and the dispatch is recorded. -/
def State.started (s : State) (k : Nat) (n : Node) (recorder : Option Nat) : State :=
  let s := s.changeNode k fun n => { n with state := .running, blocking := false, passedAt := none, recv := recorder }
  let s := s.dropSectors fun l _ x => x.swc && s.permits n l.cluster
  match recorder with
  | none => s
  | some r => ((s.send (hubRecorder 0) n.tenant 2 k .dispatch (dispatchKey k)).recv r n.tenant 2 k .dispatch (dispatchKey k)).forget (dispatchKey k)

/-- A trunk over a box at a free binding of a cluster. -/
def State.placeTrunk (s : State) (k : Nat) (n : Node) (box : Box) (cluster lane bind : Nat) : State :=
  let (map, s) := s.takeGranules cluster lane n.regs
  let (uid, s) := s.fresh
  let c := Ctx.fresh uid .trunk k n cluster lane bind box map n.entry
  s.putCtx { c with segs := s.segsFor n none }

/-- A KERNEL node: the open cluster with the most free bindings, its lowest lane with one. -/
def State.startKernel (s : State) (k : Nat) (n : Node) : Option State :=
  if s.growthFirst then none
  else
    match bestOf (s.freeCount · n.regs) (s.openTo n) with
    | none => none
    | some cluster => match s.freeBinding cluster n.regs with
      | none => none
      | some (lane, bind) => some ((s.started k n (some (coreOf cluster lane))).placeTrunk k n n.whole cluster lane bind)

/-- SCRATCH of a compositor record, in KiB. -/
def Node.compKib (n : Node) : Nat := n.dbl 2 / 2 ^ 32

/-- A COMP node: the lowest open cluster whose compositor is idle and whose banks take its scratch (R185). -/
def State.startComp (s : State) (k : Nat) (n : Node) : Option State :=
  let idle (c : Nat) : Bool := (s.ctx? (ctxKey c 512 0)).isNone
  match (s.openTo n).find? fun c => idle c && (s.findScratch c n.compKib (s.allocs c)).isSome with
  | none => none
  | some cluster =>
    let base := (s.findScratch cluster n.compKib (s.allocs cluster)).getD 0
    let s := (s.started k n (some (coreOf cluster 512))).zeroStore cluster base (n.compKib * 1024)
    let (gk, s) := s.fresh
    let (uid, s) := s.fresh
    let g := { Group.fresh k 0 { lo := quadOf fun _ => 0, hi := quadOf fun _ => 0 } cluster base n.compKib 0 s.fCyc with gang := none }
    let c := Ctx.fresh uid .comp k n cluster 512 0 { lo := quadOf fun _ => 0, hi := quadOf fun _ => 0 } [] n.entry
    let c := { c with segs := compSegs (n.dbl 1) (n.dbl 2 % 2 ^ 32), x := [(0, dbl base), (1, dbl (n.dbl 1))] }
    some ((s.setWork { s.work with groups := s.work.groups.put gk g }).putCtx c)

/-- A COPY node: the open channel with the most free entries (R65). -/
def State.startCopy (s : State) (k : Nat) (n : Node) : Option State :=
  let room (x : Nat) : Nat := 16 - (s.chan (x / 4) (x % 4)).queue.length
  match bestOf room (((s.openTo n).flatMap fun c => (List.range 4).map (4 * c + ·)).filter fun x => decide (0 < room x)) with
  | none => none
  | some x =>
    let r := hubRecorder (hubOf (x / 4))
    let op : CopyOp :=
      { src := .va (n.dbl 0 : Nat), dst := .va (n.dbl 1 : Nat), sstride := (nth n.payload 2 0#64).toInt, dstride := (nth n.payload 3 0#64).toInt,
        rowb := n.dbl 4 % 2 ^ 32, rows := n.dbl 4 / 2 ^ 32, wp := 0, started := false, record := none, obj := none, issued := s.serial, node := k, group := none,
        owner := 0, tenant := n.tenant, priv := n.priv, recorder := r, held := false }
    some ((s.started k n (some r)).setChan (x / 4) (x % 4) fun c => { c with queue := c.queue ++ [op] })

/-- A GATHER node: the open gather engine with the most free entries. -/
def State.startGather (s : State) (k : Nat) (n : Node) : Option State :=
  let room (c : Nat) : Nat := 16 - (s.gathers c).length
  match bestOf room ((s.openTo n).filter fun c => decide (0 < room c)) with
  | none => none
  | some c =>
    let r := hubRecorder (hubOf c)
    let op : GatherOp :=
      { psel := false, words := n.payload, va := n.payloadVa, units := [], phase := 0, chosen := [], obj := none, failed := none,
        linkLost := false, node := k, isNode := true, group := none, owner := 0, tenant := n.tenant, priv := n.priv, recorder := r, held := false }
    some ((s.started k n (some r)).setGathers c (s.gathers c ++ [op]))

/-- A COLL node: the engine of the hub that homes SRC (R232). -/
def State.startColl (s : State) (k : Nat) (n : Node) : Option State :=
  let h := match s.walk n.tenant (n.dbl 0) with
    | .leaf e _ level => (s.homeHub (pteFrame e * 65536 + n.dbl 0 % 2 ^ levelBits level)).getD 0
    | _ => 0
  let op : CollOp := { node := k, words := n.payload, tenant := n.tenant, priv := n.priv, held := false }
  some ((s.started k n (some (hubRecorder h))).setColls h (s.colls h ++ [op]))

/-- A SIGNAL node (R226): an acquire at system scope, one posted write to host memory, and the interrupt of the chain's function. -/
def State.startSignal (s : State) (k : Nat) (n : Node) : Option State :=
  let s := s.started k n none
  let s := { s with mem := { s.mem with host := s.mem.host.pokeNum (n.dbl 0) 8 (n.dbl 1) } }
  let s := if n.dbl 2 / 2 ^ 11 % 2 = 1 then s.msi (if n.priv then 0 else n.tenant + 1) (n.dbl 2 % 2 ^ 11) else s
  some (s.changeNode k fun n => { n with state := .finished })

def State.startNode (s : State) (k : Nat) (n : Node) : Option State :=
  match n.kind with
  | .kernel => s.startKernel k n
  | .comp => s.startComp k n
  | .copy => s.startCopy k n
  | .gather => s.startGather k n
  | .coll => s.startColl k n
  | .signal => s.startSignal k n
  | .nop => none

/-- Offer the nodes of a class in their order; the first that an executor takes is started. Those before it are passed over. -/
def State.dispatchFirst (s : State) : List (Nat × Node) → State
  | [] => s
  | (k, n) :: r =>
    let placed := match n.kind with | .kernel | .comp | .copy | .gather => true | .coll | .signal | .nop => false
    if placed && s.placeless n then
      s.changeNode k fun n => { n with state := .finished, code := 0x06#8, detail := BitVec.ofNat 48 (uceDetail 1 n.firstPlace 0) }
    else match s.startNode k n with
      | some s => s
      | none => (s.changeNode k fun n => { n with passedAt := some (n.passedAt.getD s.fCyc) }).dispatchFirst r

/-- NODE_DISPATCH (R49, R50): the executors of a class take a node. -/
def execNodeDispatch (kind : NodeKind) (s : State) : Host.Outcome State Fault Refusal := .next (s.dispatchFirst (s.pool kind))

/-- KERNEL_PASSED_OVER (R50, R58, R186): a node passed over for 2^21 f-cycles keeps its clusters from lower priorities, and the youngest
group of lower priority there, or the program of a compositor it may take, is pre-empted. While the node still waits after that save, the
next one is. -/
def execKernelPassedOver (node : Nat) (s : State) : Host.Outcome State Fault Refusal :=
  match s.node? node with
  | none => .next s
  | some n =>
    let due := match n.passedAt with | some t => decide (t + 2 ^ 21 ≤ s.fCyc) | none => false
    if n.state ≠ .ready ∨ !due then .next s
    else
      let s := s.changeNode node fun n => { n with blocking := true }
      let lower (k : Nat) : Bool := match s.node? k with | some m => m.kind == n.kind && decide (n.prio < m.prio) | none => false
      match n.kind with
      | .kernel =>
        let holds (k : Nat) : Bool := s.work.ctxs.any fun (_, c) => c.group == some k
        let gs := s.work.groups.filter fun (k, g) => lower g.node && !g.freed && !g.saved && holds k && s.permits n g.cluster
        let under := s.work.units.any fun u => lower u.node && (s.gangMembers u.group).any fun k => gs.any (·.1 == k)
        if under then .next s else match pickGroup (fun a b => b.older a) gs with
        | some (k, g) => .next (s.preempt g.node k false)
        | none => .next s
      | .comp =>
        let under := s.work.units.any fun u => lower u.node
        let on (c : Nat) : Option Nat := match s.ctx? (ctxKey c 512 0) with
          | some x => if lower x.node then some x.node else none
          | none => none
        if under then .next s else match ((List.range 128).filter (s.permits n)).findSome? on with
        | some k => match s.work.groups.find? fun (_, g) => g.node == k with
          | some (gk, _) => .next (s.preempt k gk false)
          | none => .next s
        | none => .next s
      | .copy | .gather | .coll | .signal | .nop => .next s

/-! Completion (R46, R54) -/

/-- Contexts of a node anywhere. -/
def State.nodeBusy (s : State) (k : Nat) : Bool :=
  s.holders.any (fun c => c.node == k && !(c.isComp && c.stopped)) || s.work.trackers.any fun t => t.node == k

/-- Engine operations of a node. -/
def State.nodeOps (s : State) (k : Nat) : Bool :=
  (s.eng.chans.any fun (_, c) => c.queue.any fun q => q.node == k) || (s.eng.gathers.any fun (_, l) => l.any fun q => q.node == k)
    || s.eng.colls.any fun (_, l) => l.any fun q => q.node == k

/-- A compositor's program waits in `halt` with an empty matrix queue. -/
def State.compDone (s : State) (k : Nat) : Bool :=
  s.work.ctxs.all fun (_, c) => c.node != k || (c.isComp && (c.stopped ||
    ((c.paths.all fun p => p.wait == .halting) && (s.matrix c.cluster).queue.isEmpty)))

/-- All that a node does is done: nothing of it remains, or it has failed and its operations end at their objects. A kill that is to be
made comes first (R208). -/
def State.nodeDone (s : State) (k : Nat) (n : Node) : Bool :=
  match n.state with
  | .finished => true
  | .waiting | .ready => false
  | .running => !(s.rel.kills.any (·.node == k)) && match n.kind with
    | .kernel => !s.nodeBusy k && (n.code != 0#8 || !s.nodeOps k)
    | .comp => s.compDone k && !(s.work.saved.any fun u => u.node == k)
    | .copy | .gather | .coll => !s.nodeOps k
    | .signal | .nop => true

/-- Operations of engines that satisfy a test leave their queues, and the faults that held them are gone. -/
def State.dropOps (s : State) (copy : Nat → CopyOp → Bool) (gather : Nat → GatherOp → Bool) (coll : CollOp → Bool) : State :=
  let heads (f : PFault) : Bool := match f.who with
    | .chan c ch => (s.chan c ch).queue.head?.any (copy c)
    | .gather c => (s.gathers c).head?.any (gather c)
    | .coll h => (s.colls h).head?.any coll
    | .log .. | .fetch .. | .matrix _ | .record _ | .walker _ | .line .. => false
  let chan (i : Nat) (c : Chan) : Chan := { c with queue := c.queue.filter fun q => !copy (i / 4) q }
  { s with eng := { s.eng with
      faults := s.eng.faults.having fun f => !heads f,
      chans := s.eng.chans.map fun (i, c) => (i, chan i c),
      gathers := s.eng.gathers.map fun (i, l) => (i, l.filter fun q => !gather i q),
      colls := s.eng.colls.map fun (i, l) => (i, l.filter fun q => !coll q) } }

/-- An operation that does not finish ends at its object, a gather after its DMAP (R86, R200). -/
def State.endCopyOp (s : State) (cluster : Nat) (q : CopyOp) (link : Bool) : State := s.failObj q.source (s.copyObj cluster q) link
def State.endGatherOp (s : State) (cluster : Nat) (q : GatherOp) (link : Bool) : State := (s.closeMap cluster q).1.failObj q.source q.obj link

/-- Operations that satisfy a test end at their objects and leave their queues. -/
def State.finishOps (s : State) (copy : Nat → CopyOp → Bool) (gather : Nat → GatherOp → Bool) (link : Bool) : State :=
  let s := s.eng.chans.foldl (fun s (i, c) => (c.queue.filter (copy (i / 4))).foldl (fun s q => s.endCopyOp (i / 4) q link) s) s
  let heads := s.eng.gathers.filterMap fun (i, l) => match l with | q :: _ => if gather i q && q.closing.isNone then some i else none | [] => none
  let s := s.eng.gathers.foldl (fun s (i, l) =>
    let (s, l) := s.closeGathers i (gather i) link l
    s.setGathers i l) s
  let s := s.dropOps copy (fun _ _ => false) fun _ => false
  { s with eng := { s.eng with faults := s.eng.faults.having fun f => match f.who with | .gather c => !heads.contains c | _ => true } }

/-- Operations of a node still unfinished end at their objects (R86), and leave their queues. -/
def State.endOps (s : State) (k : Nat) (link : Bool) : State :=
  (s.finishOps (fun _ q => q.node == k) (fun _ q => q.node == k) link).dropOps (fun _ _ => false) (fun _ _ => false) fun q => q.node == k

/-- A gather of a node still has its DMAP to write (R200). -/
def State.closes (s : State) (k : Nat) : Bool := s.eng.gathers.any fun (_, l) => l.any fun q => q.node == k && q.closing.isSome

/-- The completion record (R46). -/
def Node.record (n : Node) : Nat := n.seq * 2 ^ 64 + n.code.toNat * 2 ^ 56 + n.relaunches % 16 * 2 ^ 52 + n.detail.toNat

/-- What writing the completion record gives. -/
inductive Recorded where
  | done
  | waits
  deriving DecidableEq, Repr

/-- The record was not written: FLOG with KIND 2 at H0's recorder. -/
def State.recordLost (s : State) (k code : Nat) (n : Node) : State :=
  s.galleyNode (hubRecorder 0) k 1 0x01#8 (dbl (code * 2 ^ 56 + (n.crec.getD 0#64).toNat % 2 ^ 56))

/-- Write the completion record, once; it waits while its page's fault is being resolved. -/
def State.writeRecord (s : State) (k : Nat) (n : Node) : State × Recorded :=
  match n.crec with
  | none => (s, .done)
  | some va =>
    if s.eng.faults.any fun (_, f) => f.who == .record k then (s, .waits)
    else if let some c := n.noRecord then (s.recordLost k c.toNat n, .done)
    else
      let q : Requester := { tenant := n.tenant, priv := n.priv, cluster := none, unit := some (.hub 0) }
      let (s, r) := s.globalTarget q .write false (va.toNat : Int) 16
      match r with
      | .ok t => (s.writeHome t (bytesOf 16 n.record) [] none none, .done)
      | .error f =>
        match s.resolver n.tenant f with
        | .transit => (s, .waits)
        | .device => (s.parkFault (.record k) n.tenant 4 f false, .waits)
        | .driver => (s.parkFault (.record k) n.tenant 4 f true, .waits)
        | .software => (s.recordLost k f.code n, .done)

/-- CSEQ of a chain passes every complete entry in sequence order (R54). -/
def State.raiseSeq (s : State) (chain : Nat) : Nat → State
  | 0 => s
  | n + 1 =>
    let q := s.chainSeq chain + 1
    if s.work.done.contains (chain, q) then
      ((s.setWork { s.work with done := s.work.done.filter (· != (chain, q)) }).setCcb chain 0x20 q).raiseSeq chain n
    else s

/-- What a node held is free: contexts of its program, groups, gangs, boxes, what its chain waits for. -/
def State.removeNode (s : State) (k : Nat) : State :=
  let comps := s.work.ctxs.filter fun (_, c) => c.node == k
  let matrix (t : Table Matrix) (c : Ctx) : Table Matrix := if c.isComp then t.change c.cluster fun m => { m with queue := [], started := false, trapped := false, held := false } else t
  let s := (s.dropClauses fun c => c.node == k).dropFaults fun c => c.node == k
  let s := ((s.work.groups.filter fun (_, g) => g.node == k && g.saved).map (·.1)).foldl State.dropHome s
  { s with
    eng := { s.eng with matrices := comps.foldl (fun t c => matrix t c.2) s.eng.matrices },
    work := { s.work with
      nodes := s.work.nodes.del k, ctxs := s.work.ctxs.having fun c => c.node != k, groups := s.work.groups.having fun g => g.node != k,
      gangs := s.work.gangs.having fun g => g.node != k, placed := s.work.placed.filter fun p => p.node != k,
      units := s.work.units.filter fun u => u.node != k, saved := s.work.saved.filter fun u => u.node != k } }

/-- The node is counted complete: DONE, the completion message, CSEQ, its successors. -/
def State.countComplete (s : State) (k : Nat) (n : Node) : State :=
  let s := s.galleyNode (hubRecorder 0) k 2 0x08#8 (dbl (n.code.toNat * 2 ^ 56 + n.seq % 2 ^ 40))
  let s := match n.recv with
    | some r => ((s.send r n.tenant 2 k .completion (completionKey k)).recv (hubRecorder 0) n.tenant 2 k .completion (completionKey k)).forget (completionKey k)
    | none => s
  let s := s.removeNode k
  let after (m : Node) : Node :=
    if m.preds.contains n.accept then { m with preds := m.preds.filter (· != n.accept), predFailed := m.predFailed || n.code != 0#8 } else m
  let w := { s.work with nodes := s.work.nodes.map (fun (j, m) => (j, after m)), done := s.work.done ++ [(n.chain, n.seq)] }
  ((s.setWork w).raiseSeq n.chain (w.done.length)).refreshReady

/-- What completing a node has done may have failed it, or left it something to wait for. -/
def State.changedBy (s : State) (k : Nat) (before now : Node) : Bool := now.code != before.code || !s.nodeDone k now

/-- NODE_COMPLETE (R46): the record, the release at RSCOPE that covers it and every write of the node, then the node counts as complete.
A completion with UCE is the fatal event 2 (Table 11.4). -/
def execNodeComplete (node : Nat) (s : State) : Host.Outcome State Fault Refusal :=
  match s.node? node with
  | none => .next s
  | some n =>
    if !s.nodeDone node n then .next s
    else
      let first := n
      let n := match n.engineFail with
        | some (c, d) => if n.code = 0#8 then { n with code := c, detail := d } else n
        | none => n
      let s := if n.code = 0#8 then s else s.endOps node (n.code == 0x09#8)
      let s := s.drainWhere fun _ => true
      -- a drain may have been the consumption of a store to a package that is down (R231)
      if s.mem.merge.any (fun m => m.tenant == n.tenant) || s.closes node || (s.node? node).any (s.changedBy node first) then .next s
      else
      match s.writeRecord node n with
      | (s, .waits) => .next s
      | (s, .done) =>
        let s := s.countComplete node n
        .next (if n.code = 0x06#8 then s.fatal 2 (hubRecorder 0) else s)

end Sys2Proof.Machine
end

