-- ==== Sys2Proof/Machine/Kill.lean ====
section
/-! DEFINITION. Kills and relaunch of gangs, the drop of a compute die, and the planned drop of a hub (R63, R105, R115, R139, R155, R157,
R186, R207-R213). -/

namespace Sys2Proof.Machine

/-! Discarding (R42, R208) -/

/-- Bytes that these contexts stored and no hub has accepted are discarded; bytes of others in the same line stay (R63, R137). -/
def State.dropStores (s : State) (uids : List Nat) : State :=
  let left (m : MergeLine) : MergeLine := { m with stores := m.stores.filter fun b => !uids.contains b.owner }
  { s with mem := { s.mem with merge := (s.mem.merge.map left).filter fun m => !m.stores.isEmpty } }

/-- A path of a compositor whose object goes with its scratch wakes (R276): the object takes FAIL and flips if it has not (R86;
notes/assumptions/101.md). -/
def State.wakeFailed (s : State) (k id key : Nat) (phase : Bool) : State :=
  match s.ctx? k with
  | none => s
  | some c => (if s.objPhase key == phase then s.flipObj c.source key 1 else s).finishWait k id

/-- A saved program's path wakes so: it finds what it waited for in its register. -/
def Ctx.wokenBy (c : Ctx) (err : Nat → Option Nat) : Ctx :=
  c.paths.foldl (fun c p => match p.wait with
    | .object key _ _ d _ => match err key with
      | some e => { c with x := c.x.put d.toNat (dbl e) }.changePath p.id fun p => { p with wait := .none }
      | none => c
    | _ => c) c

/-- Compositors, on their clusters or saved, that wait on objects in scratch that is freed wake with ERR.FAIL. -/
def State.wakeWaiters (s : State) (freed : Nat → Bool) : State :=
  let waits := (s.work.ctxs.filter fun (_, c) => c.isComp).flatMap fun (k, c) => c.paths.filterMap fun p => match p.wait with
    | .object key phase _ _ _ => if freed key then some (k, p.id, key, phase) else none
    | _ => none
  let s := waits.foldl (fun s (k, id, key, phase) => s.wakeFailed k id key phase) s
  let err (key : Nat) : Option Nat := if freed key then some (s.objErr key ||| 1) else none
  let unit (u : SavedUnit) : SavedUnit :=
    if u.matrix.isNone then u else { u with ctxs := u.ctxs.map fun x : SavedCtx => { x with ctx := x.ctx.wokenBy err } }
  s.setWork { s.work with saved := s.work.saved.map unit }

/-- Everything of the struck boxes of a node goes: contexts, logs, trackers, merged stores, operations, groups and scratch. -/
def State.discard (s : State) (node : Nat) (strikes : Box → Bool) : State :=
  let mine (c : Ctx) : Bool := c.node == node && strikes (s.partBox c)
  let keys := (s.work.groups.filter fun (_, g) => g.node == node && strikes g.box).map (·.1)
  let inKeys (g : Option Nat) : Bool := match g with | some k => keys.contains k | none => false
  let gone (t : Tracker) : Bool := t.node == node && inKeys t.group
  let uids := (s.holders.filter mine).map (·.uid) ++ (s.work.trackers.filter gone).map (·.owner)
  let s := s.wakeWaiters fun key => match s.scratchGroup key with | some (k, _) => keys.contains k | none => false
  let s := keys.foldl State.dropHome s
  let s := uids.foldl State.endTransit (((s.dropStores uids).dropClauses mine).dropFaults mine)
  let s := s.dropOps (fun _ q => q.node == node && inKeys q.group) (fun _ q => q.node == node && inKeys q.group && q.closing.isNone) fun _ => false
  -- an operation that has only its DMAP left to write has no object any more
  let loose (q : GatherOp) : GatherOp := if q.node == node && inKeys q.group then { q with obj := none } else q
  let s := { s with eng := { s.eng with gathers := s.eng.gathers.map fun ((i, l) : Nat × List GatherOp) => (i, l.map loose) } }
  s.setWork { s.work with
    ctxs := s.work.ctxs.having (!mine ·), limbQueue := s.work.limbQueue.filter (!mine ·), leafSaved := s.work.leafSaved.filter (!mine ·.ctx),
    trackers := s.work.trackers.filter (!gone ·), groups := s.work.groups.filter (!keys.contains ·.1),
    gangs := s.work.gangs.having fun g => !(g.node == node && strikes g.box),
    saved := s.work.saved.filter fun u => !u.groups.any fun g => keys.contains g.1,
    units := s.work.units.filter fun u => !keys.contains u.group }

/-! Kill and relaunch (R63, R208-R210) -/

/-- The KILL record (Table 11.6). -/
def State.killRecord (s : State) (node number relaunches : Nat) : State :=
  s.galleyNode (hubRecorder 0) node 2 0x07#8 (dbl (relaunches % 16 * 2 ^ 52 + number % 4))

/-- A struck box starts again from ENTRY: on the cluster of R50, or in a limb queue until a binding is free. -/
def State.restart (s : State) (node : Nat) (n : Node) (number : Nat) : State :=
  let box := n.boxAt n.killLevel number
  let clusters := (List.range 128).filter (s.permits n)
  match (bestOf (s.freeCount · n.regs) clusters).bind fun c => (s.freeBinding c n.regs).map (c, ·) with
  | some (c, lane, bind) => s.placeTrunk node n box c lane bind
  | none =>
    let (uid, s) := s.fresh
    s.queueLimb { Ctx.fresh uid .trunk node n (clusters.headD 0) 0 0 box (List.replicate n.regs 0) n.entry with segs := s.segsFor n none }

/-- R63: the struck gangs may be relaunched. -/
def State.mayRelaunch (s : State) (node : Nat) (n : Node) (nums : List Nat) : Bool :=
  let still := s.work.gangs.all fun (_, g) => g.node != node || !n.meetsAny nums g.box || g.relaunchable
  n.relaunch && decide (n.relaunches < 3) && still && !n.released.any (n.meetsAny nums)

/-- Kill gangs of a launch, in one kill; it goes on relaunched, once more, or all of it fails with UCE and its unfinished operations end at
their objects (R63, R64, notes/assumptions/65.md). -/
def State.killGangs (s : State) (node : Nat) (nums : List Nat) (detail : Nat) : State :=
  match s.node? node with
  | none => s
  | some n =>
    if s.mayRelaunch node n nums then
      let s := s.discard node (n.meetsAny nums)
      let s := nums.foldl (fun s k => s.killRecord node k n.relaunches) s
      let s := s.changeNode node fun n => { n with relaunches := n.relaunches + 1 }
      nums.foldl (fun s k => s.restart node n k) s
    else
      let all := nubNat (nums ++ (s.work.gangs.filter fun (_, g) => g.node == node).map fun (_, g) => n.boxNumber n.killLevel g.box.lo)
      let s := ((s.endOps node false).discard node fun _ => true).stopLaunch node
      let s := all.foldl (fun s k => s.killRecord node k n.relaunches) s
      s.failNode node 0x06#8 detail

/-- A COMP node fails with UCE: its program stops (R186). -/
def State.killComp (s : State) (node : Nat) (detail : Nat) : State := s.endLaunch node 0x06#8 detail

/-- GANG_KILL (R208): kill number `group` of those that wait for a node. -/
def execGangKill (node group : Nat) (s : State) : Host.Outcome State Fault Refusal :=
  match (s.rel.kills.filter fun k => k.node == node)[group]? with
  | none => .next s
  | some k =>
    let s := { s with rel := { s.rel with kills := s.rel.kills.filter (· != k) } }
    let detail := uceDetail k.cause k.cluster k.sector
    match s.node? node with
    | none => .next s
    | some n => if n.kind = .comp then .next (s.killComp node detail) else .next (s.killGangs node (s.struck node n k.box) detail)

/-! Dropping a compute die (R211) -/

/-- Contexts, groups and operations on clusters that satisfy a test: the boxes of each launch that are struck. -/
def State.struckOn (s : State) (node : Nat) (n : Node) (on : Nat → Bool) : List Nat :=
  let cs := (s.work.ctxs.map (·.2) ++ s.work.limbQueue).filter fun c => c.node == node && on c.cluster && !c.isComp
  let gs := s.work.groups.filter fun (_, g) => g.node == node && on g.cluster && !g.saved && !g.freed
  let boxes := cs.map s.partBox ++ gs.map fun (_, g) => g.box
  nubNat (boxes.flatMap (s.struck node n))

/-- Engine operations on the clusters fail: nodes of their own with UCE, and every object with ERR.FAIL. -/
def State.failOpsOn (s : State) (on : Nat → Bool) : State :=
  let s := (s.eng.chans.filter fun (i, _) => on (i / 4)).foldl (fun s (i, c) => c.queue.foldl (fun s q =>
    (s.endCopyOp (i / 4) q false).engineFails q.node q.own 0x06#8 (uceDetail 1 (i / 4) 0)) s) s
  let s := (s.eng.gathers.filter fun (c, _) => on c).foldl (fun s (c, l) => l.foldl (fun s q =>
    (s.endGatherOp c q false).engineFails q.node q.isNode 0x06#8 (uceDetail 1 c 0)) s) s
  s.dropOps (fun c _ => on c) (fun c _ => on c) fun _ => false

/-- What clusters held is lost: merge buffers, caches, stores and FIFO banks. -/
def State.loseClusters (s : State) (on : Nat → Bool) : State :=
  let at_ (k : Nat) : Bool := on (k / 2 ^ 24)
  { s with
    mem := { s.mem with
      merge := s.mem.merge.filter fun m => !on (m.core / 9), cache := s.mem.cache.filter fun l => !on l.cluster,
      store := s.mem.store.filter fun b => !at_ b.1, storePoison := s.mem.storePoison.filter fun w => !at_ w,
      tlb := s.mem.tlb.filter fun t => match t.unit with | .core n => !on (n / 9) | .walk c => !on c | .hub _ => true },
    eng := { s.eng with fifo := s.eng.fifo.filter fun f => !on (f.1 / 512), flips := s.eng.flips.filter fun f => !at_ f.1 },
    work := { s.work with lanes := s.work.lanes.filter fun l => !on (l.1 / 513), trackers := s.work.trackers.filter fun t => !on t.cluster,
                          placed := s.work.placed.filter fun p => !on p.cluster } }

/-- HUB.DROP with a bit set and GEN one higher, saturating (Table 11.2). -/
def dropWith (x : Dbl) (bit : Nat) : Dbl :=
  let gen := min 0xFFFF (x.toNat / 2 ^ 32 % 2 ^ 16 + 1)
  ((x &&& 0x00000000FFFFFFFF#64) ||| (1#64 <<< bit)) ||| dbl (gen * 2 ^ 32)

/-- Drop a die: no placement there, kills, failures, losses, HUB.DROP and its record. -/
def State.dropDie (s : State) (die : Nat) : State :=
  let on (c : Nat) : Bool := c / 16 == die
  let struck := s.work.nodes.map fun (k, n) => (k, n, s.struckOn k n on)
  let comps := (s.work.ctxs.filter fun (_, c) => c.isComp && on c.cluster).map (fun (_, c) => (c.node, c.cluster))
    ++ (s.work.saved.filter fun u => u.matrix.isSome && on u.cluster).map fun u => (u.node, u.cluster)
  let s := { s with hub := { s.hub with drop := dropWith s.hub.drop die } }
  let s := s.failOpsOn on
  let s := comps.foldl (fun s (k, c) => s.killComp k (uceDetail 1 c 0)) s
  let s := struck.foldl (fun s (k, _, nums) => if nums.isEmpty then s else s.killGangs k nums (uceDetail 1 (16 * die) 0)) s
  (s.loseClusters on).galley (hubRecorder 0) 3 0x82#8 0 3 0 (dbl (s.dropGen.toNat * 2 ^ 32 + die))

/-- DIE_DROP (R211): the last die is not dropped but a fatal event. -/
def execDieDrop (die : Nat) (s : State) : Host.Outcome State Fault Refusal :=
  if 8 ≤ die ∨ s.dieDropped die then .next s
  else if (List.range 8).all fun d => d == die || s.dieDropped d then .next (s.fatal 3 (hubRecorder 0))
  else .next (s.dropDie die)

/-! The planned drop of a hub (R213) -/

/-- Frames that stay when hub `h` goes: fast frames below 9 × 786,432, capacity frames of other hubs. -/
def State.stays (s : State) (h f : Nat) : Bool := if f < fastFrames then decide (f < 9 * 786432) else s.frameHub f != some h

/-- A page moves to the frames from `new` on: contents, grade and counts, and every entry that maps it names the new place (R139, R350). -/
def State.moveTo (s : State) (p : PageAt) (new tier : Nat) : State :=
  let maps := s.pagesAt.filter fun x => x.level == p.level && x.frame == p.frame
  let one (s : State) (i : Nat) : State :=
    (s.copyFrame (p.frame + i) (new + i)).claim (new + i) (pteGrade p.entry) (fdtRcnt (s.fdt (p.frame + i)))
  let s := (List.range p.frames).foldl one s
  let s := maps.foldl (fun s x => (s.putPte x.at_ (pteMove x.entry new (if pteTier x.entry = 0 then tier else pteTier x.entry))).tlbDropPage
    x.tenant x.va) s
  (List.range p.frames).foldl (fun s i => s.giveBack (p.frame + i)) s

/-- The coldest FAST page that may be evicted (R155). -/
def State.coldest (s : State) : Option PageAt :=
  let heat (p : PageAt) : Nat := (s.mem.hot.look p.frame).getD 0
  let can := s.pagesAt.filter fun p => p.level == 3 && pteTier p.entry == 0 && !s.keeps p.entry
  can.foldl (fun best p => match best with
    | none => some p
    | some g => if heat p < heat g ∨ (heat p = heat g ∧ p.frame < g.frame) then some p else some g) none

/-- The first `n` frames of a pool that stay, side by side and aligned to their number, and the rest of the pool. -/
def takeRun (stay : Nat → Bool) (n : Nat) (pool : List Nat) : Option (Nat × List Nat) :=
  let free (f : Nat) : Bool := stay f && pool.contains f
  (pool.find? fun f => f % n == 0 && (List.range n).all fun i => free (f + i)).map fun f =>
    (f, pool.filter fun x => x < f || f + n ≤ x)

/-- Move every page out of the frames that go, evicting where fast frames run short; none: they do not fit, or a pinned page goes. -/
def State.clearHub (s : State) (h : Nat) : Nat → Option State
  | 0 => none
  | fuel + 1 =>
    match s.pagesAt.find? fun p => (List.range p.frames).any fun i => !s.stays h (p.frame + i) with
    | none => some s
    | some p =>
      if ptePin p.entry then none
      else if p.frame < fastFrames then
        match takeRun (s.stays h) p.frames s.hub.fast with
        | some (x, r) => ({ s with hub := { s.hub with fast := r } }.moveTo p x 0).clearHub h fuel
        | none => match s.coldest, takeRun (s.stays h) 1 s.hub.cap with
          | some v, some (c, r) => ({ s with hub := { s.hub with cap := r } }.moveTo v c 1).clearHub h fuel
          | _, _ => none
      else match takeRun (s.stays h) p.frames s.hub.cap with
        | some (x, r) => ({ s with hub := { s.hub with cap := r } }.moveTo p x 1).clearHub h fuel
        | none => none

/-- Every page fits elsewhere. -/
def State.clearedHub (s : State) (h : Nat) : Option State := s.clearHub h (2 * s.pagesAt.length + 1)

/-- Trunks and limbs on bindings of clusters, in no unit that was saved. -/
def State.limbsOn (s : State) (on : Nat → Bool) : List Ctx :=
  (s.work.ctxs.map (·.2)).filter fun c => c.symbolic && on c.cluster && !c.stopped

/-- A trunk or limb that no placed group holds goes to a queue of another tower with the state of R35. -/
def State.moveLimbs (s : State) (on : Nat → Bool) : State :=
  let cs := s.limbsOn on
  let dest (c : Ctx) : Nat := match s.node? c.node with
    | some n => ((List.range 128).find? fun k => s.permits n k && !on k).getD c.cluster
    | none => c.cluster
  let move (c : Ctx) : Ctx := if on c.cluster then { c.rested with cluster := dest c } else c
  let s := (s.saveRecords cs true).dropFaults fun c => cs.any fun x => x.uid == c.uid
  s.setWork { s.work with ctxs := s.work.ctxs.having fun c => !cs.any fun x => x.uid == c.uid,
                          limbQueue := s.work.limbQueue.map move ++ cs.map move }

/-- A saved compositor program of a tower that goes moves, with its scratch, to the compositor of another cluster where the same store
addresses are free; none: there is no such cluster yet. -/
def State.moveComp (s : State) (on : Nat → Bool) (i : Nat) (u : SavedUnit) : Option State :=
  match s.node? u.node, s.work.groups.find? fun (_, g) => g.node == u.node with
  | some n, some (gk, g) =>
    let free (c : Nat) : Bool :=
      s.permits n c && !on c && s.findScratch c g.kib (s.allocs c ++ [(0, g.base), (g.base + g.kib * 1024, 2 ^ 24)]) == some g.base
    ((List.range 128).find? free).map fun c =>
      let s := ((s.acquireCluster c 4).zeroStore c g.base (g.kib * 1024)).moveStore (storeKey u.cluster g.base) (storeKey c g.base) (g.kib * 1024)
      let new := { u with cluster := c, ctxs := u.ctxs.map fun x : SavedCtx => { x with ctx := { x.ctx with cluster := c } } }
      s.setWork { s.work with saved := s.work.saved.set i new, groups := s.work.groups.change gk fun g => { g with cluster := c } }
  | _, _ => some s
def State.moveComps (s : State) (on : Nat → Bool) : Option State :=
  s.work.saved.zipIdx.foldl (fun r (u, i) => match r with
    | some s => if u.matrix.isNone || !on u.cluster then some s else s.moveComp on i u
    | none => none) (some s)

/-- Groups on clusters that hold their banks. -/
def State.groupsOn (s : State) (on : Nat → Bool) : List (Nat × Group) :=
  s.work.groups.filter fun (_, g) => on g.cluster && !g.saved && !g.freed && ((s.node? g.node).any (·.kind != .comp) || (s.compOf g.node).isSome)

/-- Forced saves of what runs on clusters; those that wait for a copy, a clause or a store wait. -/
def State.saveAll (s : State) (on : Nat → Bool) : State :=
  let runs (k : Nat) (g : Group) : Bool := s.work.ctxs.any fun (_, c) => s.unitHolds k c || (c.isComp && c.node == g.node)
  ((s.groupsOn on).filter fun (k, g) => runs k g).foldl (fun s (k, g) =>
    let s := s.preempt g.node k false
    let units := s.work.units.map fun u => if (s.gangMembers u.group).contains k then { u with forced := true } else u
    let s := s.setWork { s.work with units := units }
    match s.preUnit k with
    | none => s
    | some u => s.trySave u) s

/-- The buffers of clusters have drained (R138). -/
def State.drainClusters (s : State) (on : Nat → Bool) : State × Bool :=
  s.drainCores (((List.range 128).filter on).flatMap fun c => (List.range 9).map (9 * c + ·))

/-- HUB.ILV once hub `h` is gone: nine left in ascending order (Table 6.1). -/
def ilvWithout (h : Nat) : Dbl :=
  let left := (List.range 12).filter fun k => k / 3 != h
  dbl (9 * 2 ^ 48 + leNat ((List.range 6).map fun i => BitVec.ofNat 8 (nth left (2 * i) 0 + 16 * nth left (2 * i + 1) 0)))

/-- The hub goes: interleaving, directory, slices, pools, HUB.DROP and its record. -/
def State.removeHub (s : State) (h : Nat) : State :=
  let mine (line : Nat) : Bool := s.homeHub (line * 128) == some h
  let s := s.dropSectors fun l _ _ => l.view.isNone && mine l.line
  let s := { s with mem := { s.mem with
      directory := s.mem.directory.filter fun d => !mine d.1, resident := s.mem.resident.filter fun q => !mine (q / 4),
      spans := s.mem.spans.filter fun x => x.hub != h } }
  let keep := s.stays h
  let s := { s with hub := { s.hub with
      fast := s.hub.fast.filter keep, cap := s.hub.cap.filter keep, ilv := List.replicate 4 (ilvWithout h), drop := dropWith s.hub.drop (16 + h) } }
  s.galley (hubRecorder 0) 3 0x83#8 0 3 0 (dbl (s.dropGen.toNat * 2 ^ 32 + h))

/-- HUB_DROP (R213): refused when pages do not fit, and then nothing changes; it waits until every unit of its tower is saved, its buffers
have drained and its programs have a place; then the dies, the pages and the hub go. -/
def execHubDrop (hub : Nat) (s : State) : Host.Outcome State Fault Refusal :=
  let on (c : Nat) : Bool := hubOf c == hub
  let refused : State := s.galley (hubRecorder 0) 3 0x83#8 0 3 0 0#64
  if hub = 0 ∨ 4 ≤ hub ∨ s.hub.drop.toNat / 2 ^ 16 % 16 ≠ 0 then .next s
  else if (s.clearedHub hub).isNone then .next refused
  else
    let (s, drained) := (s.saveAll on).drainClusters on
    if !(s.groupsOn on).isEmpty || !(s.limbsOn on).all s.atRest || !drained then .next s
    else match (s.moveLimbs on).moveComps on with
      | none => .next s
      | some s =>
        let s := [2 * hub, 2 * hub + 1].foldl (fun s d => if s.dieDropped d then s else s.dropDie d) s
        match s.clearedHub hub with
        | some s => .next (s.removeHub hub)
        | none => .next refused

end Sys2Proof.Machine
end

