-- ==== Sys2Proof/Machine/Dispatch.lean ====
section
/-! DEFINITION. What each instruction does: one arm per constructor, one call of its meaning. -/

namespace Sys2Proof.Machine

def exec (i : Instr) (s : State) : Host.Outcome State Fault Refusal :=
  match i with
  | .and w => Sys2Proof.Machine.execAnd w s
  | .andImm w => Sys2Proof.Machine.execAndImm w s
  | .atom w => Sys2Proof.Machine.execAtom w s
  | .ballot w => Sys2Proof.Machine.execBallot w s
  | .barv w => Sys2Proof.Machine.execBarv w s
  | .binit w => Sys2Proof.Machine.execBinit w s
  | .btest w => Sys2Proof.Machine.execBtest w s
  | .bwait w => Sys2Proof.Machine.execBwait w s
  | .bexp w => Sys2Proof.Machine.execBexp w s
  | .bfe w => Sys2Proof.Machine.execBfe w s
  | .bfi w => Sys2Proof.Machine.execBfi w s
  | .brev w => Sys2Proof.Machine.execBrev w s
  | .clz w => Sys2Proof.Machine.execClz w s
  | .ctz w => Sys2Proof.Machine.execCtz w s
  | .bmode w => Sys2Proof.Machine.execBmode w s
  | .bra w => Sys2Proof.Machine.execBra w s
  | .brx w => Sys2Proof.Machine.execBrx w s
  | .call w => Sys2Proof.Machine.execCall w s
  | .exit w => Sys2Proof.Machine.execExit w s
  | .chapp w => Sys2Proof.Machine.execChapp w s
  | .chsq w => Sys2Proof.Machine.execChsq w s
  | .cinv w => Sys2Proof.Machine.execCinv w s
  | .cwb w => Sys2Proof.Machine.execCwb w s
  | .cpy w => Sys2Proof.Machine.execCpy w s
  | .cpyt w => Sys2Proof.Machine.execCpyt w s
  | .cvt w => Sys2Proof.Machine.execCvt w s
  | .dld w => Sys2Proof.Machine.execDld w s
  | .dsv w => Sys2Proof.Machine.execDsv w s
  | .fadd w => Sys2Proof.Machine.execFadd w s
  | .faddImm w => Sys2Proof.Machine.execFaddImm w s
  | .fsub w => Sys2Proof.Machine.execFsub w s
  | .fmul w => Sys2Proof.Machine.execFmul w s
  | .fmulImm w => Sys2Proof.Machine.execFmulImm w s
  | .ffma w => Sys2Proof.Machine.execFfma w s
  | .fscale w => Sys2Proof.Machine.execFscale w s
  | .fround w => Sys2Proof.Machine.execFround w s
  | .fmin w => Sys2Proof.Machine.execFmin w s
  | .fminImm w => Sys2Proof.Machine.execFminImm w s
  | .fmax w => Sys2Proof.Machine.execFmax w s
  | .fmaxImm w => Sys2Proof.Machine.execFmaxImm w s
  | .fclass w => Sys2Proof.Machine.execFclass w s
  | .fcmp w => Sys2Proof.Machine.execFcmp w s
  | .fdiv w => Sys2Proof.Machine.execFdiv w s
  | .frcp w => Sys2Proof.Machine.execFrcp w s
  | .frsq w => Sys2Proof.Machine.execFrsq w s
  | .fsqrt w => Sys2Proof.Machine.execFsqrt w s
  | .fexp2 w => Sys2Proof.Machine.execFexp2 w s
  | .flog2 w => Sys2Proof.Machine.execFlog2 w s
  | .fsin w => Sys2Proof.Machine.execFsin w s
  | .fcos w => Sys2Proof.Machine.execFcos w s
  | .ftanh w => Sys2Proof.Machine.execFtanh w s
  | .fdot2 w => Sys2Proof.Machine.execFdot2 w s
  | .fdot4 w => Sys2Proof.Machine.execFdot4 w s
  | .lgdot4 w => Sys2Proof.Machine.execLgdot4 w s
  | .fence w => Sys2Proof.Machine.execFence w s
  | .frz w => Sys2Proof.Machine.execFrz w s
  | .gang w => Sys2Proof.Machine.execGang w s
  | .gbar w => Sys2Proof.Machine.execGbar w s
  | .gath w => Sys2Proof.Machine.execGath w s
  | .hadd2 w => Sys2Proof.Machine.execHadd2 w s
  | .hmul2 w => Sys2Proof.Machine.execHmul2 w s
  | .hfma2 w => Sys2Proof.Machine.execHfma2 w s
  | .halt w => Sys2Proof.Machine.execHalt w s
  | .iadd w => Sys2Proof.Machine.execIadd w s
  | .iaddImm w => Sys2Proof.Machine.execIaddImm w s
  | .isub w => Sys2Proof.Machine.execIsub w s
  | .isubImm w => Sys2Proof.Machine.execIsubImm w s
  | .iadd3 w => Sys2Proof.Machine.execIadd3 w s
  | .imul w => Sys2Proof.Machine.execImul w s
  | .imulImm w => Sys2Proof.Machine.execImulImm w s
  | .imulhi w => Sys2Proof.Machine.execImulhi w s
  | .imad w => Sys2Proof.Machine.execImad w s
  | .imadw w => Sys2Proof.Machine.execImadw w s
  | .iabs w => Sys2Proof.Machine.execIabs w s
  | .imin w => Sys2Proof.Machine.execImin w s
  | .iminImm w => Sys2Proof.Machine.execIminImm w s
  | .imax w => Sys2Proof.Machine.execImax w s
  | .imaxImm w => Sys2Proof.Machine.execImaxImm w s
  | .idiv w => Sys2Proof.Machine.execIdiv w s
  | .irem w => Sys2Proof.Machine.execIrem w s
  | .icmp w => Sys2Proof.Machine.execIcmp w s
  | .icmpImm w => Sys2Proof.Machine.execIcmpImm w s
  | .idx w => Sys2Proof.Machine.execIdx w s
  | .isect w => Sys2Proof.Machine.execIsect w s
  | .join w => Sys2Proof.Machine.execJoin w s
  | .ld w => Sys2Proof.Machine.execLd w s
  | .ldm w => Sys2Proof.Machine.execLdm w s
  | .lea w => Sys2Proof.Machine.execLea w s
  | .lop3 w => Sys2Proof.Machine.execLop3 w s
  | .mark w => Sys2Proof.Machine.execMark w s
  | .matchEq w => Sys2Proof.Machine.execMatchEq w s
  | .mma w => Sys2Proof.Machine.execMma w s
  | .mmab w => Sys2Proof.Machine.execMmab w s
  | .mmas w => Sys2Proof.Machine.execMmas w s
  | .mzero w => Sys2Proof.Machine.execMzero w s
  | .mwait w => Sys2Proof.Machine.execMwait w s
  | .mprog w => Sys2Proof.Machine.execMprog w s
  | .mov w => Sys2Proof.Machine.execMov w s
  | .movi w => Sys2Proof.Machine.execMovi w s
  | .movhi w => Sys2Proof.Machine.execMovhi w s
  | .nbar w => Sys2Proof.Machine.execNbar w s
  | .nop w => Sys2Proof.Machine.execNop w s
  | .not w => Sys2Proof.Machine.execNot w s
  | .or w => Sys2Proof.Machine.execOr w s
  | .orImm w => Sys2Proof.Machine.execOrImm w s
  | .xor w => Sys2Proof.Machine.execXor w s
  | .xorImm w => Sys2Proof.Machine.execXorImm w s
  | .popc w => Sys2Proof.Machine.execPopc w s
  | .shl w => Sys2Proof.Machine.execShl w s
  | .shlImm w => Sys2Proof.Machine.execShlImm w s
  | .shr w => Sys2Proof.Machine.execShr w s
  | .shrImm w => Sys2Proof.Machine.execShrImm w s
  | .sar w => Sys2Proof.Machine.execSar w s
  | .sarImm w => Sys2Proof.Machine.execSarImm w s
  | .shf w => Sys2Proof.Machine.execShf w s
  | .prmt w => Sys2Proof.Machine.execPrmt w s
  | .sel w => Sys2Proof.Machine.execSel w s
  | .pack w => Sys2Proof.Machine.execPack w s
  | .unpack w => Sys2Proof.Machine.execUnpack w s
  | .pand w => Sys2Proof.Machine.execPand w s
  | .pmov w => Sys2Proof.Machine.execPmov w s
  | .pgattr w => Sys2Proof.Machine.execPgattr w s
  | .pref w => Sys2Proof.Machine.execPref w s
  | .pshare w => Sys2Proof.Machine.execPshare w s
  | .prel w => Sys2Proof.Machine.execPrel w s
  | .psel w => Sys2Proof.Machine.execPsel w s
  | .psig w => Sys2Proof.Machine.execPsig w s
  | .rdsr w => Sys2Proof.Machine.execRdsr w s
  | .rdwp w => Sys2Proof.Machine.execRdwp w s
  | .red w => Sys2Proof.Machine.execRed w s
  | .redux w => Sys2Proof.Machine.execRedux w s
  | .ret w => Sys2Proof.Machine.execRet w s
  | .rgrow w => Sys2Proof.Machine.execRgrow w s
  | .rshrink w => Sys2Proof.Machine.execRshrink w s
  | .scan w => Sys2Proof.Machine.execScan w s
  | .scat w => Sys2Proof.Machine.execScat w s
  | .segld w => Sys2Proof.Machine.execSegld w s
  | .segrd w => Sys2Proof.Machine.execSegrd w s
  | .shfl w => Sys2Proof.Machine.execShfl w s
  | .sqwait w => Sys2Proof.Machine.execSqwait w s
  | .srd w => Sys2Proof.Machine.execSrd w s
  | .srw w => Sys2Proof.Machine.execSrw w s
  | .st w => Sys2Proof.Machine.execSt w s
  | .stm w => Sys2Proof.Machine.execStm w s
  | .tail w => Sys2Proof.Machine.execTail w s
  | .tlbi w => Sys2Proof.Machine.execTlbi w s
  | .trap w => Sys2Proof.Machine.execTrap w s
  | .trapSet w => Sys2Proof.Machine.execTrapSet w s
  | .tret w => Sys2Proof.Machine.execTret w s
  | .tsub w => Sys2Proof.Machine.execTsub w s
  | .vset w => Sys2Proof.Machine.execVset w s
  | .vclr w => Sys2Proof.Machine.execVclr w s
  | .vinfo w => Sys2Proof.Machine.execVinfo w s
  | .vote w => Sys2Proof.Machine.execVote w s
  | .yield w => Sys2Proof.Machine.execYield w s
  | .pairedWord l r => Sys2Proof.Machine.execPairedWord l r s
  | .issueOpportunity cluster lane => Sys2Proof.Machine.execIssueOpportunity cluster lane s
  | .codeScan frame => Sys2Proof.Machine.execCodeScan frame s
  | .variableLatencyCommit ctx serial => Sys2Proof.Machine.execVariableLatencyCommit ctx serial s
  | .logReplay ctx entry => Sys2Proof.Machine.execLogReplay ctx entry s
  | .capresResolve fault => Sys2Proof.Machine.execCapresResolve fault s
  | .zeroFillResolve fault => Sys2Proof.Machine.execZeroFillResolve fault s
  | .cowfResolve fault => Sys2Proof.Machine.execCowfResolve fault s
  | .fqHeadWrite value => Sys2Proof.Machine.execFqHeadWrite value s
  | .mergeDrain core index => Sys2Proof.Machine.execMergeDrain core index s
  | .mergeDrainTimeout core index => Sys2Proof.Machine.execMergeDrainTimeout core index s
  | .viewLineRequest cluster tenant va => Sys2Proof.Machine.execViewLineRequest cluster tenant va s
  | .remoteViewRequest cluster tenant va => Sys2Proof.Machine.execRemoteViewRequest cluster tenant va s
  | .peerWriteAccept package pa bytes => Sys2Proof.Machine.execPeerWriteAccept package pa bytes s
  | .rdmaWrite pa bytes => Sys2Proof.Machine.execRdmaWrite pa bytes s
  | .peerLinkTimeout package => Sys2Proof.Machine.execPeerLinkTimeout package s
  | .warpRetire ctx => Sys2Proof.Machine.execWarpRetire ctx s
  | .trackerDrain cluster entry => Sys2Proof.Machine.execTrackerDrain cluster entry s
  | .levelRelease node level box => Sys2Proof.Machine.execLevelRelease node level box s
  | .limbLoad cluster => Sys2Proof.Machine.execLimbLoad cluster s
  | .joinTimeout ctx => Sys2Proof.Machine.execJoinTimeout ctx s
  | .leafReload index => Sys2Proof.Machine.execLeafReload index s
  | .copyUnitWrite cluster channel => Sys2Proof.Machine.execCopyUnitWrite cluster channel s
  | .gatherUnitWrite cluster unit => Sys2Proof.Machine.execGatherUnitWrite cluster unit s
  | .gatherDone cluster => Sys2Proof.Machine.execGatherDone cluster s
  | .pselRun cluster => Sys2Proof.Machine.execPselRun cluster s
  | .collRun hub => Sys2Proof.Machine.execCollRun hub s
  | .matrixOpStart cluster => Sys2Proof.Machine.execMatrixOpStart cluster s
  | .matrixPass cluster => Sys2Proof.Machine.execMatrixPass cluster s
  | .matrixOpComplete cluster => Sys2Proof.Machine.execMatrixOpComplete cluster s
  | .chnTail fn chain value => Sys2Proof.Machine.execChnTail fn chain value s
  | .chnStatWrite fn chain value => Sys2Proof.Machine.execChnStatWrite fn chain value s
  | .chainAccept chain => Sys2Proof.Machine.execChainAccept chain s
  | .nodeDispatch kind => Sys2Proof.Machine.execNodeDispatch kind s
  | .readyAging node => Sys2Proof.Machine.execReadyAging node s
  | .kernelPassedOver node => Sys2Proof.Machine.execKernelPassedOver node s
  | .nodeComplete node => Sys2Proof.Machine.execNodeComplete node s
  | .preemptRequest node group => Sys2Proof.Machine.execPreemptRequest node group s
  | .preemptTimeout node group => Sys2Proof.Machine.execPreemptTimeout node group s
  | .unitSave node group => Sys2Proof.Machine.execUnitSave node group s
  | .unitResume index => Sys2Proof.Machine.execUnitResume index s
  | .growthDeadlock cluster => Sys2Proof.Machine.execGrowthDeadlock cluster s
  | .rgrowGrant cluster lane => Sys2Proof.Machine.execRgrowGrant cluster lane s
  | .bankDrainDone cluster bank => Sys2Proof.Machine.execBankDrainDone cluster bank s
  | .bankFillDone cluster bank => Sys2Proof.Machine.execBankFillDone cluster bank s
  | .clsBankmodeWrite cluster bank value => Sys2Proof.Machine.execClsBankmodeWrite cluster bank value s
  | .fpoolFastAdd pa => Sys2Proof.Machine.execFpoolFastAdd pa s
  | .fpoolCapAdd pa => Sys2Proof.Machine.execFpoolCapAdd pa s
  | .pwrLimitWrite value => Sys2Proof.Machine.execPwrLimitWrite value s
  | .hotSkipClear hub value => Sys2Proof.Machine.execHotSkipClear hub value s
  | .registerWrite by_ address wide value => Sys2Proof.Machine.execRegisterWrite by_ address wide value s
  | .bar2Access place count data => Sys2Proof.Machine.execBar2Access place count data s
  | .mbxInfo fn => Sys2Proof.Machine.execMbxInfo fn s
  | .mbxRead fn arg => Sys2Proof.Machine.execMbxRead fn arg s
  | .mbxAck fn => Sys2Proof.Machine.execMbxAck fn s
  | .mbxCommandDone fn => Sys2Proof.Machine.execMbxCommandDone fn s
  | .epochEnd hub => Sys2Proof.Machine.execEpochEnd hub s
  | .gangKill node group => Sys2Proof.Machine.execGangKill node group s
  | .detect domain detector => Sys2Proof.Machine.execDetect domain detector s
  | .detectWindowEnd domain => Sys2Proof.Machine.execDetectWindowEnd domain s
  | .dieDrop die => Sys2Proof.Machine.execDieDrop die s
  | .hubDrop hub => Sys2Proof.Machine.execHubDrop hub s
  | .fatalEvent cause recorder => Sys2Proof.Machine.execFatalEvent cause recorder s
  | .freeze recorder => Sys2Proof.Machine.execFreeze recorder s
  | .proofCut => Sys2Proof.Machine.execProofCut s
  | .fullFreeze => Sys2Proof.Machine.execFullFreeze s
  | .thermalGate watts celsius => Sys2Proof.Machine.execThermalGate watts celsius s
  | .coldReset b => Sys2Proof.Machine.execColdReset b s
  | .warmReset b => Sys2Proof.Machine.execWarmReset b s
  | .temperatureBackBelow100 celsius => Sys2Proof.Machine.execTemperatureBackBelow100 celsius s
  | .peerReadRequest package pa op => Sys2Proof.Machine.execPeerReadRequest package pa op s
  | .attestation request => Sys2Proof.Machine.execAttestation request s

end Sys2Proof.Machine
end

