-- ==== Sys2Proof/Machine/Step.lean ====
section
/-! DEFINITION. One step of the package: the next move of the agenda, or the issuer's lane goes on (notes/assumptions/1.md). -/

namespace Sys2Proof.Machine

/-- A lane or compositor moves: the next word of its clause, or an issue opportunity. -/
def laneMove (s : State) (cluster lane : Nat) : Host.Outcome State Fault Refusal :=
  if s.stalled then .next s
  else
    match s.nextWord cluster lane with
    | .opportunity => exec (.issueOpportunity cluster lane) s
    | .word i => exec i { s with issuer := some (cluster, lane) }
    | .undecodable w => .refused (.notDecodable w)
    | .none => .next (s.dropClause cluster lane)

/-- With nothing on the agenda the agent that issued last goes on; when it can issue nothing, its first word in flight commits. -/
def idleMove (s : State) : Host.Outcome State Fault Refusal :=
  match s.issuer with
  | none => .next s
  | some (cluster, lane) =>
    match s.nextWord cluster lane, s.idleCommit cluster lane with
    | .opportunity, some (k, n) => exec (.variableLatencyCommit k n) s
    | _, _ => laneMove s cluster lane

/-- An event happens, where the package admits it. -/
def eventMove (s : State) (i : Instr) : Host.Outcome State Fault Refusal :=
  match i.layout with
  | .event => if s.admits i then exec i s else .next s
  | .reg _ | .imm _ | .mem _ | .pair _ _ => .next s

/-- One step. -/
def step (s : State) : Host.Outcome State Fault Refusal :=
  match s.agenda with
  | [] => idleMove s
  | .tick a f :: r => .next ({ s with agenda := r }.tick a f)
  | .lane c l :: r => laneMove { s with agenda := r } c l
  | .event i :: r => eventMove { s with agenda := r } i
  | .error store at_ kind :: r => .next ({ s with agenda := r }.checked store at_ kind)
  | .hubLoss hub recorder :: r => .next ({ s with agenda := r }.lossOfHub hub recorder)

/-- A state whose next step issues the table's word (notes/assumptions/1.md). -/
def State.withFetchWord (s : State) (nbits w : Nat) : State :=
  let (h, x) := tableClause (w % 2 ^ (max nbits 64))
  match h.klass with
  | some k => s.placeWord (packHeader h) x k
  | none => s.placeWord (packHeader h) x .vector

end Sys2Proof.Machine
end

