-- ==== Sys2Proof/Safety.lean ====
section
/-! DEFINITION. What counts as a safe run: every memory keeps its canonical form, and no step ends in a fault or a refusal. -/

namespace Sys2Proof.Safety

open Sys2Proof.Machine

/-- The memories of a state are in their canonical form. -/
def memoriesOk (s : State) : Bool := s.mem.phys.wf && s.mem.store.wf && s.mem.host.wf && s.mem.peer.wf

/-- A run of `n` steps from `s` that only answers next states. -/
def runsFor (n : Nat) (s : State) : Prop := ∃ s', Sys2Proof.core.run n s = .next s'

/-- No run from `s` stops. -/
def safeFrom (s : State) : Prop := ∀ n, runsFor n s

/-- Word `i` passes the checks that every word passes when it issues (R72, R239, R240, R255, R257): `u` is its issuer, a context that
runs, may run it and holds the registers it names; its scoreboard has room, and a word that ends its clause finds the path's clause
counter at zero. No register row is poisoned (R207). -/
structure Issues (s : State) (i : Instr) (u : Issuer) : Prop where
  issuer : s.issuing i = some u
  runs : u.ctx.stopped = false
  may : (i.rules.priv && !u.ctx.priv && u.cls == .vector) = false
  inRange : u.ridx i = false
  room : (i.rules.var && decide (i.sbField < 6) && decide (15 ≤ nth u.ctx.sb i.sbField 0)) = false
  settled : (i.rules.ends && u.path.ctr != 0) = false
  clean : s.mem.storePoison = []

/-- Active(w) of a word that issues. -/
def activeOf (u : Issuer) (i : Instr) : Word := (u.active i).getD 0#32

/-- A word with operands in memory acts on them: it issues in a context whose rows hold values, `reqs` are the operands of the slots at
which it acts (R240), the operand log has a free entry and no entry that is being resolved covers a region it names (R150). -/
structure Acts (s : State) (i : Instr) (u : Issuer) (off : Int) (reqs : List Req) : Prop where
  issues : Issues s i u
  rows : u.symbolic = false
  some_ : u.actSlots i (activeOf u i) ≠ []
  captured : reqs = s.capture u i (u.actSlots i (activeOf u i)) off
  entry : (u.ctx.log.freeBelow 8).isSome = true
  region : u.ctx.regionBusy i reqs = false

/-- The state after a word whose effects before its end are those of `s`, and which is done with these register writes and flags. -/
def doneWith (s : State) (u : Issuer) (i : Instr) (ws : List RegWrite) (flags : Word) : State := s.settle u i (.on ws flags none)

/-- The state after a word that ends its clause with the path going on at `pc`, once what it waits for is there. -/
def goesTo (s : State) (u : Issuer) (i : Instr) (pc : Dbl) (wait : Wait) (ws : List RegWrite) : State := s.settle u i (.goto pc wait ws)

end Sys2Proof.Safety
end

