-- ==== Sys2Proof/Certificates/Slice0/Obligations.lean ====
section
/-! DEFINITION. The statements about the machine; those with several parts are conjunctions of claims. -/

open Sys2Proof Sys2Proof.Machine Sys2Proof.Safety

/-! Words and their encodings -/

/-- Decoding is the inverse of encoding (Tables 13.2, 13.4, 13.5, 13.8, 13.10): every word that is well formed in a CLASS has an
encoding, and the decoder reads from it that word with every field; a paired word is read under its PAIRMAP bit. -/
def Obligations.EncodeDecodeAgree : Prop :=
  ∀ (k : Cls) (i : Instr), i.layout ≠ .event → i.wf k = true →
    ∃ x, encode i = some x ∧ decode k (i.layout matches .pair _ _) x = .ok i

/-- What the decoder accepts encodes to the same 64 bits: no two words decode to one instruction (R242, R253). -/
def Claims.DecodeEncodeAgree : Prop :=
  ∀ (k : Cls) (paired : Bool) (x : Dbl) (i : Instr), decode k paired x = .ok i → encode i = some x ∧ i.wf k = true

/-- A clause header is read back with every field (Table 13.1). -/
def Claims.HeaderReadsBack : Prop := ∀ h : Header, parseHeader (packHeader h) = some h

/-- Words written out from the encodings of chapters 13-16 decode to the instructions they stand for: `iadd.s32 v10, v2, v4` (R312),
`yield` (R382), `st.b128 [g:v4+0], v8` (R371), `mark 0x21` (R329), and `mwait 0`, which a CLASS 1 clause accepts and a CLASS 0 clause does
not (R254, R335); 0xE0 is no opcode (R253). -/
def Obligations.WrittenWordsDecode : Prop :=
  decode .vector false 0x040A02040001DC08#64
      = .ok (.iadd { d := 10#8, a := 2#8, b := 4#8, c := 0#8, mod := 0#7, gp := 7#3, gn := 0#1, sb := 7#3, lu := 0#3, ru := 0#3, fmt := 8#4 }) ∧
  decode .vector false 0x8700_0000_0001_DC00#64
      = .ok (.yield { d := 0#8, a := 0#8, b := 0#8, c := 0#8, mod := 0#7, gp := 7#3, gn := 0#1, sb := 7#3, lu := 0#3, ru := 0#3, fmt := 0#4 }) ∧
  decode .vector false 0x6108_0400_0069_DC09#64
      = .ok (.st { d := 8#8, a := 4#8, seg := 0#3, off := 0#14, mfmt := 13#4, ord := 0#2, gp := 7#3, gn := 0#1, sb := 7#3, lua := 0#1,
                   lud := 0#1, oen := 0#1, osc := 0#3, fmt := 9#4 }) ∧
  decode .vector false 0x8A00_0000_0001_DC21#64
      = .ok (.mark { d := 0#8, a := 0#8, imm := 0x21#32, gp := 7#3, gn := 0#1, sb := 7#3, lua := 0#1 }) ∧
  decode .vector false 0xA500_0000_0001_DC00#64 = .error (.bad .cls) ∧
  decode .compositor false 0xA500_0000_0001_DC00#64
      = .ok (.mwait { d := 0#8, a := 0#8, b := 0#8, c := 0#8, mod := 0#7, gp := 7#3, gn := 0#1, sb := 7#3, lu := 0#3, ru := 0#3, fmt := 0#4 }) ∧
  decode .vector false 0xE000_0000_0001_DC00#64 = .error (.unassigned 0xE0#8)

/-! Steps -/

/-- A step at a lane whose clause in progress has a next word runs the instruction which that word decodes to, in the CLASS of the
context and under its PAIRMAP bit, with the lane as the issuer (R237, R238, R239): from the agenda, and with the agenda empty when the
lane issued last. -/
def Obligations.StepRunsDecodedWord : Prop :=
  ∀ (s : State) (cluster lane : Nat) (r : List Move) (cl : Clause) (c : Ctx) (h : Header) (x : Dbl) (i : Instr),
    s.stalled = false → (s.lane (laneKey cluster lane)).clause = some cl → s.ctx? (ctxKey cluster lane cl.bind) = some c →
    parseHeader cl.header = some h → cl.words[cl.pos - 1]? = some x → decode c.cls (h.paired cl.pos) x = .ok i →
    (s.agenda = .lane cluster lane :: r → step s = exec i { s with agenda := r, issuer := some (cluster, lane) }) ∧
    (s.agenda = [] → s.issuer = some (cluster, lane) → step s = exec i s)

/-- A step with an event at the head of the agenda runs the event, where the package admits it (R216, R221); else nothing changes but the
agenda. A step with cycles at its head lets them pass (R15), and none in full freeze (R221). A step with an error that a check finds
changes no byte of memory or store and takes no poison away; an error that the code corrects poisons nothing and is counted, any other
poisons its store word or its sector (R161, R207); none is found in full freeze (R221). A step with the loss of a hub raises a fatal
event of CAUSE 4 at the recorder that sees it, and halts the package (R19, R216, Table 11.4). (How an error arises, and which recorder sees
the loss of a hub, is the model's own: notes/assumptions/84.md, notes/assumptions/114.md.) -/
def Obligations.StepRunsEvents : Prop :=
  (∀ (s : State) (i : Instr) (r : List Move), s.agenda = .event i :: r → i.layout = .event →
    step s = if ({ s with agenda := r }).admits i then exec i { s with agenda := r } else .next { s with agenda := r }) ∧
  (∀ (s : State) (a f : Nat) (r : List Move), s.agenda = .tick a f :: r →
    ∃ t, step s = .next t ∧ t.mem = s.mem ∧ t.work = s.work ∧ t.agenda = r ∧
      (s.rel.fullFreeze = false → t.aCyc = s.aCyc + a ∧ t.fCyc = s.fCyc + f) ∧ (s.rel.fullFreeze = true → t.aCyc = s.aCyc ∧ t.fCyc = s.fCyc)) ∧
  (∀ (s : State) (store : Bool) (at_ kind : Nat) (r : List Move), s.agenda = .error store at_ kind :: r →
    ∃ t, step s = .next t ∧ t.agenda = r ∧ t.work = s.work ∧ t.hub = s.hub ∧ t.mem.phys = s.mem.phys ∧ t.mem.store = s.mem.store ∧
      (∀ q ∈ s.mem.poison, q ∈ t.mem.poison) ∧ (∀ k ∈ s.mem.storePoison, k ∈ t.mem.storePoison) ∧
      (s.rel.fullFreeze = true → t = { s with agenda := r }) ∧
      (s.rel.fullFreeze = false → store = true → kind = 0 → t.mem = s.mem ∧ ∃ n, t.rel.corrected.look n
        = some ((s.rel.corrected.look n).getD 0 + 1)) ∧
      (s.rel.fullFreeze = false → store = true → kind ≠ 0 → at_ % 2 ^ 31 / 4 * 4 ∈ t.mem.storePoison) ∧
      (s.rel.fullFreeze = false → store = false → 2 ≤ kind → (s.homeHub (at_ * 32)).isSome = true → at_ ∈ t.mem.poison)) ∧
  (∀ (s : State) (hub recorder : Nat) (r : List Move), s.agenda = .hubLoss hub recorder :: r →
    ∃ t, step s = .next t ∧ t.agenda = r ∧ t.mem = s.mem ∧ t.work = s.work ∧ t.hub = s.hub ∧ t.eng = s.eng ∧ t.rel.halted = true ∧
      t.rel.pseq = s.rel.pseq + 1 ∧ t.rel.proof = s.rel.proof ∧ t.rel.h0Lost = (s.rel.h0Lost || decide (hub = 0)) ∧
      (s.proofHeld = false → ((t.rel.galleys.look recorder).getD Recorder.fresh).stopped = true))

/-- An issue opportunity of a warp puts the clause at the path's pc on the lane: its header and its words are those that the fetches
of its addresses read, in ascending order, and the first word is next (R237), or the one at which the path resumes the clause (R241); that
a word which a `tret.skip` of a trunk's trap passes over stands there as NOP is the model's reading (notes/assumptions/14.md). -/
def Claims.ClauseHoldsFetchedWords : Prop :=
  ∀ (s s1 s2 : State) (k id : Nat) (c : Ctx) (p : Path) (h : Dbl) (hdr : Header) (ws : List Dbl),
    s.ctx? k = some c → c.key = k → c.path? id = some p → c.symbolic = false → p.start ≤ ws.length →
    s.fetchHeader c.requester c.cls p.pc = (s1, .header h hdr) → s1.fetchWords c.requester hdr.n (p.pc.toNat + 8) [] = (s2, .words ws) →
    (p.skip = 0 → ((s.startClause k id).lane (k / 8)).clause
      = some { bind := c.bind, path := p.id, pc := p.pc, header := h, words := ws, pos := max 1 p.start, stage := none }) ∧
    (p.skip ≠ 0 → ((s.startClause k id).lane (k / 8)).clause
      = some { bind := c.bind, path := p.id, pc := p.pc, header := h &&& ~~~(1#64 <<< (37 + p.skip)),
               words := ws.set (p.skip - 1) nopWord, pos := max 1 p.start, stage := none })

/-- A fetched word is the little-endian double of eight bytes of physical memory at the PAs to which its address translates, every one
in a scanned frame; a fetch by a core brings their sectors to their home slices (R6, R107, R162, R237). -/
def Claims.FetchReadsMemory : Prop :=
  ∀ (s s1 : State) (q : Requester) (a : Nat) (ws : List Dbl), s.fetchWord q a = (s1, .words ws) →
    ∃ s0 t pas, (s.globalTarget q .fetch false (a : Int) 8) = (s0, .ok t) ∧
      pas = (t.bytes.filterMap fun l => match l with | .phys pa => some pa | _ => none) ∧ 8 ≤ pas.length ∧
      (∀ pa ∈ pas, s0.scanned (pa / 65536) = true) ∧ ws = [BitVec.ofNat 64 (leNat (pas.map s0.physByte))] ∧
      (∀ a, s1.physByte a = s0.physByte a) ∧ s1.work = s0.work ∧ s1.hub = s0.hub ∧ s1.eng = s0.eng ∧
      (∀ x, q.unit.isSome = true → (∀ pa ∈ pas, pa / 32 = x) → x ∈ s1.mem.resident)

/-- A word placed to be fetched next is the one that the next step runs. -/
def Obligations.PlacedWordRuns : Prop :=
  ∀ (x : Dbl) (i : Instr), parseHeader x = none → decodeTableWord 64 x.toNat = some i →
    step (State.reset.withFetchWord 64 x.toNat) = exec i (State.reset.withFetchWord 64 x.toNat)

/-! Words computed from their operands (R269, R270, R289-R298, R310-R317, R326-R328, R337, R338, R343-R347) -/

/-- The words that are computed by a function of their operands, in the register form with fields `w` and in the immediate form with
fields `v`; FDOT4, LGDOT4 and MOV without a scale or an index are further ones. -/
def Claims.computedWords (w : RegWord) (v : ImmWord) : List Instr :=
  [
    .and w, .bfe w, .bfi w, .brev w, .clz w, .ctz w, .cvt w, .fadd w, .fsub w, .fmul w, .ffma w, .fscale w, .fround w, .fmin w, .fmax w,
    .fclass w, .fcmp w, .fdiv w, .frcp w, .frsq w, .fsqrt w, .fexp2 w, .flog2 w, .fsin w, .fcos w, .ftanh w, .fdot2 w, .hadd2 w,
    .hmul2 w, .hfma2 w, .iadd w, .isub w, .iadd3 w, .imul w, .imulhi w, .imad w, .imadw w, .iabs w, .imin w, .imax w, .idiv w, .irem w,
    .icmp w, .lea w, .lop3 w, .nop w, .not w, .or w, .xor w, .popc w, .shl w, .shr w, .sar w, .shf w, .prmt w, .sel w, .pack w,
    .unpack w, .pand w] ++ [
    .andImm v, .faddImm v, .fmulImm v, .fminImm v, .fmaxImm v, .iaddImm v, .isubImm v, .imulImm v, .iminImm v, .imaxImm v, .icmpImm v,
    .movi v, .movhi v, .orImm v, .xorImm v, .shlImm v, .shrImm v, .sarImm v]

/-- In a warp, a leaf warp or a compositor program every word that is computed by a function of its operands completes: at each slot at
which it acts, D takes the function of the operands of that slot, and the flags of all slots are raised together (R27, R36, R37, R175).
Completion of AND, AND_IMM, BFE, BFI, BREV, CLZ, CTZ, CVT, FADD, FADD_IMM, FSUB, FMUL, FMUL_IMM, FFMA, FSCALE, FROUND, FMIN, FMIN_IMM,
FMAX, FMAX_IMM, FCLASS, FCMP, FDIV, FRCP, FRSQ, FSQRT, FEXP2, FLOG2, FSIN, FCOS, FTANH, FDOT2, FDOT4, LGDOT4, HADD2, HMUL2, HFMA2, IADD,
IADD_IMM, ISUB, ISUB_IMM, IADD3, IMUL, IMUL_IMM, IMULHI, IMAD, IMADW, IABS, IMIN, IMIN_IMM, IMAX, IMAX_IMM, IDIV, IREM, ICMP, ICMP_IMM,
LEA, LOP3, MOV, MOVI, MOVHI, NOP, NOT, OR, OR_IMM, XOR, XOR_IMM, POPC, SHL, SHL_IMM, SHR, SHR_IMM, SAR, SAR_IMM, SHF, PRMT, SEL, PACK,
UNPACK and PAND; `aluFn` names the function of each. -/
def Obligations.ComputedWordsComplete : Prop :=
  (∀ (s : State) (i : Instr) (u : Issuer) (f : Args → Res), aluFn i = some f → Issues s i u → u.symbolic = false →
    exec i s = .next (doneWith s u i ((u.actSlots i (activeOf u i)).flatMap fun t => u.resultAt i t (f (s.args u i t)).val)
      (((u.actSlots i (activeOf u i)).map fun t => (f (s.args u i t)).flags).foldl (· ||| ·) 0#32))) ∧
  (∀ (w : RegWord) (v : ImmWord), ∀ i ∈ Claims.computedWords w v, (aluFn i).isSome = true) ∧
  (∀ w : RegWord, (w.modAt 21 1 = 0 → (aluFn (.fdot4 w)).isSome = true ∧ (aluFn (.lgdot4 w)).isSome = true) ∧
    (w.modAt 22 2 = 0 → (aluFn (.mov w)).isSome = true))

/-- In a trunk or limb such a word keeps forms where Table 2.6 covers it, under a uniform guard; else the context materialises at its
next opportunity, its staged forms discarded (R27, R28, R32). -/
def Claims.ComputedWordsKeepForms : Prop :=
  ∀ (s : State) (i : Instr) (u : Issuer) (f : Args → Res), aluFn i = some f → Issues s i u → u.symbolic = true →
    (∀ b ws fl, u.sguard i = .uni b → (u.ctx.sym u.clause.stage).alu i f = some (ws, fl) →
      exec i s = .next (if b then doneWith s u i ws fl else doneWith s u i [] 0#32)) ∧
    (((u.ctx.sym u.clause.stage).alu i f = none ∨ ∃ k l h o, u.sguard i = .range k l h o) →
      ∃ t, exec i s = .next t ∧ (t.lane (u.key / 8)).clause = none ∧ ∀ c, t.ctx? u.key = some c → c.must = true)

/-- The words that have no meaning over forms: across slots, with operands in memory, of barriers and of special state. -/
def Claims.materialises : Instr → Bool
  | .ballot _ | .vote _ | .matchEq _ | .shfl _ | .redux _ | .scan _ | .isect _ | .bexp _ | .segld _ | .segrd _ | .rgrow _ | .rshrink _ | .rdwp _
  | .cinv _ | .cwb _ | .gang _ | .gbar _ | .nbar _ | .bwait _ | .sqwait _ | .srd _ | .srw _ | .chapp _ | .chsq _ | .tsub _
  | .cpy _ | .cpyt _ | .gath _ | .psel _ | .pgattr _ | .pshare _ | .prel _ | .tlbi _ | .st _ | .atom _ | .red _ | .scat _ | .stm _ | .binit _
  | .barv _ | .btest _ | .vset _ | .vclr _ | .vinfo _ | .call _ => true
  | _ => false

/-- In a trunk or limb such a word does nothing and ends no clause: the context is to materialise, and runs the clause again from its first
word with the staged forms discarded (R27, R32). -/
def Claims.WarpWordsMaterialise : Prop :=
  ∀ (s : State) (i : Instr) (u : Issuer), Claims.materialises i = true → Issues s i u → u.symbolic = true →
    exec i s = .next ((s.changeCtx u.key fun c => { c with must := true }).changeLane (u.key / 8) fun l => { l with clause := none })

/-- The result of a fixed-latency computed word of a warp is committed when the word ends (R36, R37, R240): register D of every active
slot reads the function's result, and nothing else that a register row, memory or device register holds has changed. The context
keeps its s registers, predicates, segments, trap state and operand log; its flags are ORed; the clause goes on or ends. -/
def Claims.ComputedRegisterReadsBack : Prop :=
  ∀ (s : State) (i : Instr) (u : Issuer) (f : Args → Res) (d : BitVec 8), s.mem.store.wf = true → aluFn i = some f → Issues s i u →
    u.ctx.symbolic = false → u.ctx.isComp = false → i.rules.var = false → i.rules.d = .dst 1 → i.codes.1 = d → d.toNat < 0xC0 →
    ∃ t, exec i s = .next t ∧
      (∀ slot, (activeOf u i).getLsbD slot = true → slot < 32 → t.readV u.ctx slot d.toNat = ((f (s.args u i slot)).val).setWidth 32) ∧
      (∀ a, (∀ slot b, (activeOf u i).getLsbD slot = true → slot < 32 → b < 4 → u.ctx.vPlace slot d.toNat ≠ some (a - b) ∨ a < b) →
        t.mem.store.byte a = s.mem.store.byte a) ∧
      t.mem.phys = s.mem.phys ∧ t.mem.host = s.mem.host ∧ t.mem.peer = s.mem.peer ∧ t.hub = s.hub ∧ t.eng = s.eng ∧ t.rel = s.rel ∧
      t.out = s.out ∧ t.work.nodes = s.work.nodes ∧ t.work.groups = s.work.groups ∧ t.work.gangs = s.work.gangs ∧
      (∀ k, k ≠ u.key → t.ctx? k = s.ctx? k) ∧
      (∃ c, t.ctx? u.key = some c ∧ c.s = u.ctx.s ∧ c.p = u.ctx.p ∧ c.segs = u.ctx.segs ∧ c.trap = u.ctx.trap ∧ c.thand = u.ctx.thand ∧
        c.log = u.ctx.log ∧ c.sb = u.ctx.sb ∧ c.map = u.ctx.map ∧
        c.astat = raiseFlags u.ctx.astat (((slotsOf (activeOf u i)).map fun x => (f (s.args u i x)).flags).foldl (· ||| ·) 0#32))

/-- A 64-bit result in a pair (R72, R243): at every active slot D takes the low word and the register after it the high word; every other
byte of the store stands. -/
def Claims.ComputedPairReadsBack : Prop :=
  ∀ (s : State) (i : Instr) (u : Issuer) (f : Args → Res) (d : BitVec 8), s.mem.store.wf = true → aluFn i = some f → Issues s i u →
    u.ctx.symbolic = false → u.ctx.isComp = false → i.rules.var = false → i.rules.d = .dst 2 → i.codes.1 = d → d.toNat < 0xBF →
    ∃ t, exec i s = .next t ∧
      (∀ slot, (activeOf u i).getLsbD slot = true → slot < 32 →
        t.readV u.ctx slot d.toNat = ((f (s.args u i slot)).val).setWidth 32 ∧
        t.readV u.ctx slot (d.toNat + 1) = ((f (s.args u i slot)).val).extractLsb' 32 32) ∧
      (∀ a, (∀ slot n b, (activeOf u i).getLsbD slot = true → slot < 32 → (n = d.toNat ∨ n = d.toNat + 1) → b < 4 →
        u.ctx.vPlace slot n ≠ some (a - b) ∨ a < b) → t.mem.store.byte a = s.mem.store.byte a) ∧
      t.mem.phys = s.mem.phys ∧ t.hub = s.hub ∧ t.eng = s.eng ∧ t.rel = s.rel ∧ (∀ k, k ≠ u.key → t.ctx? k = s.ctx? k) ∧
      (∃ c, t.ctx? u.key = some c ∧ c.s = u.ctx.s ∧ c.p = u.ctx.p ∧ c.map = u.ctx.map ∧ c.trap = u.ctx.trap)

/-- A uniform word (R243): with an s code as destination it writes the s register, or the pair, once, with the result at the lowest active
slot, and no other register; with no active slot it writes none. -/
def Claims.ComputedUniformReadsBack : Prop :=
  ∀ (s : State) (i : Instr) (u : Issuer) (f : Args → Res) (n : Nat) (d : BitVec 8), aluFn i = some f → Issues s i u →
    u.ctx.symbolic = false → u.ctx.isComp = false → i.rules.var = false → i.rules.d = .dst n → n = 1 ∨ n = 2 → i.codes.1 = d →
    0xC0 ≤ d.toNat →
    ∃ t c, exec i s = .next t ∧ t.ctx? u.key = some c ∧ t.mem = s.mem ∧ c.p = u.ctx.p ∧ c.x = u.ctx.x ∧ c.map = u.ctx.map ∧
      (∀ k, c.readS k = match slotsOf (activeOf u i) with
        | [] => u.ctx.readS k
        | x :: _ => if k = d.toNat - 0xC0 then ((f (s.args u i x)).val).setWidth 32
          else if n = 2 ∧ k = d.toNat - 0xC0 + 1 then ((f (s.args u i x)).val).extractLsb' 32 32 else u.ctx.readS k)

/-- The results of fixed-latency computed words in v registers, in pairs and in s registers. -/
def Obligations.ComputedResultReadsBack : Prop :=
  Claims.ComputedRegisterReadsBack ∧ Claims.ComputedPairReadsBack ∧ Claims.ComputedUniformReadsBack

/-- A predicate destination (R243, R316): the predicate of each active slot is bit 0 of the result, every other slot and predicate stays,
and code 7 discards. -/
def Claims.ComputedPredicateReadsBack : Prop :=
  ∀ (s : State) (i : Instr) (u : Issuer) (f : Args → Res), aluFn i = some f → Issues s i u → u.ctx.symbolic = false →
    i.rules.var = false → i.dKind = .predDst →
    ∃ t c, exec i s = .next t ∧ t.ctx? u.key = some c ∧ t.mem = s.mem ∧ c.s = u.ctx.s ∧ c.x = u.ctx.x ∧
      (∀ slot k, slot < 32 → c.readP slot k =
        if k = i.predCode.toNat ∧ k ≠ 7 ∧ (activeOf u i).getLsbD slot = true then ((f (s.args u i slot)).val).getLsbD 0
        else u.ctx.readP slot k)

/-- A fixed-latency computed word of a compositor program writes x register D whole, once, when its guard holds (R243, R254); every
other x register stays. -/
def Claims.CompositorResultReadsBack : Prop :=
  ∀ (s : State) (i : Instr) (u : Issuer) (f : Args → Res) (n : Nat), aluFn i = some f → Issues s i u → u.ctx.isComp = true →
    u.path.mask = 1#32 → i.rules.var = false → i.rules.d = .dst n →
    ∃ t c, exec i s = .next t ∧ t.ctx? u.key = some c ∧ t.mem = s.mem ∧ c.p = u.ctx.p ∧
      (∀ k, c.readX k = if k = i.codes.1.toNat ∧ activeOf u i = 1#32 then (f (s.args u i 0)).val else u.ctx.readX k)

/-- A word of variable latency that has issued (R240): nothing is written, its results are in flight, and its scoreboard, or with field 7 the
clause counter of its path, has risen by one; the lane goes to the next word, or, after the last one, the path to the next header (R239). -/
def Claims.InFlight (s : State) (i : Instr) (u : Issuer) (ws : List RegWrite) (flags : Word) : Prop :=
  ∃ t c e p, exec i s = .next t ∧ t.ctx? u.key = some c ∧ t.mem = s.mem ∧ c.s = u.ctx.s ∧ c.p = u.ctx.p ∧ c.x = u.ctx.x ∧
    c.astat = u.ctx.astat ∧ c.inflight = u.ctx.inflight ++ [e] ∧ e.sb = i.sbField ∧ e.path = u.path.id ∧ e.poison = none ∧
    e.writes = ws ∧ e.flags = flags ∧ c.path? u.path.id = some p ∧
    (i.sbField < 6 → nth c.sb i.sbField 0 = nth u.ctx.sb i.sbField 0 + 1 ∧ p.ctr = u.path.ctr) ∧
    (i.sbField = 7 → c.sb = u.ctx.sb ∧ p.ctr = u.path.ctr + 1) ∧
    (u.clause.pos < u.clause.words.length → p.pc = u.path.pc ∧
      (t.lane (u.key / 8)).clause = some { u.clause with pos := u.clause.pos + 1, await := false }) ∧
    (u.clause.words.length ≤ u.clause.pos → p.pc = u.clause.after ∧ (t.lane (u.key / 8)).clause = none)

/-- A variable-latency computed word (`idiv`, `irem`, `fdiv`, `frcp`, `frsq`, `fsqrt`, `fexp2`, `flog2`, `fsin`, `fcos`, `ftanh`) of a warp, and
`mprog` of a compositor program, write nothing when they issue: their results are in flight and their scoreboard, or with field 7 the clause
counter of their path, rises by one (R240); the lane goes to the next word, or, after the last one, the path to the next header (R239). -/
def Obligations.VariableLatencyWordIsInFlight : Prop :=
  (∀ (s : State) (i : Instr) (u : Issuer) (f : Args → Res), aluFn i = some f → Issues s i u → u.ctx.symbolic = false →
    i.rules.var = true → (u.actSlots i (activeOf u i)) ≠ [] → i.rules.d = .dst 1 ∨ i.rules.d = .dst 2 →
    Claims.InFlight s i u ((u.actSlots i (activeOf u i)).flatMap fun x => u.resultAt i x (f (s.args u i x)).val)
      (((u.actSlots i (activeOf u i)).map fun x => (f (s.args u i x)).flags).foldl (· ||| ·) 0#32)) ∧
  (∀ (s : State) (w : RegWord) (u : Issuer), Issues s (.mprog w) u → activeOf u (.mprog w) ≠ 0#32 →
    Claims.InFlight s (.mprog w) u [.mprog w.d.toNat] 0#32)

/-! Words across slots (R274, R277, R319, R331, R358, R362, R365, R381, R364, R356) -/

/-- `ballot` and `vote` (R274, R381) complete: BALLOT gives every active slot the mask of the active slots whose predicate is 1, VOTE
the one bit that all, any, or all-or-none of them give. -/
def Claims.BallotAndVoteComplete : Prop :=
  (∀ (s : State) (w : RegWord) (u : Issuer), Issues s (.ballot w) u → u.symbolic = false → activeOf u (.ballot w) ≠ 0#32 →
    ∃ r : Word, (∀ x, x < 32 → r.getLsbD x = ((activeOf u (.ballot w)).getLsbD x && u.ctx.readP x w.a.toNat)) ∧
      exec (.ballot w) s = .next (doneWith s u (.ballot w) (u.result (.ballot w) (activeOf u (.ballot w)) (r.setWidth 128)) 0#32)) ∧
  (∀ (s : State) (w : RegWord) (u : Issuer), Issues s (.vote w) u → u.symbolic = false → activeOf u (.vote w) ≠ 0#32 →
    ∃ r : Bool, (w.modAt 17 2 = 0 → (r = true ↔ ∀ x, (activeOf u (.vote w)).getLsbD x = true → u.ctx.readP x w.a.toNat = true)) ∧
      (w.modAt 17 2 = 1 → (r = true ↔ ∃ x, (activeOf u (.vote w)).getLsbD x = true ∧ u.ctx.readP x w.a.toNat = true)) ∧
      (w.modAt 17 2 = 2 → (r = true ↔ ∀ x y, (activeOf u (.vote w)).getLsbD x = true → (activeOf u (.vote w)).getLsbD y = true →
        u.ctx.readP x w.a.toNat = u.ctx.readP y w.a.toNat)) ∧
      exec (.vote w) s
        = .next (doneWith s u (.vote w) (u.result (.vote w) (activeOf u (.vote w)) (if r then 1#128 else 0#128)) 0#32))

/-- `match` (R331) completes: each active slot gets the mask of the active slots whose A equals its own. -/
def Claims.MatchCompletes : Prop :=
  ∀ (s : State) (w : RegWord) (u : Issuer), Issues s (.matchEq w) u → u.symbolic = false →
    ∃ g : Nat → Word,
      (∀ x y, y < 32 → (g x).getLsbD y
        = ((activeOf u (.matchEq w)).getLsbD y && decide (s.argA u (.matchEq w) y = s.argA u (.matchEq w) x))) ∧
      exec (.matchEq w) s = .next (doneWith s u (.matchEq w)
        ((slotsOf (activeOf u (.matchEq w))).flatMap fun x => u.writes [x] (.dst 1) w.d ((g x).setWidth 128)) 0#32)

/-- `shfl` (R365) completes: each active slot gets the register of its source slot, chosen by its B, a zero from a slot that has exited
or was never launched (Table 2.7). -/
def Claims.ShflCompletes : Prop :=
  ∀ (s : State) (w : RegWord) (u : Issuer), Issues s (.shfl w) u → u.symbolic = false →
    ∃ g : Nat → Nat,
      (∀ x, x < 32 → g x =
        let b := (s.argB u (.shfl w) x).toNat % 2 ^ 32
        if w.modAt 17 2 = 0 then b % 32
        else if w.modAt 17 2 = 1 then (if b ≤ x then x - b else x)
        else if w.modAt 17 2 = 2 then (if x + b ≤ 31 then x + b else x)
        else x ^^^ (b % 32)) ∧
      exec (.shfl w) s = .next (doneWith s u (.shfl w)
        ((slotsOf (activeOf u (.shfl w))).flatMap fun x => u.writes [x] (.dst 1) w.d ((s.readSlot u.ctx (g x) 1 w.a).setWidth 128)) 0#32)

/-- `redux`, `scan`, `isect` and `bexp` (R358, R362, R319, R277) complete with the results of their folds over the active slots in
ascending order, each slot that takes part giving its A. -/
def Claims.FoldsComplete : Prop :=
  (∀ (s : State) (w : RegWord) (u : Issuer), Issues s (.redux w) u → u.symbolic = false → activeOf u (.redux w) ≠ 0#32 →
    let m := activeOf u (.redux w)
    let r := reduxResult (w.modAt 17 4) w.fmt.toNat
      (((slotsOf m).filter fun x => u.ctx.readP x w.c.toNat).map fun x => (x, (s.argA u (.redux w) x).toNat))
    exec (.redux w) s = .next (doneWith s u (.redux w) (u.result (.redux w) m r.1) r.2)) ∧
  (∀ (s : State) (w : RegWord) (u : Issuer), Issues s (.scan w) u → u.symbolic = false →
    let r := scanResults (w.modAt 17 3) w.fmt.toNat (w.modAt 20 1 == 1)
      ((slotsOf (activeOf u (.scan w))).map fun x => (x, (w.modAt 21 1 == 1 && u.ctx.readP x w.c.toNat), (s.argA u (.scan w) x).toNat))
    exec (.scan w) s
      = .next (doneWith s u (.scan w) (r.1.flatMap fun x => u.writes [x.1] (.dstV w.wid) w.d (BitVec.ofNat 128 x.2)) r.2)) ∧
  (∀ (s : State) (w : RegWord) (u : Issuer), Issues s (.isect w) u → u.symbolic = false → activeOf u (.isect w) ≠ 0#32 →
    let m := slotsOf (activeOf u (.isect w))
    let p := fun x => (s.argA u (.isect w) x).toNat % 2 ^ 32
    let q := fun x => (s.argB u (.isect w) x).toNat % 2 ^ 32
    ∃ z, m.getLast? = some z ∧ exec (.isect w) s = .next (doneWith s u (.isect w)
      ((m.map fun x => .v x w.d.toNat (match m.find? fun y => q y == p x with | some y => word (2 ^ 31 + y) | none => 0#32)) ++
        [.s (w.c.toNat - 0xC0) (word ((m.filter fun x => q x ≤ min (p z) (q z)).length * 2 ^ 16
          + (m.filter fun x => p x ≤ min (p z) (q z)).length))]) 0#32)) ∧
  (∀ (s : State) (w : RegWord) (u : Issuer), Issues s (.bexp w) u → u.symbolic = false →
    let emax : Int := match w.fmt.toNat with | 3 => 8 | 4 => 15 | _ => 4
    let block := fun b => (slotsOf (activeOf u (.bexp w))).filter fun x => x / 8 == b
    let res := fun b => if (block b).isEmpty then (0, 0#32)
      else blockExp emax ((block b).map fun x => decodeVal 0 ((s.argA u (.bexp w) x).toNat % 2 ^ 32) w.ftz)
    exec (.bexp w) s = .next (doneWith s u (.bexp w)
      ((List.range 4).flatMap fun b => u.writes (block b) (.dst 1) w.d (BitVec.ofNat 128 (res b).1))
      (((List.range 4).map fun b => (res b).2).foldl (· ||| ·) 0#32)))

/-- `redux.minidx.u32` gives the least value and the lowest slot that holds it; with no slot taking part it gives the identity and
index 0x3F (R358). -/
def Claims.ReduxMinidxTakesLowestSlot : Prop :=
  (∀ (xs : List (Nat × Nat)), (xs.map (·.1)).Pairwise (· < ·) → (∀ x ∈ xs, x.1 < 32 ∧ x.2 < 2 ^ 32) → xs ≠ [] →
    ∃ x ∈ xs, reduxResult 6 9 xs = (BitVec.ofNat 128 (x.1 * 2 ^ 32 + x.2), 0#32) ∧ (∀ y ∈ xs, x.2 ≤ y.2 ∧ (y.2 = x.2 → x.1 ≤ y.1))) ∧
  reduxResult 6 9 [] = (BitVec.ofNat 128 (0x3F * 2 ^ 32 + 0xFFFFFFFF), 0#32)

/-- `segrd`, `rdwp` and `rdsr` complete (R364, R356, R354): D takes the segment register, the copy channel's COUNT and WP, or the special
register as it stands for the slot; `rdsr` of ASTAT with CLR clears it in the same commit, and one of ASTAT waits while an earlier word
may still raise flags (R175), but for one whose fault the reading path itself has to settle (notes/assumptions/97.md). `rdwp` is of variable
latency. -/
def Claims.ReadsOfSpecialStateComplete : Prop :=
  (∀ (s : State) (w : RegWord) (u : Issuer), Issues s (.segrd w) u → u.symbolic = false → activeOf u (.segrd w) ≠ 0#32 →
    exec (.segrd w) s = .next (doneWith s u (.segrd w) (u.result (.segrd w) (activeOf u (.segrd w)) (u.ctx.seg (w.modAt 17 3)).bits) 0#32)) ∧
  (∀ (s : State) (w : RegWord) (u : Issuer), Issues s (.rdwp w) u → u.symbolic = false → activeOf u (.rdwp w) ≠ 0#32 →
    exec (.rdwp w) s = .next (doneWith s u (.rdwp w) (u.result (.rdwp w) (activeOf u (.rdwp w))
      (BitVec.ofNat 128 ((s.chan u.ctx.cluster (w.modAt 17 2)).count % 2 ^ 32 * 2 ^ 32 + (s.chan u.ctx.cluster (w.modAt 17 2)).wp % 2 ^ 32))) 0#32)) ∧
  (∀ (s : State) (w : RegWord) (u : Issuer), Issues s (.rdsr w) u → u.symbolic = false → activeOf u (.rdsr w) ≠ 0#32 →
    (w.a ≠ 0x11#8 ∨ u.ctx.flagsOpen u.path.id = false → exec (.rdsr w) s = .next (doneWith
      (if w.modAt 17 1 = 1 then s.changeCtx u.key fun c => { c with astat := 0#32 } else s) u (.rdsr w)
      ((u.actSlots (.rdsr w) (activeOf u (.rdsr w))).flatMap fun x =>
        u.writes [x] (Instr.rdsr w).rules.d w.d ((s.special u.ctx x w.a.toNat).setWidth 128)) 0#32)) ∧
    (w.a = 0x11#8 → u.ctx.flagsOpen u.path.id = true → exec (.rdsr w) s = .next s))

/-- The special registers (Table 16.8) hold what their rules say: WARP, CLUSTER, LANE, ASTAT, the space number, THAND, and the trap
state, which reads zero when no trap is held (R375). -/
def Claims.SpecialRegistersHold : Prop :=
  ∀ (s : State) (c : Ctx) (slot : Nat),
    s.special c slot 0 = dbl slot ∧ s.special c slot 1 = dbl c.warpNo ∧ s.special c slot 4 = dbl c.cluster ∧ s.special c slot 5 = dbl c.lane ∧
    s.special c slot 0x11 = c.astat.setWidth 64 ∧ s.special c slot 0x12 = dbl c.tenant ∧ s.special c slot 0x1B = c.thand ∧
    (c.trap = none → ∀ n ∈ [0x13, 0x14, 0x15, 0x16, 0x17, 0x18, 0x19, 0x1C], s.special c slot n = 0#64) ∧
    (∀ x, c.trap = some x → s.special c slot 0x13 = x.code.setWidth 64 ∧ s.special c slot 0x14 = x.pc ∧ s.special c slot 0x15 = x.word.setWidth 64 ∧
      s.special c slot 0x16 = x.addr ∧ s.special c slot 0x17 = x.bva ∧ s.special c slot 0x18 = x.mask.setWidth 64 ∧
      s.special c slot 0x19 = x.log.setWidth 64 ∧ s.special c slot 0x1C = x.ret)

/-- Moves of predicates, indexed moves, coordinates, scaled dot products and paired words complete (R347, R249, R318, R298, R327, R250):
PMOV, MOV with an index, IDX, FDOT4 and LGDOT4 with a scale, PAIRED_WORD. Both halves of a paired word read before either writes. -/
def Obligations.MovesAndPairsComplete : Prop :=
  (∀ (s : State) (w : RegWord) (u : Issuer), Issues s (.pmov w) u → u.symbolic = false → w.fmt = 1#4 →
    exec (.pmov w) s = .next (doneWith s u (.pmov w) ((slotsOf (activeOf u (.pmov w))).flatMap fun x =>
      ((List.range 7).filter fun k => w.mod.getLsbD k).map fun k => .p x k ((s.readOpd u.ctx x (.src 1) w.a).getLsbD k)) 0#32)) ∧
  (∀ (s : State) (w : RegWord) (u : Issuer), Issues s (.pmov w) u → u.symbolic = false → w.fmt = 0#4 →
    ∃ g : Nat → Word, (∀ x k, k < 32 → (g x).getLsbD k = (decide (k < 7) && w.mod.getLsbD k && u.ctx.readP x k)) ∧
      exec (.pmov w) s = .next (doneWith s u (.pmov w) ((u.actSlots (.pmov w) (activeOf u (.pmov w))).flatMap fun x =>
        u.writes [x] (.dstV 1) w.d ((g x).setWidth 128)) 0#32)) ∧
  (∀ (s : State) (w : RegWord) (u : Issuer) (a d : Nat), Issues s (.mov w) u → u.symbolic = false → w.modAt 22 2 ≠ 0 →
    activeOf u (.mov w) ≠ 0#32 → movIndex w (u.ctx.readS (w.c.toNat - 0xC0)) = (a, d) → a < 8 * u.ctx.map.length →
    d < 8 * u.ctx.map.length → (w.modAt 22 2 = 1 ∨ w.a.toNat < 0xC0) →
    exec (.mov w) s = .next (doneWith s u (.mov w) ((slotsOf (activeOf u (.mov w))).map fun x => .v x d (s.readV u.ctx x a)) 0#32)) ∧
  (∀ (s : State) (w : ImmWord) (u : Issuer), Issues s (.idx w) u → u.symbolic = false →
    exec (.idx w) s = .next (doneWith s u (.idx w)
      ((slotsOf (activeOf u (.idx w))).map fun x => .v x w.d.toNat (word (nth (s.itemOf u.ctx x).list w.imm.toNat 0))) 0#32)) ∧
  (∀ (s : State) (w : RegWord) (u : Issuer) (i : Instr) (dot : Int → Dbl → Dbl → Dbl → Res),
    (i = .fdot4 w ∧ dot = fun k a b d => dotRes w.fmt.toNat 4 w.rmode w.ftz k a b d) ∨
      (i = .lgdot4 w ∧ dot = fun k a b d => lgDotRes w.rmode w.ftz k a b d) →
    w.modAt 21 1 = 1 → Issues s i u → u.symbolic = false →
    let scale := fun x => elemAt (s.readSlot u.ctx x 1 w.c) 8 (w.modAt 22 2)
    let res := fun x => scaledRes (scale (x / 8 * 8)) (scale (x / 8 * 8 + 4)) fun k => dot k (s.argA u i x) (s.argB u i x) (s.argD u i x)
    exec i s = .next (doneWith s u i ((u.actSlots i (activeOf u i)).flatMap fun x => u.resultAt i x (res x).val)
      (((u.actSlots i (activeOf u i)).map fun x => (res x).flags).foldl (· ||| ·) 0#32))) ∧
  (∀ (s : State) (l r : HalfOp) (u : Issuer), Issues s (.pairedWord l r) u → u.symbolic = false →
    exec (.pairedWord l r) s = .next (doneWith s u (.pairedWord l r)
      ((slotsOf (activeOf u (.pairedWord l r))).flatMap fun x =>
        [.v x l.d.toNat ((halfRes s u l x).val.setWidth 32), .v x r.d.toNat ((halfRes s u r x).val.setWidth 32)])
      (((slotsOf (activeOf u (.pairedWord l r))).flatMap fun x => [(halfRes s u l x).flags, (halfRes s u r x).flags]).foldl (· ||| ·) 0#32)))

/-! Transfers and ends of clauses -/

/-- `bra`, `call` and `ret` (R279, R281, R359) move the active slots of a warp or compositor to their target when it may be entered,
and the others of the path go on at the next header: every slot stands on a path with the pc, and the return stack, that the rule gives. -/
def Claims.TransfersMoveActiveSlots : Prop :=
  ∀ (s s1 : State) (i : Instr) (u : Issuer) (pc : Dbl) (stack : List Dbl), Issues s i u → u.symbolic = false → activeOf u i ≠ 0#32 →
    ((∃ w, i = .bra w ∧ pc = directTarget u w ∧ stack = u.path.stack ∧
       ((sameFrame pc u.clause.pc = true ∧ s1 = s) ∨ (sameFrame pc u.clause.pc = false ∧ s.checkTarget u (activeOf u i) pc = (s1, none)))) ∨
     (∃ w, i = .call w ∧ pc = directTarget u w ∧ stack = u.clause.after :: u.path.stack ∧ u.path.stack.length < 16 ∧
       ((sameFrame pc u.clause.pc = true ∧ s1 = s) ∨ (sameFrame pc u.clause.pc = false ∧ s.checkTarget u (activeOf u i) pc = (s1, none)))) ∨
     (∃ w, i = .ret w ∧ u.path.stack = pc :: stack ∧ s.checkTarget u (activeOf u i) pc = (s1, none))) →
    ∃ t c, exec i s = .next t ∧ t.ctx? u.key = some c ∧ t.mem = s1.mem ∧ c.s = u.ctx.s ∧ (t.lane (u.key / 8)).clause = none ∧
      (∀ x, (activeOf u i).getLsbD x = true → ∃ p ∈ c.paths, p.mask.getLsbD x = true ∧ p.pc = pc ∧ p.stack = stack) ∧
      (∀ x, u.path.mask.getLsbD x = true → (activeOf u i).getLsbD x = false →
        ∃ p ∈ c.paths, p.mask.getLsbD x = true ∧ p.pc = u.clause.after ∧ p.stack = u.path.stack)

/-- `brx` (R280) sends each active slot to the target in its own A, once every target passed its check. -/
def Claims.BrxGoesToEachTarget : Prop :=
  ∀ (s s1 : State) (w : RegWord) (u : Issuer), Issues s (.brx w) u → u.symbolic = false → activeOf u (.brx w) ≠ 0#32 →
    s.checkTargets u (activeOf u (.brx w)) (targetsOf (fun x => s.argA u (.brx w) x) (slotsOf (activeOf u (.brx w)))) = (s1, none) →
    ∃ t c, exec (.brx w) s = .next t ∧ t.ctx? u.key = some c ∧ t.mem = s1.mem ∧ c.s = u.ctx.s ∧
      (∀ x, (activeOf u (.brx w)).getLsbD x = true → ∃ p ∈ c.paths, p.mask.getLsbD x = true ∧ p.pc = s.argA u (.brx w) x) ∧
      (∀ x, u.path.mask.getLsbD x = true → (activeOf u (.brx w)).getLsbD x = false →
        ∃ p ∈ c.paths, p.mask.getLsbD x = true ∧ p.pc = u.clause.after)

/-- A `call` on a full return stack and a `ret` on an empty one raise CALLDEPTH, and no slot moves (R281, R359). -/
def Claims.CallDepthTraps : Prop :=
  (∀ (s : State) (w : ImmWord) (u : Issuer), Issues s (.call w) u → u.symbolic = false → activeOf u (.call w) ≠ 0#32 → 16 ≤ u.path.stack.length →
    exec (.call w) s = .next (s.settle u (.call w) (.trap 0x09#8 0#64 (activeOf u (.call w))))) ∧
  (∀ (s : State) (w : RegWord) (u : Issuer), Issues s (.ret w) u → u.symbolic = false → activeOf u (.ret w) ≠ 0#32 → u.path.stack = [] →
    exec (.ret w) s = .next (s.settle u (.ret w) (.trap 0x09#8 0#64 (activeOf u (.ret w)))))

/-- A transfer word, `exit`-like words aside, with no active slot goes on at the next header and does nothing (R268, R279-R281, R359). -/
def Claims.EmptyTransfersFallThrough : Prop :=
  ∀ (s : State) (i : Instr) (u : Issuer), (∃ w, i = .bra w) ∨ (∃ w, i = .call w) ∨ (∃ w, i = .brx w) ∨ (∃ w, i = .ret w) ∨ (∃ w, i = .trap w) ∨
      (∃ w, i = .trapSet w) → Issues s i u → u.symbolic = false → activeOf u i = 0#32 →
    exec i s = .next (goesTo s u i u.clause.after .none [])

/-- A word that ends its clause leaves the path at its pc, waiting for what the word waits for, with no clause in progress on the lane;
the clause's YIELD is kept for the choice of the next binding (R57, R239). -/
def Claims.ClauseEndsLeavePath : Prop :=
  ∀ (s : State) (i : Instr) (u : Issuer) (pc : Dbl) (wait : Wait), s.issuing i = some u → u.symbolic = false →
    ∃ c p, (goesTo s u i pc wait []).ctx? u.key = some c ∧ c.path? u.path.id = some p ∧ p.pc = pc ∧ p.wait = wait ∧
      p.mask = u.path.mask ∧ p.stack = u.path.stack ∧ p.came = u.clause.pc ∧ p.start = 0 ∧
      c.s = u.ctx.s ∧ c.trap = u.ctx.trap ∧ c.astat = raiseFlags u.ctx.astat 0#32 ∧
      (goesTo s u i pc wait []).mem = s.mem ∧ (goesTo s u i pc wait []).hub = s.hub ∧
      ((goesTo s u i pc wait []).lane (u.key / 8)).clause = none ∧
      ((goesTo s u i pc wait []).lane (u.key / 8)).yielded = ((s.lane (u.key / 8)).yielded || u.hdr.yield)

/-- `yield`, `join`, `trap.set`, `psig` and `halt` on a compositor complete (R382, R320, R376, R353, R311): the lane prefers another
binding; the clause goes on; THAND takes the value at the lead slot; outside the pre-emption handler, which runs while its PREEMPT trap is
held, `psig` does nothing, and in it it declares what the save keeps; the program waits for its node. -/
def Claims.ClauseWordsComplete : Prop :=
  (∀ (s : State) (w : RegWord) (u : Issuer), Issues s (.yield w) u →
    exec (.yield w) s = .next (goesTo (s.changeLane (u.key / 8) fun l => { l with yielded := true }) u (.yield w) u.clause.after .none [])) ∧
  (∀ (s : State) (w : RegWord) (u : Issuer), Issues s (.join w) u → exec (.join w) s = .next (doneWith s u (.join w) [] 0#32)) ∧
  (∀ (s : State) (w : ImmWord) (u : Issuer) (x : Nat) (r : List Nat), Issues s (.trapSet w) u → u.symbolic = false →
    slotsOf (activeOf u (.trapSet w)) = x :: r →
    exec (.trapSet w) s = .next (goesTo (s.changeCtx u.key fun c => { c with thand := s.argA u (.trapSet w) x }) u (.trapSet w)
      u.clause.after .none [])) ∧
  (∀ (s : State) (w : RegWord) (u : Issuer), Issues s (.psig w) u →
    u.symbolic = true ∨ u.ctx.pre ≠ .handler ∨ s.underPreemption u.ctx = false ∨ (∀ y, u.ctx.trap = some y → y.code ≠ 0x07#8) →
    exec (.psig w) s = .next (goesTo s u (.psig w) u.clause.after .none [])) ∧
  (∀ (s : State) (w : RegWord) (u : Issuer) (n : Node) (y : TrapState) (x : Nat) (r : List Nat), Issues s (.psig w) u → u.symbolic = false →
    slotsOf (activeOf u (.psig w)) = x :: r → u.ctx.trap = some y → y.code = 0x07#8 → u.ctx.pre = .handler → s.underPreemption u.ctx = true → s.node? u.ctx.node = some n →
    exec (.psig w) s = .next (goesTo (s.changeCtx u.key fun c =>
      { c with pre := .declared (min ((s.argA u (.psig w) x).toNat % 2 ^ 32) n.regs) (min ((s.argB u (.psig w) x).toNat % 2 ^ 32) n.scratchKib) })
      u (.psig w) u.clause.after .saving [])) ∧
  (∀ (s : State) (w : RegWord) (u : Issuer), Issues s (.halt w) u → u.ctx.isComp = true →
    exec (.halt w) s = .next (goesTo s u (.halt w) u.clause.after .halting []))

/-- `exit` and `tail` (R282, R373) end the active slots of a warp: they count as exited, no path holds them any more, and each other path
keeps its live slots. When the last live slot ends by `tail` with a retirement-tracker entry free, the entry takes over and the binding
is free at once. (With nothing in the core's merge buffer and the operand log empty, so that nothing is left to drain or to replay.) -/
def Claims.ExitAndTailEndSlots : Prop :=
  (∀ (s : State) (i : Instr) (u : Issuer), ((∃ w, i = .exit w) ∨ ((∃ w, i = .tail w) ∧ u.ctx.live &&& ~~~activeOf u i ≠ 0#32)) →
    Issues s i u → u.symbolic = false → u.ctx.log = [] → s.mem.merge = [] →
    ∃ t c, exec i s = .next t ∧ t.ctx? u.key = some c ∧ c.exited = u.ctx.exited ||| activeOf u i ∧
      (∀ p ∈ c.paths, p.mask &&& activeOf u i = 0#32 ∧ p.mask ≠ 0#32) ∧
      (∀ x, u.path.mask.getLsbD x = true → (activeOf u i).getLsbD x = false →
        ∃ p ∈ c.paths, p.mask.getLsbD x = true ∧ p.pc = u.clause.after) ∧
      c.s = u.ctx.s ∧ t.mem = s.mem ∧ t.hub = s.hub ∧ t.eng = s.eng) ∧
  (∀ (s : State) (w : RegWord) (u : Issuer), Issues s (.tail w) u → u.symbolic = false → u.ctx.log = [] → s.mem.merge = [] →
    u.ctx.live &&& ~~~activeOf u (.tail w) = 0#32 → (s.work.trackers.filter fun x => x.cluster == u.ctx.cluster).length < 16 →
    ∃ t, exec (.tail w) s = .next t ∧ t.ctx? u.key = none ∧ t.mem = s.mem ∧
      t.work.trackers = s.work.trackers ++ [{ cluster := u.ctx.cluster, owner := u.ctx.uid, node := u.ctx.node, group := u.ctx.group }])

/-- `halt` in a CLASS 0 clause (R311) ends its launch: every context of the launch has stopped, and the launch keeps code OK unless a
failure came before. -/
def Claims.HaltEndsLaunch : Prop :=
  ∀ (s : State) (w : RegWord) (u : Issuer), Issues s (.halt w) u → u.ctx.isComp = false →
    ∃ t, exec (.halt w) s = .next t ∧ t.mem = s.mem ∧ (∀ k c, t.ctx? k = some c → c.node = u.ctx.node → c.stopped = true ∧ c.paths = []) ∧
      (∀ n, (t.work.nodes.look n).map (·.code) = (s.work.nodes.look n).map (·.code))

/-! Faults and traps -/

/-- Taking a trap (R257, R375, R376): `trap` on a context with a handler and no trap held saves code TRAPI, the header, the word, the
immediate, the active slots and the next header, and its path goes on at the handler. -/
def Claims.TrapEntersHandler : Prop :=
  ∀ (s : State) (w : ImmWord) (u : Issuer), Issues s (.trap w) u → u.symbolic = false → activeOf u (.trap w) ≠ 0#32 → u.ctx.trap = none →
    u.ctx.thand ≠ 0#64 →
    ∃ t c p, exec (.trap w) s = .next t ∧ t.ctx? u.key = some c ∧ t.mem = s.mem ∧ (t.lane (u.key / 8)).clause = none ∧
      c.trap = some { code := 0x01#8, pc := u.clause.pc, word := BitVec.ofNat 5 u.clause.pos, addr := w.imm.setWidth 64, bva := 0#64,
                      mask := (if u.ctx.isComp then 0#32 else activeOf u (.trap w)), log := 0xF#4, ret := u.clause.after } ∧
      c.path? u.path.id = some p ∧ p.pc = u.ctx.thand ∧ p.mask = u.path.mask ∧ p.stack = u.path.stack ∧ c.s = u.ctx.s ∧ c.p = u.ctx.p ∧
      c.astat = u.ctx.astat

/-- A privileged word of CLASS 0 in a context that is not privileged raises PRIVOP, and a word that names a register beyond the
allocation raises RIDX, at its own word and with no other effect (R72, R255, R257): with a handler the trap state says so and the path is at
the handler; memory and the context's registers are as before. -/
def Claims.PrivopAndRidxTrap : Prop :=
  ∀ (s : State) (i : Instr) (u : Issuer) (code : BitVec 8), s.issuing i = some u → u.ctx.stopped = false → u.ctx.trap = none →
    u.ctx.thand ≠ 0#64 →
    ((code = 0x04#8 ∧ i.rules.priv = true ∧ u.ctx.priv = false ∧ u.cls = .vector) ∨
     (code = 0x02#8 ∧ (i.rules.priv = false ∨ u.ctx.priv = true ∨ u.cls = .compositor) ∧ activeOf u i ≠ 0#32 ∧ u.ridx i = true)) →
    ∃ t c p y, exec i s = .next t ∧ t.ctx? u.key = some c ∧ t.mem = s.mem ∧ c.trap = some y ∧ y.code = code ∧ y.pc = u.clause.pc ∧
      y.word = BitVec.ofNat 5 u.clause.pos ∧ y.addr = 0#64 ∧ y.bva = 0#64 ∧ y.log = 0xF#4 ∧ y.ret = u.clause.after ∧
      c.path? u.path.id = some p ∧ p.pc = u.ctx.thand ∧ c.s = u.ctx.s ∧ c.p = u.ctx.p ∧ c.x = u.ctx.x ∧ c.astat = u.ctx.astat

/-- With no handler a trap ends the launch with code TRAP and DETAIL the code above the address; with a trap already held likewise
(R148, R375). -/
def Obligations.TrapWithoutHandlerEndsLaunch : Prop :=
  ∀ (s : State) (w : ImmWord) (u : Issuer) (n : Node), Issues s (.trap w) u → u.symbolic = false → activeOf u (.trap w) ≠ 0#32 →
    (u.ctx.thand = 0#64 ∨ u.ctx.trap.isSome = true) → s.work.nodes.look u.ctx.node = some n → n.code = 0#8 →
    ∃ t m, exec (.trap w) s = .next t ∧ t.work.nodes.look u.ctx.node = some m ∧ m.code = 0x0A#8 ∧
      m.detail = BitVec.ofNat 48 (2 ^ 40 + w.imm.toNat) ∧
      (∀ k c, t.ctx? k = some c → c.node = u.ctx.node → c.stopped = true)

/-- `tret` and `tret.skip` (R377, Table 16.18) leave a precise trap at word j: the trap state reads zero, and the path issues word j again,
or goes on after it; of a trap in a trunk or limb its clause runs again from word 1 (R241), over word j after `tret.skip`, also in warps that
the context has become: those two points are the model's reading (notes/assumptions/14.md). With no trap held the path goes on at the next
header and nothing else happens. After the trap of a logged word, of MSPARSE or of PREEMPT the path goes on where the trap broke in:
`tret` replays the entry, restarts the matrix unit after a release, or does nothing more, and `tret.skip` discards the entry, or the
stopped operation with the queue behind it (R194). -/
def Obligations.TretReturns : Prop :=
  (∀ (s : State) (w : RegWord) (u : Issuer) (x : TrapState), Issues s (.tret w) u → u.symbolic = false → u.ctx.trap = some x →
    x.word ≠ 0#5 → x.log = 0xF#4 → x.code ≠ 0x06#8 → x.code ≠ 0x07#8 →
    ∃ t c p, exec (.tret w) s = .next t ∧ t.ctx? u.key = some c ∧ c.trap = none ∧ c.path? u.path.id = some p ∧ p.pc = x.pc ∧
      (x.whole = false → p.skip = 0 ∧ p.start = (if w.modAt 17 1 = 1 then x.word.toNat + 1 else x.word.toNat)) ∧
      (x.whole = true → p.start = 1 ∧ p.skip = (if w.modAt 17 1 = 1 then x.word.toNat else 0)) ∧
      p.mask = u.path.mask ∧ t.mem = s.mem ∧ c.s = u.ctx.s) ∧
  (∀ (s : State) (w : RegWord) (u : Issuer), Issues s (.tret w) u → u.ctx.trap = none →
    exec (.tret w) s = .next (goesTo s u (.tret w) u.clause.after .none [])) ∧
  (∀ (s : State) (w : RegWord) (u : Issuer) (x : TrapState) (e : LogEntry), Issues s (.tret w) u → u.symbolic = false → u.ctx.trap = some x →
    x.log ≠ 0xF#4 → x.code ≠ 0x06#8 → u.ctx.log.look x.log.toNat = some e → e.sb < 6 → w.modAt 17 1 = 1 →
    ∃ t c p, exec (.tret w) s = .next t ∧ t.ctx? u.key = some c ∧ c.trap = none ∧ c.log = u.ctx.log.del x.log.toNat ∧
      nth c.sb e.sb 0 = nth u.ctx.sb e.sb 0 - 1 ∧ c.path? u.path.id = some p ∧ p.pc = x.ret ∧ t.mem = s.mem) ∧
  -- a logged word, and the causes MSPARSE and PREEMPT: the path goes on where the trap broke in
  (∀ (s : State) (w : RegWord) (u : Issuer) (x : TrapState), Issues s (.tret w) u → u.symbolic = false → u.ctx.trap = some x →
    x.log ≠ 0xF#4 ∨ x.code = 0x06#8 ∨ x.code = 0x07#8 →
    let left := ((s.useBits u (.tret w)).endClause u u.clause.after .none).leaveTrap u.key u.path.id x.ret x.start x.skip
    (∃ c p, left.ctx? u.key = some c ∧ c.trap = none ∧ c.path? u.path.id = some p ∧ p.pc = x.ret ∧ p.start = x.start ∧ p.skip = x.skip ∧
      p.mask = u.path.mask ∧ left.mem = s.mem) ∧
    (x.code = 0x07#8 → x.log = 0xF#4 → exec (.tret w) s = .next left) ∧
    (∀ e, x.code ≠ 0x06#8 → x.log ≠ 0xF#4 → u.ctx.log.look x.log.toNat = some e → w.modAt 17 1 = 0 →
      let again := left.changeCtx u.key fun c => { c with log := c.log.put x.log.toNat { e with state := .resolved } }
      exec (.tret w) s = .next ((if e.sb = 7 then again.count u.key e.path 7 true else again).replay u.key x.log.toNat)) ∧
    (x.code = 0x06#8 → w.modAt 17 1 = 1 → ∃ t, exec (.tret w) s = .next t ∧ t.ctx? u.key = left.ctx? u.key ∧ t.mem = s.mem ∧
      t.matrix u.ctx.cluster = { s.matrix u.ctx.cluster with queue := [], started := false, trapped := false }) ∧
    (x.code = 0x06#8 → w.modAt 17 1 = 0 → s.releaseWaits u.ctx = false →
      exec (.tret w) s = .next ((left.releaseCore u.ctx 2).setMatrix u.ctx.cluster fun m =>
        { m with trapped := false, mprog := (m.mprog &&& ~~~3#64) ||| 1#64 })))

/-! Words with operands in memory -/

/-- `ld` and `ldm` (R321-R325) complete: when every slot's address translates, D of each slot takes the loaded value in the register's
type, or the sector's metadata; an ordered load is an acquire after, one of order sc a release first as well; a load from SEG.F pops its
words; poison that the data carry goes with them (R207). That the value is that of memory when the word issues, to be committed later, is the
model's reading (notes/assumptions/4.md). -/
def Claims.LoadsComplete : Prop :=
  (∀ (s s1 s2 : State) (w : MemWord) (u : Issuer) (reqs : List Req) (ts : List (Req × Target)) (vs : List (Req × Nat)) (p : Option Nat),
    Acts s (.ld w) u w.offset reqs → w.oen = 0#1 → w.seg.toNat ≠ 5 → u.ctx.windowWaits w.seg.toNat reqs = false →
    s.targetsFrom u.ctx w.seg.toNat (typeBytes w.mfmt.toNat) .read false reqs [] [] = (s1, ts, []) →
    s1.loadAll u.ctx ts = (s2, vs, p) →
    exec (.ld w) s = .next ((s2.peerMessage u.ctx ts).settle u (.ld w) (.on (vs.flatMap fun x =>
      u.ctx.slotWrites (.ld w) x.1.slot (loadValue w.mfmt.toNat w.fmt.toNat u.ctx.isComp x.2)) 0#32 p))) ∧
  (∀ (s s1 s2 : State) (w : MemWord) (u : Issuer) (reqs : List Req) (ts : List (Req × Target)) (vs : List (Req × Nat)) (p : Option Nat),
    Acts s (.ld w) u w.offset reqs → w.oen = 1#1 → w.seg.toNat ≠ 5 → u.ctx.windowWaits w.seg.toNat reqs = false →
    (w.ord = 3#2 → s.releaseWaits u.ctx = false) →
    s.targetsFrom u.ctx w.seg.toNat (typeBytes w.mfmt.toNat) .read false reqs [] [] = (s1, ts, []) →
    (if w.ord = 3#2 then s1.fenceBy u.ctx 3 w.osc.toNat else s1).loadAll u.ctx ts = (s2, vs, p) →
    exec (.ld w) s = .next (((s2.peerMessage u.ctx ts).acquireCluster u.ctx.cluster w.osc.toNat).settle u (.ld w) (.on (vs.flatMap fun x =>
      u.ctx.slotWrites (.ld w) x.1.slot (loadValue w.mfmt.toNat w.fmt.toNat u.ctx.isComp x.2)) 0#32 p))) ∧
  (∀ (s : State) (w : MemWord) (u : Issuer) (reqs : List Req) (bs : List (Req × Nat)), Acts s (.ld w) u w.offset reqs → w.oen = 0#1 → w.seg.toNat = 5 →
    u.ctx.windowWaits 5 reqs = false → s.fifoBanks u.ctx false (typeBytes w.mfmt.toNat) reqs = (bs, []) →
    batchFits bs (typeBytes w.mfmt.toNat) (fun b => (s.fifo u.ctx.cluster b).length) = true →
    let r := s.popBatch u.ctx (typeBytes w.mfmt.toNat) bs
    exec (.ld w) s = .next (r.1.settle u (.ld w) (.on (r.2.1.flatMap fun x =>
      u.ctx.slotWrites (.ld w) x.1.slot (loadValue w.mfmt.toNat w.fmt.toNat u.ctx.isComp x.2)) 0#32 (if r.2.2 then some 0 else none)))) ∧
  (∀ (s s1 : State) (w : MemWord) (u : Issuer) (reqs : List Req) (ts : List (Req × Target)), Acts s (.ldm w) u w.offset reqs →
    (∀ r ∈ reqs, spaceOf r.addr ≠ .shadow ∧ spaceOf r.addr = spaceOf (r.addr + 3)) →
    s.targetsFrom u.ctx 0 1 .read false reqs [] [] = (s1, ts, []) →
    exec (.ldm w) s = .next ((s1.peerMessage u.ctx ts).settle u (.ldm w) (.on (ts.flatMap fun x =>
      u.ctx.slotWrites (.ldm w) x.1.slot (BitVec.ofNat 128 (((s1.mem.sectorMeta.look (s1.metaOf (nth x.2.bytes 0 .zero)).1).getD 0#28).toNat
        % 2 ^ (s1.metaOf (nth x.2.bytes 0 .zero)).2))) 0#32 (if ts.any fun x => s1.targetDown x.2 then some 0 else none))))

/-- `st` and `stm` (R369-R372) complete: when every slot's address translates, each slot's value, converted to the memory type, is stored
at its target in ascending slots, and the conversions raise their flags; an ordered store is a release first; a store to SEG.F pushes its
words; `stm` writes the metadata of each sector, as many bits as its frame keeps. -/
def Claims.StoresComplete : Prop :=
  (∀ (s s1 : State) (w : MemWord) (u : Issuer) (reqs : List Req) (ts : List (Req × Target)), Acts s (.st w) u w.offset reqs →
    w.seg.toNat ≠ 5 → u.ctx.windowWaits w.seg.toNat reqs = false → (w.oen = 1#1 → s.releaseWaits u.ctx = false) →
    s.targetsFrom u.ctx w.seg.toNat (typeBytes w.mfmt.toNat) .write false reqs [] [] = (s1, ts, []) →
    let n := typeBytes w.mfmt.toNat
    let s2 := ts.foldl (fun s x => s.storeTarget u.ctx.storer x.2 (bytesOf n (storeValue w.fmt.toNat w.mfmt.toNat x.1.data).1)
      x.1.bads) (if w.oen = 1#1 then s1.fenceBy u.ctx w.ord.toNat w.osc.toNat else s1)
    let s3 := if w.seg.toNat = 2 then ts.foldl (fun s x => s.windowStore (u.ctx.seg 2).base.toNat x.1.addr.toNat n) s2 else s2
    s3.overfull u.ctx.core = false → exec (.st w) s = .next (doneWith (s3.peerStore u.ctx ts) u (.st w) []
      ((ts.map fun x => (storeValue w.fmt.toNat w.mfmt.toNat x.1.data).2).foldl (· ||| ·) 0#32))) ∧
  (∀ (s : State) (w : MemWord) (u : Issuer) (reqs : List Req) (bs : List (Req × Nat)), Acts s (.st w) u w.offset reqs → w.oen = 0#1 → w.seg.toNat = 5 →
    u.ctx.windowWaits 5 reqs = false → s.fifoBanks u.ctx true (typeBytes w.mfmt.toNat) reqs = (bs, []) →
    batchFits bs (typeBytes w.mfmt.toNat) (fun b => 8192 - (s.fifo u.ctx.cluster b).length) = true →
    exec (.st w) s = .next (doneWith (s.pushBatch u.ctx (typeBytes w.mfmt.toNat) bs) u (.st w) [] 0#32)) ∧
  (∀ (s s1 : State) (w : MemWord) (u : Issuer) (reqs : List Req) (ts : List (Req × Target)), Acts s (.stm w) u w.offset reqs →
    (∀ r ∈ reqs, spaceOf r.addr ≠ .shadow ∧ spaceOf r.addr = spaceOf (r.addr + 3)) →
    s.targetsFrom u.ctx 0 1 .write false reqs [] [] = (s1, ts, []) →
    exec (.stm w) s = .next (doneWith ((ts.foldl (fun s x =>
      if s.targetDown x.2 then s.consumeStore u.ctx.uid u.ctx.core u.ctx.tenant
      else (s.markDirty x.2.leaves).setMeta (nth x.2.bytes 0 .zero) x.1.data.toNat)
        (s1.peerTraffic u.ctx.cluster u.ctx.tenant (ts.map (·.2)))).peerStore u.ctx ts) u (.stm w) [] 0#32)) ∧
  (∀ (s s1 : State) (w : MemWord) (u : Issuer) (r : Req) (x : Target) (k n : Nat), Acts s (.stm w) u w.offset [r] →
    spaceOf r.addr ≠ .shadow → spaceOf r.addr = spaceOf (r.addr + 3) →
    s.targetsFrom u.ctx 0 1 .write false [r] [] [] = (s1, [(r, x)], []) → s1.targetDown x = false →
    ((s1.peerTraffic u.ctx.cluster u.ctx.tenant [x]).markDirty x.leaves).metaOf (nth x.bytes 0 .zero) = (k, n) → 0 < n →
    ∃ t, exec (.stm w) s = .next t ∧ (t.mem.sectorMeta.look k).getD 0#28 = BitVec.ofNat 28 (r.data.toNat % 2 ^ n))

/-- A store to group scratch (SEG.S, R75, R371) writes the bytes at its address, the segment's base plus the offset in the cluster's
store, and no other byte of any memory. (The core's merge buffer holds no more than its 32 lines.) -/
def Claims.ScratchStoreWritesItsBytes : Prop :=
  ∀ (s : State) (w : MemWord) (u : Issuer) (r : Req) (n base off : Nat), s.mem.store.wf = true → Acts s (.st w) u w.offset [r] → w.oen = 0#1 → w.seg = 1#3 →
    s.overfull u.ctx.core = false → u.ctx.isComp = false → n = typeBytes w.mfmt.toNat → (u.ctx.seg 1).en = true → base = (u.ctx.seg 1).base.toNat → r.addr = (off : Int) →
    off + n ≤ (u.ctx.seg 1).limit.toNat → base + off + n ≤ 2 ^ 24 →
    ∃ t, exec (.st w) s = .next t ∧
      (∀ b, b < n → t.mem.store.byte (storeKey u.ctx.cluster (base + off) + b)
        = nth (bytesOf n (storeValue w.fmt.toNat w.mfmt.toNat r.data).1) b 0#8) ∧
      (∀ a, (a < storeKey u.ctx.cluster (base + off) ∨ storeKey u.ctx.cluster (base + off) + n ≤ a) → t.mem.store.byte a = s.mem.store.byte a) ∧
      t.mem.phys = s.mem.phys ∧ t.mem.host = s.mem.host ∧ t.mem.peer = s.mem.peer

/-- A load from group scratch (SEG.S) reads the bytes that stand at its address: the value is in flight to D, and no memory changes. -/
def Claims.ScratchLoadReadsItsBytes : Prop :=
  ∀ (s : State) (w : MemWord) (u : Issuer) (r : Req) (n base off : Nat), Acts s (.ld w) u w.offset [r] → w.oen = 0#1 → w.seg = 1#3 →
    u.ctx.isComp = false → n = typeBytes w.mfmt.toNat → 0 < n → (u.ctx.seg 1).en = true → base = (u.ctx.seg 1).base.toNat →
    r.addr = (off : Int) → off + n ≤ (u.ctx.seg 1).limit.toNat → base + off + n ≤ 2 ^ 24 → u.clause.pos < u.clause.words.length →
    w.sb.toNat < 6 →
    ∃ t c e, exec (.ld w) s = .next t ∧ t.ctx? u.key = some c ∧ t.mem = s.mem ∧ c.inflight = u.ctx.inflight ++ [e] ∧ e.sb = w.sb.toNat ∧
      e.writes = u.ctx.slotWrites (.ld w) r.slot (loadValue w.mfmt.toNat w.fmt.toNat false
        (s.mem.store.num (storeKey u.ctx.cluster (base + off)) n)) ∧ e.writes ≠ []

/-- `atom`, `red` and `scat` (R271-R273, R357, R363) complete: each target is updated once, in ascending slots, at its home; `atom` gives
the old value to D, `scat` first merges slots with equal addresses. The core's own lines for the targets drain first (R124). That the update
is made when the word issues, all its slots in one step, is the model's reading (notes/assumptions/4.md, notes/assumptions/82.md). -/
def Claims.AtomicsComplete : Prop :=
  (∀ (s s0 s1 s2 : State) (w : RegWord) (u : Issuer) (reqs : List Req) (ts : List (Req × Target)) (ws : List RegWrite) (p : Option Nat), Acts s (.atom w) u 0 reqs →
    s.targetsFrom u.ctx (Instr.atom w).memSeg (atomBytes w) .atomic true reqs [] [] = (s0, ts, []) → s0.atomsReady u.ctx ts = some s1 →
    ts.foldl (fun (acc : State × List RegWrite × Option Nat) x =>
      let r := acc.1.atomAt u.ctx (w.modAt 17 4) w.fmt.toNat (atomBytes w) x.2 x.1.b x.1.c (x.1.bads.any id)
      (r.1, acc.2.1 ++ u.ctx.slotWrites (.atom w) x.1.slot (BitVec.ofNat 128 r.2.1), match acc.2.2 with | some q => some q | none => r.2.2))
      (s1, [], none) = (s2, ws, p) →
    exec (.atom w) s = .next ((s2.peerStore u.ctx ts).settle u (.atom w) (.on ws 0#32 p))) ∧
  (∀ (s s0 s1 : State) (w : RegWord) (u : Issuer) (reqs : List Req) (ts : List (Req × Target)), Acts s (.red w) u 0 reqs →
    s.targetsFrom u.ctx (Instr.red w).memSeg (atomBytes w) .atomic true reqs [] [] = (s0, ts, []) → s0.atomsReady u.ctx ts = some s1 →
    exec (.red w) s = .next (doneWith
      ((ts.foldl (fun s x => (s.atomAt u.ctx (w.modAt 17 4) w.fmt.toNat (atomBytes w) x.2 x.1.b 0#64 (x.1.bads.any id)).1) s1).peerStore u.ctx ts) u (.red w) [] 0#32)) ∧
  (∀ (s s0 s1 : State) (w : RegWord) (u : Issuer) (reqs : List Req) (ts : List (Req × Target)), Acts s (.scat w) u 0 reqs →
    s.targetsFrom u.ctx 0 (atomBytes w) .atomic true reqs [] [] = (s0, ts, []) → s0.atomsReady u.ctx ts = some s1 →
    exec (.scat w) s = .next (doneWith (((combine (w.modAt 17 4) w.fmt.toNat ts).foldl
      (fun s x => (s.atomAt u.ctx (w.modAt 17 4) w.fmt.toNat (atomBytes w) x.2 x.1.b 0#64 (x.1.bads.any id)).1) s1).peerStore u.ctx ts) u (.scat w) [] 0#32))

/-- The operations of Table 14.4 on integers: add, min, max, and, or, xor, exchange, compare-and-swap, and the wrapping increment and
decrement. -/
def Claims.AtomicOperationsCompute : Prop :=
  ∀ (x y z : Word),
    atomNew 0 9 x.toNat y.toNat z.toNat = (x + y).toNat ∧ atomNew 0 8 x.toNat y.toNat z.toNat = (x + y).toNat ∧
    atomNew 1 9 x.toNat y.toNat z.toNat = min x.toNat y.toNat ∧ atomNew 2 9 x.toNat y.toNat z.toNat = max x.toNat y.toNat ∧
    atomNew 1 8 x.toNat y.toNat z.toNat = (if x.slt y then x else y).toNat ∧ atomNew 2 8 x.toNat y.toNat z.toNat = (if x.slt y then y else x).toNat ∧
    atomNew 3 9 x.toNat y.toNat z.toNat = (x &&& y).toNat ∧ atomNew 4 9 x.toNat y.toNat z.toNat = (x ||| y).toNat ∧
    atomNew 5 9 x.toNat y.toNat z.toNat = (x ^^^ y).toNat ∧ atomNew 6 9 x.toNat y.toNat z.toNat = y.toNat ∧
    atomNew 7 9 x.toNat y.toNat z.toNat = (if x = y then z else x).toNat ∧
    atomNew 8 9 x.toNat y.toNat z.toNat = (if y.ule x then 0#32 else x + 1#32).toNat ∧
    atomNew 9 9 x.toNat y.toNat z.toNat = (if x = 0#32 ∨ y.ult x then y else x - 1#32).toNat

/-- A memory word whose access faults (`ld`, `st`, `atom`, `red`, `scat`, `ldm`, `stm`) takes a free operand-log entry with its word, its
operands and the translated addresses of the slots that did not fault, its place, its masks and its fault, and leaves a FLOG record; it
writes no register, and its path goes on: to the next word of the clause, or after the last one to the next header (R149, R150, R266, R396).
A fault that is to reach software awaits delivery, and a word with field 7 counts no more (R148); one that a fault unit or the driver is to
resolve is parked there, and its word counts. -/
def Claims.FaultedWordIsLogged : Prop :=
  ∀ (s s1 : State) (i : Instr) (act : MemAct) (u : Issuer) (off : Int) (reqs : List Req) (f : AFault) (mask : Word) (a : Access)
      (got : List (Nat × Target)),
    ((∃ w, (i = .ld w ∨ i = .st w ∨ i = .ldm w ∨ i = .stm w) ∧ off = w.offset) ∨ (∃ w, (i = .atom w ∨ i = .red w ∨ i = .scat w) ∧ off = 0)) →
    memFn i = some act → Acts s i u off reqs → act s u.ctx reqs = (s1, .fault f mask a got) → s1.resolver u.ctx.tenant f ≠ .transit →
    ∃ t c n e p, exec i s = .next t ∧ t.ctx? u.key = some c ∧ u.ctx.log.look n = none ∧ n < 8 ∧ c.log.look n = some e ∧
      (∀ m, m ≠ n → c.log.look m = u.ctx.log.look m) ∧
      -- the entry
      e.word = i ∧ e.reqs = withGot reqs got ∧ e.active = u.path.mask ∧ e.guarded = u.guardMask i ∧ e.mask = mask ∧ e.path = u.path.id ∧
      e.pc = u.clause.pc ∧ e.pos = u.clause.pos ∧ e.sb = i.sbField ∧ e.code = BitVec.ofNat 8 f.code ∧ e.addr = dbl f.addr ∧ e.bva = dbl f.bva ∧
      (s1.resolver u.ctx.tenant f = .software → e.state = .toDeliver) ∧
      (s1.resolver u.ctx.tenant f ≠ .software → e.state = .parked ∧
        ∃ x ∈ t.eng.faults, x.2.who = .log u.key n ∧ x.2.code = BitVec.ofNat 8 f.code ∧ x.2.access = accessCode a) ∧
      -- the record
      (((s1.rel.galleys.look u.ctx.core).getD Recorder.fresh).stopped = false → ∃ g r, t.rel.galleys.look u.ctx.core = some g ∧
        g.recs.getLast? = some r ∧ r.cls = 1 ∧ r.code = 0x01#8 ∧ r.payload = dbl (f.code * 2 ^ 56 + f.addr % 2 ^ 56)) ∧
      -- the registers, the counts and the place in the clause
      c.s = u.ctx.s ∧ c.p = u.ctx.p ∧ c.x = u.ctx.x ∧ c.d = u.ctx.d ∧ c.astat = u.ctx.astat ∧ c.inflight = u.ctx.inflight ∧
      t.mem.store = s1.mem.store ∧ c.path? u.path.id = some p ∧
      (i.sbField < 6 → nth c.sb i.sbField 0 = nth u.ctx.sb i.sbField 0 + 1 ∧ p.ctr = u.path.ctr) ∧
      (i.sbField = 7 → c.sb = u.ctx.sb ∧ p.ctr = (if s1.resolver u.ctx.tenant f = .software then u.path.ctr else u.path.ctr + 1)) ∧
      (u.clause.pos < u.clause.words.length → p.pc = u.path.pc ∧
        (t.lane (u.key / 8)).clause = some { u.clause with pos := u.clause.pos + 1, await := false }) ∧
      (u.clause.words.length ≤ u.clause.pos → p.pc = u.clause.after ∧ (t.lane (u.key / 8)).clause = none)

/-- Every slot of such a word translates before any of them acts (R150): when slots fault, the fault raised is that of the lowest one with
the mask of the slots that faulted with its code, what the others translated to is kept, and nothing is loaded or stored (R266). -/
def Claims.TranslationFaultsAreRaised : Prop :=
  ∀ (s s1 : State) (c : Ctx) (reqs : List Req) (ts : List (Req × Target)) (x : Nat) (f : AFault) (bad : List (Nat × AFault)),
    let mask := maskOf (x :: (bad.filter fun e => e.2.code == f.code).map (·.1))
    let got := (ts.filter fun y => !((x, f) :: bad).any (·.1 == y.1.slot)).map fun y => (y.1.slot, y.2)
    (∀ w : MemWord, w.seg.toNat ≠ 5 → c.windowWaits w.seg.toNat reqs = false → (w.oen = 1#1 → s.releaseWaits c = false) →
      (s.targetsFrom c w.seg.toNat (typeBytes w.mfmt.toNat) .read false reqs [] [] = (s1, ts, (x, f) :: bad) →
        ldAct w s c reqs = (s1, .fault f mask .read got)) ∧
      (s.targetsFrom c w.seg.toNat (typeBytes w.mfmt.toNat) .write false reqs [] [] = (s1, ts, (x, f) :: bad) →
        stAct w s c reqs = (s1, .fault f mask .write got))) ∧
    (∀ w : RegWord,
      (s.targetsFrom c (Instr.atom w).memSeg (atomBytes w) .atomic true reqs [] [] = (s1, ts, (x, f) :: bad) →
        atomAct w s c reqs = (s1, .fault f mask .atomic got) ∧ redAct w s c reqs = (s1, .fault f mask .atomic got)) ∧
      (s.targetsFrom c 0 (atomBytes w) .atomic true reqs [] [] = (s1, ts, (x, f) :: bad) →
        scatAct w s c reqs = (s1, .fault f mask .atomic got))) ∧
    (∀ (w : MemWord) (r : Req), reqs = [r] → x = r.slot → bad = [] →
      (spaceOf r.addr ≠ .shadow → spaceOf r.addr = spaceOf (r.addr + 3) →
        (s.targetsFrom c 0 1 .read false [r] [] [] = (s1, [], [(x, f)]) → ldmAct w s c [r] = (s1, .fault f (maskOf [x]) .read [])) ∧
        (s.targetsFrom c 0 1 .write false [r] [] [] = (s1, [], [(x, f)]) → stmAct s c [r] = (s1, .fault f (maskOf [x]) .write []))) ∧
      ((c.seg 0).en = true → spaceOf r.addr = .shadow →
        f = { code := if (s.ownView c.tenant (r.addr.toNat / 2 ^ 44 % 4096)).isSome then 0x14 else 0x12, addr := wrapNat r.addr 64, bva := 0, page := 0 } →
        ldmAct w s c [r] = (s, .fault f (maskOf [x]) .read []) ∧ stmAct s c [r] = (s, .fault f (maskOf [x]) .write [])) ∧
      ((c.seg 0).en = true → spaceOf r.addr ≠ .shadow → spaceOf r.addr ≠ spaceOf (r.addr + 3) →
        f = { code := 0x16, addr := wrapNat r.addr 64, bva := 0, page := 0 } →
        ldmAct w s c [r] = (s, .fault f (maskOf [x]) .read []) ∧ stmAct s c [r] = (s, .fault f (maskOf [x]) .write [])))

/-- A memory word whose access faults stands in the operand log with a FLOG record, and its path goes on (R149, R150, R266, R396). -/
def Obligations.FaultedLoadIsLogged : Prop := Claims.FaultedWordIsLogged ∧ Claims.TranslationFaultsAreRaised

/-- `pref` (R349), `cinv` and `cwb` (R285) complete and write no register: the line of each active slot's address is filled, leaves the
cluster's cache, or drains from the core's merge buffer. -/
def Claims.CacheWordsComplete : Prop :=
  (∀ (s : State) (w : MemWord) (u : Issuer), Issues s (.pref w) u → u.symbolic = false →
    exec (.pref w) s = .next (doneWith ((s.capture u (.pref w) (slotsOf (activeOf u (.pref w))) w.offset).foldl
      (fun s r => s.prefetch u.ctx r.addr) s) u (.pref w) [] 0#32)) ∧
  (∀ (s : State) (w : RegWord) (u : Issuer) (x pa : Nat) (g : Target) (l : List Loc), Issues s (.cinv w) u → u.symbolic = false →
    slotsOf (activeOf u (.cinv w)) = [x] → s.cacheTarget u.ctx (s.argA u (.cinv w) x) = some g → g.shadow = none → g.bytes = .phys pa :: l →
    exec (.cinv w) s = .next (doneWith (s.dropSectors fun c _ _ => c.cluster == u.ctx.cluster && c.view.isNone && c.line == pa / 128)
      u (.cinv w) [] 0#32)) ∧
  (∀ (s : State) (w : RegWord) (u : Issuer) (x pa : Nat) (g : Target) (l : List Loc), Issues s (.cwb w) u → u.symbolic = false →
    slotsOf (activeOf u (.cwb w)) = [x] → s.cacheTarget u.ctx (s.argA u (.cwb w) x) = some g → g.shadow = none → g.bytes = .phys pa :: l →
    exec (.cwb w) s = .next (doneWith (s.drainWhere fun c => c.core == u.ctx.core && c.space == 0 && c.line == pa / 128) u (.cwb w) [] 0#32))

/-- What `pref` fills (R349, R107, R135): of a base address whose line the cluster may keep, all four sectors of the line are cached
afterwards, one that was not there with the bytes of its home slice; it changes nothing but caches, home slices and what tracks them,
and with SEG.G disabled, on a fault, or for another package nothing at all. -/
def Claims.PrefetchFillsLine : Prop :=
  (∀ (s : State) (c : Ctx) (a : Int), let t := s.prefetch c a
    t.work = s.work ∧ t.hub = s.hub ∧ t.eng = s.eng ∧ t.rel = s.rel ∧ t.out = s.out ∧ t.mem.phys = s.mem.phys ∧ t.mem.store = s.mem.store ∧
      t.mem.host = s.mem.host ∧ t.mem.peer = s.mem.peer ∧ t.mem.merge = s.mem.merge ∧ t.mem.tlb = s.mem.tlb ∧ t.mem.poison = s.mem.poison) ∧
  (∀ (s : State) (c : Ctx) (a : Int) (t : Target) (pa : Nat) (l : List Loc),
    (s.globalTarget c.requester.peek .read false a 1).2 = .ok t → t.isPeer = false → (c.seg 0).en = true → t.shadow = none →
    t.bytes = .phys pa :: l → (∀ k, k < 4 → s.mayKeep c.cluster (pa / 128 * 4 + k) = true) →
    ∀ k, k < 4 → ∃ x, (s.prefetch c a).cached c.cluster none (pa / 128) k = some x ∧
      (s.cached c.cluster none (pa / 128) k = none → ∀ i, i < 32 → x.bytes.byte i = s.physByte (pa / 128 * 128 + 32 * k + i))) ∧
  (∀ (s : State) (c : Ctx) (a : Int), (c.seg 0).en = false ∨ (∃ f, (s.globalTarget c.requester.peek .read false a 1).2 = .error f) ∨
      (∃ t, (s.globalTarget c.requester.peek .read false a 1).2 = .ok t ∧ t.isPeer = true) → s.prefetch c a = s)

/-- What a fence changes (R125, R300, Tables 7.3, 7.6): a release drains every line of the core's buffer and no other core's; an acquire at
gang scope or at scopes 4 to 7 leaves no sector of an SWC page in the cluster's cache, and takes none from another cluster; at another
scope it takes none. -/
def Claims.FencesDrainAndDrop : Prop :=
  (∀ (s : State) (c : Ctx) (scope : Nat), (∀ m ∈ s.mem.merge, m.core = c.core → m.space = 0) →
    let t := s.fenceBy c 1 scope
    (∀ m ∈ t.mem.merge, m.core ≠ c.core) ∧ (∀ m ∈ s.mem.merge, m.core ≠ c.core → m ∈ t.mem.merge)) ∧
  (∀ (s : State) (c : Ctx) (scope : Nat) (m : MergeLine), s.mem.merge.filter (fun x => x.core == c.core) = [m] →
    s.fenceBy c 1 scope = if 3 ≤ scope then (s.drainLine m).endRelaunch c else s.drainLine m) ∧
  (∀ (s : State) (c : Ctx) (scope : Nat), let t := s.fenceBy c 0 scope
    (scope = 2 ∨ 4 ≤ scope → (∀ l ∈ t.mem.cache, l.cluster = c.cluster → ∀ e ∈ l.sectors, e.2.swc = false) ∧
      (∀ l ∈ s.mem.cache, l.cluster ≠ c.cluster → l.sectors ≠ [] → l ∈ t.mem.cache) ∧
      (∀ l ∈ s.mem.cache, l.cluster = c.cluster → ∀ e ∈ l.sectors, e.2.swc = false → ∃ x ∈ t.mem.cache, e ∈ x.sectors ∧
        x.cluster = l.cluster ∧ x.view = l.view ∧ x.line = l.line)) ∧
    (scope < 2 ∨ scope = 3 → t = s) ∧
    t.mem.merge = s.mem.merge ∧ t.mem.phys = s.mem.phys ∧ t.mem.store = s.mem.store ∧ t.work = s.work ∧ t.hub = s.hub ∧ t.eng = s.eng)

/-! Barriers (R275, R299-R307, R340) -/

/-- `fence` (R300) completes once nothing holds its release: the core's buffer drains for a release, the cluster's stale sectors go for
an acquire, by its order and scope. -/
def Claims.FenceCompletes : Prop :=
  ∀ (s : State) (w : RegWord) (u : Issuer), Issues s (.fence w) u → (isRelease (w.modAt 17 2) = false ∨ s.releaseWaits u.ctx = false) →
    exec (.fence w) s = .next (doneWith (s.fenceBy u.ctx (w.modAt 17 2) (w.modAt 19 3)) u (.fence w) [] 0#32)

/-- `gang`, `gbar`, `gbar.gang` and `nbar` (R305, R306, R340) complete: the active items arrive in the current generation after the
release, `gang` gives the generation as a token, and the barrier words wait until that generation is over. -/
def Claims.GroupBarriersComplete : Prop :=
  (∀ (s : State) (w : RegWord) (u : Issuer) (k : Nat) (g : Gang), Issues s (.gang w) u → u.symbolic = false → s.releaseWaits u.ctx = false →
    (s.releaseCore u.ctx 2).gangKey u.ctx = some k → (s.releaseCore u.ctx 2).gangOf u.ctx = some g →
    exec (.gang w) s = .next (doneWith
      ((s.releaseCore u.ctx 2).arriveGang k ((s.releaseCore u.ctx 2).items u.ctx (activeOf u (.gang w)))) u (.gang w)
      (u.result (.gang w) (activeOf u (.gang w)) (g.gen.setWidth 128)) 0#32)) ∧
  (∀ (s : State) (w : RegWord) (u : Issuer) (k : Nat) (g : Group), Issues s (.gbar w) u → u.symbolic = false → w.modAt 17 1 = 0 →
    s.releaseWaits u.ctx = false → u.ctx.group = some k → (s.releaseCore u.ctx 1).groupOf u.ctx = some g →
    exec (.gbar w) s = .next (goesTo
      ((s.releaseCore u.ctx 1).arriveGroup k ((s.releaseCore u.ctx 1).items u.ctx (activeOf u (.gbar w)))) u (.gbar w)
      u.clause.after (.groupBar g.gen) [])) ∧
  (∀ (s : State) (w : RegWord) (u : Issuer) (x k : Nat) (r : List Nat) (g : Gang), Issues s (.gbar w) u → u.symbolic = false → w.modAt 17 1 = 1 →
    slotsOf (activeOf u (.gbar w)) = x :: r → s.gangKey u.ctx = some k → s.gangOf u.ctx = some g →
    (((s.argA u (.gbar w) x).setWidth 32 : Word) = g.gen → s.releaseWaits u.ctx = false →
      exec (.gbar w) s = .next (goesTo ((s.releaseCore u.ctx 2).arriveGang k (s.items u.ctx (activeOf u (.gbar w))))
        u (.gbar w) u.clause.after (.gangBar g.gen) [])) ∧
    (((s.argA u (.gbar w) x).setWidth 32 : Word) ≠ g.gen →
      exec (.gbar w) s = .next (goesTo (s.acquireCluster u.ctx.cluster 2) u (.gbar w) u.clause.after .none []))) ∧
  (∀ (s : State) (w : RegWord) (u : Issuer) (x k : Nat) (r : List Nat) (g : Group) (b : Named), Issues s (.nbar w) u → u.symbolic = false →
    slotsOf (activeOf u (.nbar w)) = x :: r → s.releaseWaits u.ctx = false → u.ctx.group = some k → s.mem.merge = [] →
    s.groupOf u.ctx = some g → b = (g.named.look ((s.argA u (.nbar w) x).toNat % 16)).getD Named.fresh →
    exec (.nbar w) s = .next (goesTo (s.changeGroup k fun g => { g with
        named := g.named.put ((s.argA u (.nbar w) x).toNat % 16) (b.arrive ((s.argB u (.nbar w) x).toNat % 2 ^ 32) (x :: r).length) })
      u (.nbar w) u.clause.after (if w.modAt 17 1 = 0 then .named ((s.argA u (.nbar w) x).toNat % 16) b.gen else .none) []))

/-- A named barrier (R340): the first arrival of a generation fixes what it expects, at most 1,024; the arrival that reaches the
expectation ends the generation and the count starts again at zero. -/
def Claims.NamedBarrierCounts : Prop :=
  ∀ (b : Named) (exp n : Nat),
    (b.cnt = 0 → min exp 1024 ≤ n → b.arrive exp n = { exp := min exp 1024, cnt := 0, gen := b.gen + 1#32 }) ∧
    (b.cnt = 0 → n < min exp 1024 → b.arrive exp n = { exp := min exp 1024, cnt := n, gen := b.gen }) ∧
    (0 < b.cnt → b.exp ≤ b.cnt + n → b.arrive exp n = { exp := b.exp, cnt := 0, gen := b.gen + 1#32 }) ∧
    (0 < b.cnt → b.cnt + n < b.exp → b.arrive exp n = { exp := b.exp, cnt := b.cnt + n, gen := b.gen })

/-- `binit`, `barv`, `btest` and `bwait` (R275) complete on the object that the lead slot names: it is set to the expectation; the bytes
arrive after a release at gang scope, which ends the relaunch of the gang where the object is no scratch of its own (R209); the flip of the
awaited phase is tested; the path waits for it, and where it has come, D takes ERR at once. -/
def Claims.ObjectWordsComplete : Prop :=
  (∀ (s : State) (w : RegWord) (u : Issuer) (r : Req) (q : List Req) (k : Nat), Acts s (.binit w) u 0 (r :: q) →
    s.objectAt u.ctx (w.modAt 17 1 == 1) r.addr.toNat = some k →
    exec (.binit w) s = .next (doneWith (s.initObj u.ctx.source k (r.b.toNat % 2 ^ 32)) u (.binit w) [] 0#32)) ∧
  (∀ (s : State) (w : RegWord) (u : Issuer) (r : Req) (q : List Req) (k : Nat), Acts s (.barv w) u 0 (r :: q) →
    s.objectAt u.ctx (w.modAt 17 1 == 1) r.addr.toNat = some k → s.releaseWaits u.ctx = false →
    let t := s.releaseCore u.ctx 2
    exec (.barv w) s = .next (doneWith ((if u.ctx.isComp = true ∨ t.ownScratch u.ctx k = true then t else t.endRelaunch u.ctx).arriveObj
      u.ctx.source k (r.b.toNat % 2 ^ 32)) u (.barv w) [] 0#32)) ∧
  (∀ (s : State) (w : RegWord) (u : Issuer) (r : Req) (q : List Req) (k : Nat), Acts s (.btest w) u 0 (r :: q) →
    s.objectAt u.ctx (w.modAt 17 1 == 1) r.addr.toNat = some k →
    (s.objPhase k = r.b.getLsbD 0 → exec (.btest w) s = .next (doneWith s u (.btest w)
      ((r :: q).flatMap fun y => u.ctx.slotWrites (.btest w) y.slot 0#128) 0#32)) ∧
    (s.objPhase k ≠ r.b.getLsbD 0 → exec (.btest w) s = .next (doneWith (s.observeFlip u.ctx (w.modAt 17 1 == 1)) u (.btest w)
      ((r :: q).flatMap fun y => u.ctx.slotWrites (.btest w) y.slot (BitVec.ofNat 128 (1 + 256 * s.objErr k))) 0#32))) ∧
  (∀ (s : State) (w : RegWord) (u : Issuer) (x k : Nat) (l : List Nat), Issues s (.bwait w) u → u.symbolic = false →
    slotsOf (activeOf u (.bwait w)) = x :: l → s.objectAt u.ctx (w.modAt 17 1 == 1) ((s.argA u (.bwait w) x).toNat % 2 ^ 32) = some k →
    (s.objPhase k = (s.argB u (.bwait w) x).getLsbD 0 → exec (.bwait w) s = .next (goesTo s u (.bwait w) u.clause.after
      (.object k ((s.argB u (.bwait w) x).getLsbD 0) (w.modAt 17 1 == 1) w.d (activeOf u (.bwait w))) [])) ∧
    (s.objPhase k ≠ (s.argB u (.bwait w) x).getLsbD 0 →
      exec (.bwait w) s = .next (goesTo (s.seeFlip u.ctx k (w.modAt 17 1 == 1)) u (.bwait w) u.clause.after .none
        (u.ctx.writesAt w.d 1 (activeOf u (.bwait w)) (dbl (s.objErr k))))))

/-- A barrier object (R84, R85): an arrival that stays below the expectation adds its bytes and counts; one that reaches it turns the
phase, and the bytes and the count are zero again, and every operation issued before sees the flip; going beyond it sets OVER. `binit` writes the expectation and clears the rest, the reserved
bytes included (R8); with an expectation of 0 the object flips at once. -/
def Claims.BarrierObjectsFlip : Prop :=
  ∀ (s : State) (f : Source) (k n : Nat), s.mem.store.wf = true → n < 2 ^ 32 →
    (s.objArr k + n < s.objExp k → (s.arriveObj f k n).objArr k = s.objArr k + n ∧ (s.arriveObj f k n).objPhase k = s.objPhase k ∧
      (s.arriveObj f k n).objCnt k = min 0xFFFF (s.objCnt k + 1) ∧ (s.arriveObj f k n).objExp k = s.objExp k) ∧
    (s.objExp k = s.objArr k + n → (s.arriveObj f k n).objArr k = 0 ∧ (s.arriveObj f k n).objPhase k = !s.objPhase k ∧
      (s.arriveObj f k n).objCnt k = 0 ∧ (s.arriveObj f k n).objErr k = s.objErr k ∧ ∀ i, i ≤ s.serial → (s.arriveObj f k n).flippedSince k i = true) ∧
    (s.objExp k < s.objArr k + n → (s.arriveObj f k n).objPhase k = !s.objPhase k ∧ (s.arriveObj f k n).objErr k = s.objErr k ||| 2) ∧
    (n ≠ 0 → (s.initObj f k n).objExp k = n ∧ (s.initObj f k n).objArr k = 0 ∧ (s.initObj f k n).objCnt k = 0 ∧
      (s.initObj f k n).objErr k = 0 ∧ (s.initObj f k n).objPhase k = s.objPhase k) ∧
    (n = 0 → (s.initObj f k n).objExp k = 0 ∧ (s.initObj f k n).objArr k = 0 ∧ (s.initObj f k n).objCnt k = 0 ∧
      (s.initObj f k n).objErr k = 0 ∧ (s.initObj f k n).objPhase k = !s.objPhase k ∧ ∀ i, i ≤ s.serial → (s.initObj f k n).flippedSince k i = true) ∧
    (s.initObj f k n).mem.store.num (k + 12) 4 = 0 ∧
    (∀ a, a < k ∨ k + 16 ≤ a → (s.initObj f k n).mem.store.byte a = s.mem.store.byte a ∧ (s.arriveObj f k n).mem.store.byte a = s.mem.store.byte a)

/-! Copies, gathers and chains -/

/-- `cpy`, `cpyt`, `gath` and `psel` (R286, R288, R308, R352) complete: with a free place in the channel's or the engine's queue and
nothing that holds the release, the operation stands at the end of the queue and names its object as it is at issue, or for `cpyt` its
record; a `cpy` of no bytes does nothing. -/
def Obligations.AsynchronousWordsQueue : Prop :=
  (∀ (s : State) (w : RegWord) (u : Issuer) (r : Req) (q : List Req) (k : Nat) (src dst : Place), Acts s (.cpy w) u 0 (r :: q) →
    s.objectAt u.ctx (w.modAt 21 1 == 1) (r.c.toNat % 2 ^ 32) = some k →
    (w.modAt 18 1 = 0 → src = .va (r.a.toNat : Int)) → (w.modAt 17 1 = 0 → dst = .va ((r.data.toNat % 2 ^ 64 : Nat) : Int)) →
    (w.modAt 18 1 = 1 → u.ctx.rangeOk (r.a.toNat % 2 ^ 32) (r.b.toNat % 2 ^ 32) = true ∧
      src = .store u.ctx.cluster (((u.ctx.seg 1).base.toNat + r.a.toNat % 2 ^ 32 : Nat) : Int)) →
    (w.modAt 17 1 = 1 → u.ctx.rangeOk (r.data.toNat % 2 ^ 32) (r.b.toNat % 2 ^ 32) = true ∧
      dst = .store u.ctx.cluster (((u.ctx.seg 1).base.toNat + r.data.toNat % 2 ^ 32 : Nat) : Int)) →
    (r.b.toNat % 2 ^ 32 ≠ 0 → (s.chan u.ctx.cluster (w.modAt 19 2)).queue.length < 16 → s.releaseWaits u.ctx = false →
      exec (.cpy w) s = .next (doneWith ((s.releaseCore u.ctx 2).setChan u.ctx.cluster (w.modAt 19 2) fun x => { x with queue := x.queue ++
        [u.ctx.copyOp src dst (r.b.toNat % 2 ^ 32) none (some (s.objRef k)) s.serial] }) u (.cpy w) [] 0#32)) ∧
    (r.b.toNat % 2 ^ 32 = 0 → exec (.cpy w) s = .next (doneWith s u (.cpy w) [] 0#32))) ∧
  (∀ (s : State) (w : RegWord) (u : Issuer) (r : Req) (q : List Req), Acts s (.cpyt w) u 0 (r :: q) →
    (s.chan u.ctx.cluster (w.modAt 19 2)).queue.length < 16 → s.releaseWaits u.ctx = false →
    exec (.cpyt w) s = .next (doneWith ((s.releaseCore u.ctx 2).setChan u.ctx.cluster (w.modAt 19 2) fun x => { x with queue := x.queue ++
      [u.ctx.copyOp (.va 0) (.va 0) 0 (some r.a) none s.serial] }) u (.cpyt w) [] 0#32)) ∧
  (∀ (s s1 s2 : State) (w : RegWord) (i : Instr) (u : Issuer) (r : Req) (q : List Req) (ts : List (Req × Target)) (bs : List Byte)
      (psel : Bool) (op : GatherOp) (k : Nat), ((i = .gath w ∧ psel = false) ∨ (i = .psel w ∧ psel = true)) → Acts s i u 0 (r :: q) →
    r.a.toNat % 64 = 0 →
    s.targetsFrom u.ctx 0 16 .read false ((List.range 4).map fun j => { r with addr := ((r.a.toNat + 16 * j : Nat) : Int) }) [] [] = (s1, ts, []) →
    s1.readRecords u.ctx ts = (s2, bs) →
    op = { psel := psel, words := doublesOf bs 8, va := r.a, units := [], phase := 0, chosen := [], obj := none, failed := none,
           linkLost := false, node := u.ctx.node, isNode := false, group := u.ctx.group, owner := u.ctx.uid, tenant := u.ctx.tenant,
           priv := u.ctx.priv, recorder := u.ctx.core, held := false } →
    s2.objectAt u.ctx false (if psel then op.at_ 0x24 4 else op.at_ 0x30 4) = some k →
    (psel = true → op.copies = true → op.pick * 2 ^ op.lps * 128 ≠ 0 → u.ctx.rangeOk (op.at_ 0x20 4) (op.pick * 2 ^ op.lps * 128) = true) →
    (psel = false → op.dsp = true → op.count * op.size ≠ 0 → u.ctx.rangeOk (op.at_ 0x10 8) (op.count * op.size) = true) →
    (s2.gathers u.ctx.cluster).length < 16 → s2.releaseWaits u.ctx = false →
    let s3 := (s2.releaseCore u.ctx 2).peerMessage u.ctx ts
    exec i s = .next (doneWith (s3.setGathers u.ctx.cluster (s3.gathers u.ctx.cluster ++ [{ op with obj := some (s3.objRef k) }])) u i [] 0#32))

/-- `chapp` reserves the next position of a chain (R53, R283): TAIL rises by one, the word gives the sequence number above the entry's VA
with its phase; a full ring reserves nothing and gives zero. -/
def Claims.ChappReserves : Prop :=
  ∀ (s : State) (w : RegWord) (u : Issuer) (r : Req), s.mem.phys.wf = true → Acts s (.chapp w) u 0 [r] → s.chainBad u.ctx true r.addr.toNat = false →
    let c := r.addr.toNat
    (s.chainTail c - s.chainSeq c ≠ s.chainRing c → s.chainTail c < 2 ^ 64 - 1 →
      ∃ t, exec (.chapp w) s = .next (doneWith t u (.chapp w) (u.ctx.slotWrites (.chapp w) r.slot (BitVec.ofNat 128
          ((s.chainTail c + 1) * 2 ^ 64 + (s.chainBase c + 16 * (s.chainTail c % s.chainRing c) + (1 - s.chainTail c / s.chainRing c % 2)) % 2 ^ 64))) 0#32) ∧
        t.chainTail c = s.chainTail c + 1 ∧ t.chainSeq c = s.chainSeq c ∧ t.chainBase c = s.chainBase c ∧ t.chainCtl c = s.chainCtl c ∧
        (∀ a, (a < s.ccbAt c 0x10 ∨ s.ccbAt c 0x18 ≤ a) → t.mem.phys.byte a = s.mem.phys.byte a) ∧ t.mem.store = s.mem.store) ∧
    (s.chainTail c - s.chainSeq c = s.chainRing c →
      exec (.chapp w) s = .next (doneWith (s.endRelaunch u.ctx) u (.chapp w) (u.ctx.slotWrites (.chapp w) r.slot 0#128) 0#32))

/-- `chsq`, `sqwait` and `tsub` (R284, R366, R378) complete: CSEQ is read with an acquire; the path waits for it; a reserved entry is
written with its node and phase after a release at system scope, and its sequence number is the result. -/
def Claims.ChainReadsComplete : Prop :=
  (∀ (s : State) (w : RegWord) (u : Issuer) (reqs : List Req), Acts s (.chsq w) u 0 reqs →
    (∀ r ∈ reqs, s.chainBad u.ctx false r.addr.toNat = false) →
    exec (.chsq w) s = .next (doneWith (s.acquireCluster u.ctx.cluster 5) u (.chsq w)
      (reqs.flatMap fun r => u.ctx.slotWrites (.chsq w) r.slot (BitVec.ofNat 128 (s.chainSeq r.addr.toNat))) 0#32)) ∧
  (∀ (s : State) (w : RegWord) (u : Issuer) (x : Nat) (l : List Nat), Issues s (.sqwait w) u → u.symbolic = false →
    slotsOf (activeOf u (.sqwait w)) = x :: l → s.chainBad u.ctx false ((s.argA u (.sqwait w) x).toNat % 2 ^ 32) = false →
    exec (.sqwait w) s = .next (goesTo s u (.sqwait w) u.clause.after
      (.chain ((s.argA u (.sqwait w) x).toNat % 2 ^ 32) (s.argB u (.sqwait w) x).toNat w.d (activeOf u (.sqwait w))) [])) ∧
  (∀ (s s1 : State) (w : RegWord) (u : Issuer) (r : Req) (q e ph : Nat), Acts s (.tsub w) u 0 [r] → s.chainBad u.ctx true r.addr.toNat = false →
    s.releaseWaits u.ctx = false → (s.releaseCore u.ctx 5).reserve u.ctx r.addr.toNat = (s1, some (q, e, ph)) →
    exec (.tsub w) s = .next (doneWith (s1.writeEntry u.ctx e r.b ph) u (.tsub w)
      (u.ctx.slotWrites (.tsub w) r.slot (BitVec.ofNat 128 q)) 0#32))

/-! The matrix unit -/

/-- `dld` and `dsv` (R291) move a record of 64 bytes between memory and a descriptor slot: a `dld` from a range of the cluster's store
gives slot D those bytes, a `dsv` writes the slot's bytes there and changes no other byte of the store. -/
def Claims.DescriptorWordsMoveRecords : Prop :=
  (∀ (s : State) (w : RegWord) (u : Issuer) (r : Req) (base off : Nat), Acts s (.dld w) u 0 [r] → w.modAt 17 1 = 1 → u.ctx.isComp = true →
    (u.ctx.seg 1).en = true → base = (u.ctx.seg 1).base.toNat → r.addr = (off : Int) → off % 64 = 0 → off + 64 ≤ (u.ctx.seg 1).limit.toNat →
    base + off + 64 ≤ 2 ^ 24 → bankMode (s.bankWord u.ctx.cluster (off / 32768)) = 1 → bankState (s.bankWord u.ctx.cluster (off / 32768)) = 0 →
    exec (.dld w) s = .next (doneWith s u (.dld w)
      [.d (w.d.toNat % 32) (BitVec.ofNat 512 (s.mem.store.num (storeKey u.ctx.cluster (base + off)) 64))] 0#32)) ∧
  (∀ (s : State) (w : RegWord) (u : Issuer) (r : Req) (base off : Nat), s.mem.store.wf = true → Acts s (.dsv w) u 0 [r] → w.modAt 17 1 = 1 → u.ctx.isComp = true →
    s.overfull u.ctx.core = false →
    (u.ctx.seg 1).en = true → base = (u.ctx.seg 1).base.toNat → r.addr = (off : Int) → off % 64 = 0 → off + 64 ≤ (u.ctx.seg 1).limit.toNat →
    base + off + 64 ≤ 2 ^ 24 → bankMode (s.bankWord u.ctx.cluster (off / 32768)) = 1 → bankState (s.bankWord u.ctx.cluster (off / 32768)) = 0 →
    ∃ t, exec (.dsv w) s = .next t ∧
      BitVec.ofNat 512 (t.mem.store.num (storeKey u.ctx.cluster (base + off)) 64) = u.ctx.readD (w.b.toNat % 32) ∧
      (∀ a, (a < storeKey u.ctx.cluster (base + off) ∨ storeKey u.ctx.cluster (base + off) + 64 ≤ a) →
        t.mem.store.byte a = s.mem.store.byte a) ∧ t.mem.phys = s.mem.phys)

/-- `mma`, `mmab`, `mmas` and `mzero` (R332, R334) queue an operation with copies of the records in their slots when every check of R189
passes and the queue of four has room; when a check fails the word raises MDESC and queues nothing. `mwait` waits for the operations
beyond its count, `mprog` reads MPROG when it commits (R335, R336). -/
def Claims.MatrixWordsQueue : Prop :=
  (∀ (s : State) (i : Instr) (w : RegWord) (f : MatForm) (u : Issuer),
    ((i = .mma w ∧ f = .dense) ∨ (i = .mmab w ∧ f = .block) ∨ (i = .mmas w ∧ f = .sparse) ∨ (i = .mzero w ∧ f = .zero)) → Issues s i u →
    activeOf u i ≠ 0#32 →
    let c := u.ctx.readD (w.d.toNat % 32)
    let a := u.ctx.readD (w.a.toNat % 32)
    let b := u.ctx.readD (w.b.toNat % 32)
    let ok := match f with
      | .zero => s.okC u.ctx.cluster (matDesc c)
      | _ => s.okMat u.ctx.cluster f (matDesc c) (matDesc a) (matDesc b)
    (ok = true → (s.matrix u.ctx.cluster).queue.length < 4 → s.releaseWaits u.ctx = false →
      exec i s = .next (doneWith ((s.releaseCore u.ctx 2).setMatrix u.ctx.cluster fun x => { x with queue := x.queue ++
        [{ form := f, c := c, a := a, b := b, pc := u.clause.pc, pos := u.clause.pos, next := u.clause.after, node := u.ctx.node,
           tenant := u.ctx.tenant, priv := u.ctx.priv }] }) u i [] 0#32)) ∧
    (ok = false → exec i s = .next (s.settle u i (.trap 0x05#8 0#64 (activeOf u i))))) ∧
  (∀ (s : State) (w : RegWord) (u : Issuer), Issues s (.mwait w) u → activeOf u (.mwait w) ≠ 0#32 →
    exec (.mwait w) s = .next (goesTo s u (.mwait w) u.clause.after (.matrix (w.modAt 17 2)) [])) ∧
  (∀ (s : State) (w : RegWord) (u : Issuer), Issues s (.mprog w) u → activeOf u (.mprog w) ≠ 0#32 →
    exec (.mprog w) s = .next (doneWith s u (.mprog w) [.mprog w.d.toNat] 0#32))

/-! Registers of the context and of the device -/

/-- `rgrow` and `rshrink` (R360, R361) complete: a growth beyond 24 granules traps, one by zero gives the size at once, another waits for
its grant or gives 0 where its lane could never grant it; `rshrink` keeps the lowest granules, at least one. -/
def Obligations.RegisterGrowthCompletes : Prop :=
  (∀ (s : State) (w : RegWord) (u : Issuer) (x : Nat) (l : List Nat) (g : Nat), Issues s (.rgrow w) u → u.symbolic = false →
    slotsOf (activeOf u (.rgrow w)) = x :: l → g = (s.argA u (.rgrow w) x).toNat % 2 ^ 32 →
    (24 < u.ctx.map.length + g → exec (.rgrow w) s = .next (s.settle u (.rgrow w) (.trap 0x08#8 0#64 (activeOf u (.rgrow w))))) ∧
    (u.ctx.map.length ≤ 24 → g = 0 → exec (.rgrow w) s = .next (goesTo s u (.rgrow w) u.clause.after .none
      (u.result (.rgrow w) (activeOf u (.rgrow w)) (BitVec.ofNat 128 u.ctx.map.length)))) ∧
    (u.ctx.map.length + g ≤ 24 → 0 < g → u.ctx.map.length + g + s.groupGranules u.ctx ≤ 32 →
      exec (.rgrow w) s = .next (goesTo s u (.rgrow w) u.clause.after (.grow g w.d (activeOf u (.rgrow w)) s.fCyc) [])) ∧
    (u.ctx.map.length + g ≤ 24 → 0 < g → 32 < u.ctx.map.length + g + s.groupGranules u.ctx →
      exec (.rgrow w) s = .next (goesTo s u (.rgrow w) u.clause.after .none (u.result (.rgrow w) (activeOf u (.rgrow w)) 0#128)))) ∧
  (∀ (s : State) (w : RegWord) (u : Issuer) (x : Nat) (l : List Nat) (n : Nat), Issues s (.rshrink w) u → u.symbolic = false →
    slotsOf (activeOf u (.rshrink w)) = x :: l → n = max 1 ((s.argA u (.rshrink w) x).toNat % 2 ^ 32) →
    ∃ t, exec (.rshrink w) s = .next (doneWith t u (.rshrink w)
        (u.result (.rshrink w) (activeOf u (.rshrink w)) (BitVec.ofNat 128 (min n u.ctx.map.length))) 0#32) ∧
      (∃ c, t.ctx? u.key = some c ∧ c.map = u.ctx.map.take n ∧ c.s = u.ctx.s) ∧ t.mem = s.mem)

/-- `segld` and `mark` complete (R364, R330): the four registers at the lead slot become the segment register; one Galley record of class 0
with the code and the payload goes to the core's or compositor's recorder. -/
def Claims.SegldAndMarkComplete : Prop :=
  (∀ (s : State) (w : RegWord) (u : Issuer) (x : Nat) (l : List Nat), Issues s (.segld w) u → u.symbolic = false →
    slotsOf (activeOf u (.segld w)) = x :: l →
    exec (.segld w) s = .next (doneWith (s.changeCtx u.key fun c => { c with segs := c.segs.set (w.modAt 17 3) (segOfBits (s.readQuad u.ctx x w.a)) })
      u (.segld w) [] 0#32)) ∧
  (∀ (s : State) (w : ImmWord) (u : Issuer) (x : Nat) (l : List Nat), Issues s (.mark w) u → u.symbolic = false →
    slotsOf (activeOf u (.mark w)) = x :: l →
    exec (.mark w) s = .next (doneWith (s.galleyCtx u.ctx 0 (BitVec.ofNat 8 (w.imm.toNat % 64))
      (if w.imm.getLsbD 8 then s.argA u (.mark w) x else 0#64)) u (.mark w) [] 0#32))

/-- A Galley record (R215, R216): it goes to the end of the ring of its recorder, the count of records written rises, a full ring loses
its oldest; a recorder that has stopped takes none. -/
def Claims.GalleyKeepsNewest : Prop :=
  ∀ (s : State) (r cls tenant kind ctx : Nat) (code : BitVec 8) (x : Dbl) (g : Recorder),
    (s.rel.galleys.look r).getD Recorder.fresh = g →
    (g.stopped = true → s.galley r cls code tenant kind ctx x = s) ∧
    (g.stopped = false → ∃ g', (s.galley r cls code tenant kind ctx x).rel.galleys.look r = some g' ∧ g'.written = g.written + 1 ∧
      (∃ e, g'.recs.getLast? = some e ∧ e.cls = cls ∧ e.code = code ∧ e.payload = x ∧ e.cyc = word (s.cyc r) ∧
        e.tenant = if code.getLsbD 7 then 0 else tenant) ∧
      (g.recs.length < ringCap r → g'.recs.length = g.recs.length + 1) ∧
      (g.recs.length = ringCap r → g'.recs.length = g.recs.length) ∧
      (s.galley r cls code tenant kind ctx x).mem = s.mem ∧ (s.galley r cls code tenant kind ctx x).work = s.work)

/-- `srd` and `srw` (R367, R368) complete: D takes the register at the address when the reader may read it at that width, else zero; a
write goes to the register under its own rules when the width fits. `bmode` asks for a bank's mode (R278), `frz` raises a fatal event at
the core's recorder (R301). -/
def Claims.SystemWordsAct : Prop :=
  (∀ (s : State) (w : RegWord) (u : Issuer) (x : Nat) (l : List Nat) (v : Dbl), Issues s (.srd w) u → u.symbolic = false →
    slotsOf (activeOf u (.srd w)) = x :: l →
    ((∃ r, regAt (some u.ctx.cluster) (s.argA u (.srd w) x).toNat = some r ∧ r.wide = (w.fmt == 0xA#4) ∧
        (u.ctx.priv = true ∨ r.userRead u.ctx.tenant = true) ∧ v = s.readReg64 r) ∨
     (regAt (some u.ctx.cluster) (s.argA u (.srd w) x).toNat = none ∧ v = 0#64) ∨
     (∃ r, regAt (some u.ctx.cluster) (s.argA u (.srd w) x).toNat = some r ∧ u.ctx.priv = false ∧ r.userRead u.ctx.tenant = false ∧ v = 0#64)) →
    exec (.srd w) s = .next (doneWith s u (.srd w) (u.result (.srd w) (activeOf u (.srd w)) (v.setWidth 128)) 0#32)) ∧
  (∀ (s : State) (w : RegWord) (u : Issuer) (x : Nat) (l : List Nat) (r : RegName), Issues s (.srw w) u → u.symbolic = false →
    slotsOf (activeOf u (.srw w)) = x :: l → regAt (some u.ctx.cluster) (s.argA u (.srw w) x).toNat = some r → r.wide = (w.fmt == 0xA#4) →
    exec (.srw w) s = .next (doneWith (s.writeReg64 .device r (s.argB u (.srw w) x)) u (.srw w) [] 0#32)) ∧
  (∀ (s : State) (w : RegWord) (u : Issuer) (x : Nat) (l : List Nat), Issues s (.bmode w) u → u.symbolic = false →
    slotsOf (activeOf u (.bmode w)) = x :: l →
    let r := s.bankRequest u.ctx.cluster (s.argA u (.bmode w) x).toNat (s.argB u (.bmode w) x).toNat
    exec (.bmode w) s = .next (doneWith r.1 u (.bmode w) (u.result (.bmode w) (activeOf u (.bmode w)) (BitVec.ofNat 128 r.2)) 0#32)) ∧
  (∀ (s : State) (w : RegWord) (u : Issuer) (x : Nat) (l : List Nat), Issues s (.frz w) u → u.symbolic = false →
    slotsOf (activeOf u (.frz w)) = x :: l →
    exec (.frz w) s = .next (doneWith (s.fatal 5 u.ctx.core) u (.frz w) [] 0#32))

/-- `frz` and `bmode` of a trunk or limb (R268, R32): a uniform guard that is true and uniform operands let the context perform the word once,
for all its items, with `bmode`'s answer staged as a uniform value; a true guard that is a range predicate, or a `bmode` operand that is not
uniform, makes the context materialise, and the word has no effect until warps run it. A false uniform guard gives no effect. -/
def Claims.SystemWordsOfTrunks : Prop :=
  (∀ (s : State) (w : RegWord) (u : Issuer), Issues s (.frz w) u → u.symbolic = true → u.path.mask ≠ 0#32 →
    (u.sguard (.frz w) = .uni true → exec (.frz w) s = .next (doneWith (s.fatal 5 u.ctx.core) u (.frz w) [] 0#32)) ∧
    (u.sguard (.frz w) = .uni false → exec (.frz w) s = .next (doneWith s u (.frz w) [] 0#32)) ∧
    (∀ ax lo hi out, u.sguard (.frz w) = .range ax lo hi out →
      exec (.frz w) s = .next ((s.changeCtx u.key fun c => { c with must := true }).changeLane (u.key / 8) fun l => { l with clause := none }))) ∧
  (∀ (s : State) (w : RegWord) (u : Issuer), Issues s (.bmode w) u → u.symbolic = true → u.path.mask ≠ 0#32 →
    let v := u.ctx.sym u.clause.stage
    (u.sguard (.bmode w) = .uni true → v.value (.src 1) w.a ≠ none → v.value (.src 1) w.b ≠ none → ∀ x l,
      slotsOf u.path.mask = x :: l →
      let r := s.bankRequest u.ctx.cluster (s.argA u (.bmode w) x).toNat (s.argB u (.bmode w) x).toNat
      exec (.bmode w) s = .next (doneWith r.1 u (.bmode w) (u.result (.bmode w) u.path.mask (BitVec.ofNat 128 r.2)) 0#32)) ∧
    (v.value (.src 1) w.a = none ∨ v.value (.src 1) w.b = none →
      exec (.bmode w) s = .next ((s.changeCtx u.key fun c => { c with must := true }).changeLane (u.key / 8) fun l => { l with clause := none })))

/-- A request for a bank's mode (R69, R278, Table 14.6): in a stable bank another mode is taken up and the bank drains; the mode it has gives
1, a bank that is changing 2, a number or mode that is none 3, and nothing changes but the reuse latch of the bank's lane (R74). -/
def Claims.BankRequestAnswers : Prop :=
  ∀ (s : State) (cluster bank mode : Nat),
    (511 < bank → s.bankRequest cluster bank mode = (s, 3)) ∧
    (bank ≤ 511 → 3 < mode → s.bankRequest cluster bank mode = (s.clearLatch (laneKey cluster bank), 3)) ∧
    (bank ≤ 511 → mode ≤ 3 → bankState (s.bankWord cluster bank) ≠ 0 →
      s.bankRequest cluster bank mode = (s.clearLatch (laneKey cluster bank), 2)) ∧
    (bank ≤ 511 → mode ≤ 3 → bankState (s.bankWord cluster bank) = 0 → bankMode (s.bankWord cluster bank) = mode →
      s.bankRequest cluster bank mode = (s.clearLatch (laneKey cluster bank), 1)) ∧
    (bank ≤ 511 → ((s.clearLatch (laneKey cluster bank)).lane (laneKey cluster bank)).latch = [] ∧
      (s.clearLatch (laneKey cluster bank)).mem = s.mem ∧ (s.clearLatch (laneKey cluster bank)).work.ctxs = s.work.ctxs) ∧
    (bank ≤ 511 → mode ≤ 3 → bankState (s.bankWord cluster bank) = 0 → bankMode (s.bankWord cluster bank) ≠ mode →
      (s.bankRequest cluster bank mode).2 = 0 ∧
      bankMode ((s.bankRequest cluster bank mode).1.bankWord cluster bank) = bankMode (s.bankWord cluster bank) ∧
      bankNext ((s.bankRequest cluster bank mode).1.bankWord cluster bank) = mode ∧
      bankState ((s.bankRequest cluster bank mode).1.bankWord cluster bank) = 1 ∧ (s.bankRequest cluster bank mode).1.mem = s.mem)

/-- Registers of the privileged space keep their rules (Table 16.13, R229, R235, R368): a device may not write ILV, DROP, PEER.SELF,
PEER.DOM or PTROOT; PWR.LIMIT is held between 800 and 2400; HOT.SKIP is cleared by 0 alone; identifications and PEER.DOWN are read-only. -/
def Claims.RegisterWritesKeepRules : Prop :=
  ∀ (s : State) (x : Dbl),
    (∀ by_ r, by_ ≠ .root → r ∈ [RegName.ilv 0, .ilv 1, .ilv 2, .ilv 3, .drop, .peerSelf, .peerDom, .ptroot 0, .ptroot 15] → s.writeReg64 by_ r x = s) ∧
    (∀ by_ h, s.writeReg64 by_ (.id h) x = s ∧ s.writeReg64 by_ (.peerDown h) x = s) ∧
    (∀ by_, 800 ≤ (s.writeReg64 by_ .pwr x).hub.pwr.toNat ∧ (s.writeReg64 by_ .pwr x).hub.pwr.toNat ≤ 2400 ∧
      (800 ≤ x.toNat → x.toNat ≤ 2400 → (s.writeReg64 by_ .pwr x).hub.pwr = x)) ∧
    (∀ by_ h, x.setWidth 32 ≠ 0#32 → s.writeReg64 by_ (.hotSkip h) x = s)

/-! Pages and views -/

/-- `tlbi`, `pgattr`, `pshare` and `prel` (R374, R348, R350, R351) complete for addresses outside the shadow space: the stores under way are
accepted and the translations go; the range's result and changes, the shared entry's and the released page's follow their tables. While a
line of a buffer with bytes of the range is held by a fault, a `pgattr` waits with its pages in transit (the model's choice,
notes/assumptions/117.md). -/
def Claims.PageWordsAct : Prop :=
  (∀ (s : State) (w : RegWord) (u : Issuer) (r : Req) (q : List Req), Acts s (.tlbi w) u 0 (r :: q) →
    (w.modAt 21 2 = 0 → r.a.toNat < 2 ^ 56 →
      exec (.tlbi w) s = .next (doneWith ((s.drainWhere fun _ => true).tlbDropPage (w.modAt 17 4) r.a.toNat) u (.tlbi w) [] 0#32)) ∧
    (w.modAt 21 2 = 1 → exec (.tlbi w) s
      = .next (doneWith ((s.drainWhere fun _ => true).tlbDrop fun x => x.tenant == w.modAt 17 4) u (.tlbi w) [] 0#32)) ∧
    (w.modAt 21 2 = 2 → exec (.tlbi w) s = .next (doneWith ((s.drainWhere fun _ => true).tlbDrop fun _ => true) u (.tlbi w) [] 0#32))) ∧
  (∀ (s : State) (w : RegWord) (u : Issuer) (r : Req) (q : List Req), Acts s (.pgattr w) u 0 (r :: q) → spaceOf (r.a.toNat : Int) ≠ .shadow →
    let ps := s.rangePages (w.modAt 17 4) (r.a.toNat + r.b.toNat) (r.b.toNat / 65536 + 1) r.a.toNat
    (∀ n, s.pgattrBad r.a.toNat r.b.toNat r.c.toNat (w.modAt 17 4) ps = some n → exec (.pgattr w) s
      = .next (doneWith (s.endTransit u.ctx.uid) u (.pgattr w)
        ((r :: q).flatMap fun y => u.ctx.slotWrites (.pgattr w) y.slot (BitVec.ofNat 128 n)) 0#32)) ∧
    (s.pgattrBad r.a.toNat r.b.toNat r.c.toNat (w.modAt 17 4) ps = none → (s.drainWhere fun _ => true).heldOn ps = false →
      exec (.pgattr w) s = .next (doneWith
      (ps.foldl (fun s p => s.changePage (w.modAt 17 4) (r.c.toNat % 4) (r.c.toNat / 4 % 128) p)
        ((s.drainWhere fun _ => true).endTransit u.ctx.uid))
      u (.pgattr w) ((r :: q).flatMap fun y => u.ctx.slotWrites (.pgattr w) y.slot 0#128) 0#32)) ∧
    (s.pgattrBad r.a.toNat r.b.toNat r.c.toNat (w.modAt 17 4) ps = none → (s.drainWhere fun _ => true).heldOn ps = true →
      exec (.pgattr w) s = .next ((s.drainWhere fun _ => true).markTransit u.ctx.uid (w.modAt 17 4) (r.c.toNat % 4)
        (r.c.toNat / 4 % 128) ps))) ∧
  (∀ (s : State) (w : RegWord) (u : Issuer) (r : Req) (q : List Req), Acts s (.pshare w) u 0 (r :: q) → spaceOf (r.a.toNat : Int) ≠ .shadow →
    spaceOf (r.b.toNat : Int) ≠ .shadow → exec (.pshare w) s = .next (doneWith (s.share u.ctx.tenant r.a.toNat r.b.toNat).1 u (.pshare w)
      ((r :: q).flatMap fun y => u.ctx.slotWrites (.pshare w) y.slot (BitVec.ofNat 128 (s.share u.ctx.tenant r.a.toNat r.b.toNat).2)) 0#32)) ∧
  (∀ (s : State) (w : RegWord) (u : Issuer) (r : Req) (q : List Req), Acts s (.prel w) u 0 (r :: q) → spaceOf (r.a.toNat : Int) ≠ .shadow →
    exec (.prel w) s = .next (doneWith (s.unshare u.ctx.tenant r.a.toNat).1 u (.prel w)
      ((r :: q).flatMap fun y => u.ctx.slotWrites (.prel w) y.slot (BitVec.ofNat 128 (s.unshare u.ctx.tenant r.a.toNat).2)) 0#32))

/-- `tlbi` (R146, R374): of the translations in all caches exactly those of the page, or of the tenant, go; nothing else changes. -/
def Claims.TranslationsGo : Prop :=
  ∀ (s : State) (tenant va : Nat), s.hub = (s.tlbDropPage tenant va).hub ∧
    (s.tlbDropPage tenant va).mem = { s.mem with tlb := (s.tlbDropPage tenant va).mem.tlb } ∧ (s.tlbDropPage tenant va).work = s.work ∧
    (∀ x, x ∈ (s.tlbDropPage tenant va).mem.tlb ↔ x ∈ s.mem.tlb ∧ ¬(x.tenant = tenant ∧ x.page = va / 2 ^ x.size)) ∧
    (∀ x, x ∈ (s.tlbDrop fun y => y.tenant == tenant).mem.tlb ↔ x ∈ s.mem.tlb ∧ x.tenant ≠ tenant) ∧ (s.tlbDrop fun _ => true).mem.tlb = []

/-- `pgattr` (R136, R348, Tables 7.7, 16.6): its result is that of the first check that fails; a page that it changes takes its state and
owner and keeps every other bit of its entry and every other byte of memory, no translation of it is held any more, and no cluster
holds a sector of it; a page in that state already is left as it is. (The entry stands outside the frame descriptors.) -/
def Claims.PageAttributesChange : Prop :=
  (∀ (s : State) (a n c tenant : Nat) (ps : List RangePage),
    let whole := a % 65536 = 0 ∧ n % 65536 = 0 ∧ n ≠ 0 ∧ ∀ p ∈ ps, a ≤ p.1 ∧ p.1 + p.2.1 ≤ a + n
    let mapped := (nth s.hub.ptroot tenant 0#64).getLsbD 0 = true ∧ ∀ p ∈ ps, p.2.2.isSome = true
    let wrong := c % 4 = 3 ∨ (c / 4 % 128 ≠ 0 ∧ c % 4 ≠ 2) ∨ (c % 4 = 2 ∧ s.clusterDropped (c / 4 % 128) = true)
    let far := ∃ p ∈ ps, ∃ at_ e, p.2.2 = some (at_, e) ∧ pteTier e = 3
    (¬whole → s.pgattrBad a n c tenant ps = some 1) ∧ (whole → ¬mapped → s.pgattrBad a n c tenant ps = some 2) ∧
    (whole → mapped → wrong → s.pgattrBad a n c tenant ps = some 3) ∧
    (whole → mapped → ¬wrong → far → s.pgattrBad a n c tenant ps = some 4) ∧
    (whole → mapped → ¬wrong → ¬far → s.pgattrBad a n c tenant ps = none)) ∧
  (∀ (s : State) (tenant cst owner v n at_ : Nat) (e old new : Pte) (t : State), s.mem.phys.wf = true → cst < 4 → owner < 128 →
    ¬(pteCst e = cst ∧ pteOwner e = owner) → (∀ i, i < 16 → s.fdtFrame (at_ + i) = none) →
    t = s.changePage tenant cst owner (v, n, some (at_, e)) → old = BitVec.ofNat 128 (s.mem.phys.num at_ 16) →
    new = BitVec.ofNat 128 (t.mem.phys.num at_ 16) →
    pteCst new = cst ∧ pteOwner new = owner ∧
      (∀ b, b < 128 → b ≠ 9 → b ≠ 10 → (b < 20 ∨ 26 < b) → new.getLsbD b = old.getLsbD b) ∧
      (∀ a, a < at_ ∨ at_ + 16 ≤ a → t.mem.phys.byte a = s.mem.phys.byte a) ∧
      (∀ x ∈ t.mem.tlb, ¬(x.tenant = tenant ∧ x.page = v / 2 ^ x.size)) ∧
      (∀ l ∈ t.mem.cache, l.view = none → ∀ x ∈ l.sectors,
        l.line * 4 + x.1 < pteFrame e * 2048 ∨ pteFrame e * 2048 + n / 32 ≤ l.line * 4 + x.1) ∧
      t.mem.store = s.mem.store ∧ t.mem.host = s.mem.host ∧ t.mem.peer = s.mem.peer ∧ t.mem.merge = s.mem.merge ∧ t.hub = s.hub ∧
      t.eng = s.eng ∧ t.rel = s.rel) ∧
  (∀ (s : State) (tenant cst owner v n at_ : Nat) (e : Pte), pteCst e = cst → pteOwner e = owner →
    s.changePage tenant cst owner (v, n, some (at_, e)) = s)

/-- `pshare` (R350, Table 16.7): the first check that fails gives the result, and nothing changes; else both entries give the page's frame
with COW = 1 and W = 0, the new one without A and D, every other bit as in the source, and the frame counts one mapping more. (Two
entries and a descriptor that stand apart; the buffers are empty.) -/
def Claims.SharedPagesCount : Prop :=
  (∀ (s : State) (tenant a b : Nat), a % 65536 ≠ 0 ∨ b % 65536 ≠ 0 → s.share tenant a b = (s, 1)) ∧
  (∀ (s : State) (tenant a b : Nat), a % 65536 = 0 → b % 65536 = 0 → a < 2 ^ 56 → b < 2 ^ 56 →
    ((∀ e at_, s.walk tenant a ≠ .leaf e at_ 3) → s.share tenant a b = (s, 2)) ∧
    (∀ e at_, s.walk tenant a = .leaf e at_ 3 →
      (pteTier e = 1 ∨ pteTier e = 3 → s.share tenant a b = (s, 2)) ∧
      (pteTier e ≠ 1 → pteTier e ≠ 3 →
        ((∀ to_ r, s.walk tenant b ≠ .absent to_ 3 r) → s.share tenant a b = (s, 3)) ∧
        (∀ to_ r, s.walk tenant b = .absent to_ 3 r →
          (fdtRcnt (s.fdt (pteFrame e)) = 65535 → s.share tenant a b = (s, 4)) ∧
          (fdtRcnt (s.fdt (pteFrame e)) ≠ 65535 → pteX e = true ∨ pteU e = false → s.share tenant a b = (s, 5)))))) ∧
  (∀ (s t : State) (tenant a b at_ to_ d : Nat) (e : Pte) (r : Bool), s.mem.phys.wf = true → s.mem.merge = [] → a % 65536 = 0 → b % 65536 = 0 →
    a < 2 ^ 56 → b < 2 ^ 56 → s.walk tenant a = .leaf e at_ 3 → pteTier e ≠ 1 → pteTier e ≠ 3 → s.walk tenant b = .absent to_ 3 r →
    fdtRcnt (s.fdt (pteFrame e)) ≠ 65535 → pteX e = false → pteU e = true → d = s.fdtAt (pteFrame e) →
    (∀ i, i < 16 → s.fdtFrame (at_ + i) = none ∧ s.fdtFrame (to_ + i) = none) → (at_ + 16 ≤ to_ ∨ to_ + 16 ≤ at_) →
    (at_ + 16 ≤ d ∨ d + 8 ≤ at_) → (to_ + 16 ≤ d ∨ d + 8 ≤ to_) → t = (s.share tenant a b).1 →
    (s.share tenant a b).2 = 0 ∧
      (∀ i, i < 128 → (BitVec.ofNat 128 (t.mem.phys.num at_ 16)).getLsbD i = if i = 13 then true else if i = 5 then false else e.getLsbD i) ∧
      (∀ i, i < 128 → (BitVec.ofNat 128 (t.mem.phys.num to_ 16)).getLsbD i
        = if i = 13 then true else if i = 5 ∨ i = 15 ∨ i = 16 then false else e.getLsbD i) ∧
      fdtRcnt (t.fdt (pteFrame e)) = fdtRcnt (s.fdt (pteFrame e)) + 1 ∧ fdtFree (t.fdt (pteFrame e)) = fdtFree (s.fdt (pteFrame e)) ∧
      (∀ x, (x < at_ ∨ at_ + 16 ≤ x) → (x < to_ ∨ to_ + 16 ≤ x) → (x < d ∨ d + 8 ≤ x) → t.mem.phys.byte x = s.mem.phys.byte x) ∧
      t.mem.store = s.mem.store ∧ t.work = s.work ∧ t.hub = s.hub ∧ t.eng = s.eng)

/-- `prel` (R351, Table 16.7): the first check that fails gives the result, and nothing changes; else the entry's V and ZF are 0, no
translation of the page is held, and its frame counts one mapping less, and with none goes to the tail of its pool with FREE = 1. (The
entry stands apart from the descriptor; the buffers are empty.) -/
def Claims.ReleasedPagesReturn : Prop :=
  (∀ (s : State) (tenant a : Nat), a % 65536 ≠ 0 → s.unshare tenant a = (s, 1)) ∧
  (∀ (s : State) (tenant a : Nat), a % 65536 = 0 → a < 2 ^ 56 →
    ((∀ e at_, s.walk tenant a ≠ .leaf e at_ 3) → s.unshare tenant a = (s, 2)) ∧
    (∀ e at_, s.walk tenant a = .leaf e at_ 3 → ptePin e = true → s.unshare tenant a = (s, 3))) ∧
  (∀ (s t : State) (tenant a at_ d frame : Nat) (e : Pte), s.mem.phys.wf = true → s.mem.merge = [] → a % 65536 = 0 → a < 2 ^ 56 →
    s.walk tenant a = .leaf e at_ 3 → ptePin e = false → pteTier e ≠ 3 → frame = pteFrame e → 0 < fdtRcnt (s.fdt frame) → d = s.fdtAt frame →
    (∀ i, i < 16 → s.fdtFrame (at_ + i) = none) → (at_ + 16 ≤ d ∨ d + 8 ≤ at_) → t = (s.unshare tenant a).1 →
    (s.unshare tenant a).2 = 0 ∧
      (∀ i, i < 128 → (BitVec.ofNat 128 (t.mem.phys.num at_ 16)).getLsbD i = if i = 0 ∨ i = 17 then false else e.getLsbD i) ∧
      fdtRcnt (t.fdt frame) = fdtRcnt (s.fdt frame) - 1 ∧ (∀ x ∈ t.mem.tlb, ¬(x.tenant = tenant ∧ x.page = a / 2 ^ x.size)) ∧
      (1 < fdtRcnt (s.fdt frame) → t.hub = s.hub ∧ fdtFree (t.fdt frame) = fdtFree (s.fdt frame)) ∧
      (fdtRcnt (s.fdt frame) = 1 → fdtFree (t.fdt frame) = true ∧
        t.hub.fast = s.hub.fast ++ (if frame < fastFrames then [frame] else []) ∧
        t.hub.cap = s.hub.cap ++ (if frame < fastFrames then [] else [frame])) ∧
      (∀ x, (x < at_ ∨ at_ + 16 ≤ x) → (x < d ∨ d + 8 ≤ x) → t.mem.phys.byte x = s.mem.phys.byte x) ∧ t.mem.store = s.mem.store)

/-- `tlbi`, `pgattr`, `pshare` and `prel` complete, and change what their tables say and nothing else (R136, R146, R348, R350, R351, R374). -/
def Obligations.PageWordsComplete : Prop :=
  Claims.PageWordsAct ∧ Claims.TranslationsGo ∧ Claims.PageAttributesChange ∧ Claims.SharedPagesCount ∧ Claims.ReleasedPagesReturn

/-- `vset`, `vclr` and `vinfo` (R379, R380) complete for a slot that the context's tenant owns: a descriptor that passes the checks of R91 is
installed and the answer is 0, the first failed check is the answer otherwise; a slot in use answers 9; `vinfo` stores the descriptor, or
zeros. A `vset` whose replay has ended lets its path go on. -/
def Obligations.ViewWordsComplete : Prop :=
  (∀ (s s1 s2 s3 : State) (w : RegWord) (u : Issuer) (r : Req) (q : List Req) (ts : List (Req × Target)) (bs : List Byte),
    Acts s (.vset w) u 0 (r :: q) → u.clause.await = false → s.slotOwner (r.a.toNat % 2 ^ 32) = some u.ctx.tenant → r.b.toNat % 128 = 0 →
    s.targetsFrom u.ctx 0 16 .read false (eightReqs r r.b) [] [] = (s1, ts, []) →
    s1.readRecords u.ctx ts = (s2, bs) → s3 = s2.peerMessage u.ctx ts →
    (∀ n, s3.viewCheck (doublesOf bs 16) = some n → exec (.vset w) s = .next (doneWith s3 u (.vset w)
      ((r :: q).flatMap fun y => u.ctx.slotWrites (.vset w) y.slot (BitVec.ofNat 128 n)) 0#32)) ∧
    (s3.viewCheck (doublesOf bs 16) = none → s3.slotBusy u.ctx.tenant (r.a.toNat % 2 ^ 32) = true → exec (.vset w) s = .next (doneWith s3 u (.vset w)
      ((r :: q).flatMap fun y => u.ctx.slotWrites (.vset w) y.slot 9#128) 0#32)) ∧
    (s3.viewCheck (doublesOf bs 16) = none → s3.slotBusy u.ctx.tenant (r.a.toNat % 2 ^ 32) = false → exec (.vset w) s = .next (doneWith
      (s3.setSlot (r.a.toNat % 2 ^ 32) (some { words := doublesOf bs 16, asid := u.ctx.tenant })) u (.vset w)
      ((r :: q).flatMap fun y => u.ctx.slotWrites (.vset w) y.slot 0#128) 0#32))) ∧
  (∀ (s : State) (w : RegWord) (u : Issuer) (r : Req) (q : List Req), Acts s (.vset w) u 0 (r :: q) → u.clause.await = true →
    (u.pendingHere u.ctx = true → exec (.vset w) s = .next s) ∧
    (u.pendingHere u.ctx = false → exec (.vset w) s = .next (doneWith s u (.vset w) [] 0#32))) ∧
  (∀ (s : State) (w : RegWord) (u : Issuer) (r : Req) (q : List Req), Acts s (.vclr w) u 0 (r :: q) →
    s.slotOwner (r.a.toNat % 2 ^ 32) = some u.ctx.tenant →
    (s.slotBusy u.ctx.tenant (r.a.toNat % 2 ^ 32) = true → exec (.vclr w) s
      = .next (doneWith s u (.vclr w) ((r :: q).flatMap fun y => u.ctx.slotWrites (.vclr w) y.slot 9#128) 0#32)) ∧
    (s.slotBusy u.ctx.tenant (r.a.toNat % 2 ^ 32) = false → exec (.vclr w) s = .next (doneWith (s.setSlot (r.a.toNat % 2 ^ 32) none) u (.vclr w)
      ((r :: q).flatMap fun y => u.ctx.slotWrites (.vclr w) y.slot 0#128) 0#32))) ∧
  (∀ (s s1 : State) (w : RegWord) (u : Issuer) (r : Req) (q : List Req) (ts : List (Req × Target)) (words : List Dbl),
    Acts s (.vinfo w) u 0 (r :: q) → s.slotOwner (r.b.toNat % 2 ^ 32) = some u.ctx.tenant → r.a.toNat % 128 = 0 →
    s.targetsFrom u.ctx 0 16 .write false (eightReqs r r.a) [] [] = (s1, ts, []) →
    words = (match s1.eng.views.look (r.b.toNat % 2 ^ 32) with | some v => v.words | none => []) →
    let s2 := (ts.zipIdx).foldl (fun s x => s.storeTarget u.ctx.storer x.1.2
      (bytesOf 8 (nth words (2 * x.2) 0#64).toNat ++ bytesOf 8 (nth words (2 * x.2 + 1) 0#64).toNat) []) s1
    s2.overfull u.ctx.core = false → exec (.vinfo w) s = .next (doneWith (s2.peerStore u.ctx ts) u (.vinfo w) [] 0#32))

/-! Events: what other parties, engines and the passing of time do -/

/-- MERGE_DRAIN and MERGE_DRAIN_TIMEOUT (R80, R112, R124, R231) complete: a line of a core's buffer drains at any time, by the timeout once
4,096 a-cycles have passed since its first store. A line of memory writes the last byte stored at each offset, but in locked code frames and
reserved bits of frame descriptors (R8), poisons the sectors of poisoned ones and leaves the buffer. A view line is mapped again: it leaves
the buffer, or stays where a fault that is to be resolved holds it. A line for a package that is up writes its bytes there. -/
def Claims.DrainsComplete : Prop :=
  (∀ (s : State) (core index : Nat) (m : MergeLine), s.mergeNth core index = some m →
    exec (.mergeDrain core index) s = .next (s.drainLine m) ∧
    (m.since + 4096 ≤ s.aCyc → exec (.mergeDrainTimeout core index) s = .next (s.drainLine m)) ∧
    (s.aCyc < m.since + 4096 → exec (.mergeDrainTimeout core index) s = .next s)) ∧
  (∀ (s : State) (core index : Nat), s.mergeNth core index = none →
    exec (.mergeDrain core index) s = .next s ∧ exec (.mergeDrainTimeout core index) s = .next s) ∧
  (∀ (s : State) (core index : Nat) (m : MergeLine), s.mem.phys.wf = true → s.mergeNth core index = some m → m.space = 0 →
    s.mergeFind core 0 m.line = some m →
    ∃ t, exec (.mergeDrain core index) s = .next t ∧ m ∉ t.mem.merge ∧
      (∀ i, i < 128 → t.physByte (m.line * 128 + i) = match m.at_ i with
        | some b => if s.locked (m.line * 128 + i) then s.physByte (m.line * 128 + i) else s.keptBits (m.line * 128 + i) b.byte
        | none => s.physByte (m.line * 128 + i)) ∧
      (∀ a, a < m.line * 128 ∨ m.line * 128 + 128 ≤ a → t.physByte a = s.physByte a) ∧
      (∀ i b, i < 128 → m.at_ i = some b → b.bad = true → s.locked (m.line * 128 + i) = false → (m.line * 128 + i) / 32 ∈ t.mem.poison) ∧
      t.mem.store = s.mem.store ∧ t.mem.host = s.mem.host ∧ t.mem.peer = s.mem.peer ∧ t.work = s.work ∧ t.hub = s.hub ∧ t.eng = s.eng) ∧
  (∀ (s : State) (core index : Nat) (m : MergeLine), s.mergeNth core index = some m → m.space = 1 → s.farLine m = false →
    s.mergeFind core 1 m.line = some m →
    (∀ f r, s.remapLine m = .held f r → ∃ t, exec (.mergeDrain core index) s = .next t ∧ t.mem.merge = s.mem.merge ∧
      (∃ x ∈ t.eng.faults, x.2.who = .line core m.tenant m.line)) ∧
    (∀ s1 ph pe lv bad, s.remapLine m = .to s1 ph pe lv bad → ∃ t, exec (.mergeDrain core index) s = .next t ∧ m ∉ t.mem.merge)) ∧
  (∀ (s : State) (core : Nat) (m : MergeLine), s.mem.peer.wf = true → s.mergeNth core 0 = some m → m.space = 2 →
    s.mergeFind core 2 m.line = some m → s.peerDown (m.line * 128 / 2 ^ 48) = false →
    ∃ t, exec (.mergeDrain core 0) s = .next t ∧ m ∉ t.mem.merge ∧
      (∀ i, i < 128 → t.mem.peer.byte (m.line * 128 + i)
        = match m.at_ i with | some b => b.byte | none => s.mem.peer.byte (m.line * 128 + i)) ∧
      (∀ a, a < m.line * 128 ∨ m.line * 128 + 128 ≤ a → t.mem.peer.byte a = s.mem.peer.byte a) ∧
      t.mem.phys = s.mem.phys ∧ t.mem.store = s.mem.store ∧ t.mem.host = s.mem.host ∧ t.work = s.work ∧ t.hub = s.hub ∧
      t.eng = { s.eng with farDesc := t.eng.farDesc } ∧ ∀ x, x ∈ t.eng.farDesc ↔ x ∈ s.eng.farDesc)

/-- PEER_WRITE_ACCEPT, RDMA_WRITE and a write through BAR2 (R162, R223, R230, R233) complete: bytes of memory take the bytes written, not
in locked code frames, and for BAR2 only in pinned frames of its aperture; reserved bits of frame descriptors stay zero (R8). -/
def Claims.OutsideWritesAreAccepted : Prop :=
  (∀ (s : State) (i : Instr) (pa : Nat) (bytes : List Byte), s.mem.phys.wf = true →
    (i = .rdmaWrite pa bytes ∨ ∃ package, i = .peerWriteAccept package pa bytes ∧ package ≠ s.hub.peerSelf.toNat) →
    ∃ t, exec i s = .next t ∧
      (∀ a, t.physByte a = if pa ≤ a ∧ a < pa + bytes.length ∧ s.isMemory a = true ∧ s.locked a = false
        then s.keptBits a (nth bytes (a - pa) 0#8) else s.physByte a) ∧
      t.mem.store = s.mem.store ∧ t.mem.host = s.mem.host ∧ t.mem.peer = s.mem.peer ∧ t.work = s.work ∧ t.hub = s.hub ∧ t.eng = s.eng) ∧
  (∀ (s : State) (offset count : Nat) (data : List Byte), s.mem.phys.wf = true →
    ∃ t, exec (.bar2Access (.bar2 offset) count (some data)) s = .next t ∧
      (∀ a, t.physByte a = if s.hub.bar2.toNat + offset ≤ a ∧ a < s.hub.bar2.toNat + offset + data.length ∧
          s.bar2Reaches (a - s.hub.bar2.toNat) = true ∧ s.locked a = false
        then s.keptBits a (nth data (a - (s.hub.bar2.toNat + offset)) 0#8) else s.physByte a) ∧
      t.mem.store = s.mem.store ∧ t.mem.host = s.mem.host ∧ t.mem.peer = s.mem.peer ∧ t.work = s.work ∧ t.hub = s.hub ∧ t.eng = s.eng)

/-- PEER_READ_REQUEST, a read through BAR2 and PEER_LINK_TIMEOUT (R118, R223, R230, R231) complete: the far package gets the bytes that
stand at home, each marked where it is poisoned (R111, R207), an atomic of it gets the old bytes and leaves the new; an access through one of
its remote views is mapped here by the descriptor that came with the first request, and its data or its fault goes back; BAR2 reads all
ones where it does not reach; a far package whose link times out is down until reset. -/
def Claims.PeerReadsAreAnswered : Prop :=
  (∀ (s : State) (package pa n : Nat), package ≠ s.hub.peerSelf.toNat →
    ∃ t, exec (.peerReadRequest package pa (.load n)) s = .next t ∧ t.out.peerReply = (List.range n).map (fun i => s.physByte (pa + i)) ∧
      t.out.peerPoison = (List.range n).map (fun i => s.mem.poison.contains ((pa + i) / 32)) ∧
      t.out.peerFault = none ∧ t.mem.phys = s.mem.phys ∧ t.work = s.work ∧ t.hub = s.hub ∧ t.eng = s.eng) ∧
  (∀ (s : State) (i : PeerOp) (package pa : Nat) (op fmt : BitVec 4) (b c : Dbl), s.mem.phys.wf = true → package ≠ s.hub.peerSelf.toNat →
    (i = .atom op fmt b c ∨ (i = .red op fmt b ∧ c = 0#64)) →
    (∀ i, i < peerWidth fmt.toNat → s.isMemory (pa + i) = true ∧ s.locked (pa + i) = false ∧ s.fdtFrame (pa + i) = none) →
    let old := (List.range (peerWidth fmt.toNat)).map fun i => s.physByte (pa + i)
    ∃ t, exec (.peerReadRequest package pa i) s = .next t ∧ t.out.peerReply = (if i = .atom op fmt b c then old else []) ∧
      t.out.peerFault = none ∧
      (List.range (peerWidth fmt.toNat)).map (fun i => t.physByte (pa + i))
        = bytesOf (peerWidth fmt.toNat) (atomNew op.toNat fmt.toNat (leNat old) b.toNat c.toNat) ∧
      t.work = s.work ∧ t.hub = s.hub) ∧
  (∀ (s : State) (package pa slot off n : Nat) (d : List Dbl), package ≠ s.hub.peerSelf.toNat →
    (∀ c, s.guestTarget (viewOf d) .read off n = .error c → ∃ t, exec (.peerReadRequest package pa (.view slot off (some d) (.load n))) s = .next t ∧
      t.eng.guests.look (4096 * package + slot) = some { words := d, asid := 0 } ∧ t.out.peerReply = [] ∧ t.out.peerFault = some c ∧
      t.mem = s.mem ∧ t.work = s.work ∧ t.hub = s.hub) ∧
    (∀ tg, s.guestTarget (viewOf d) .read off n = .ok tg → ∃ t, exec (.peerReadRequest package pa (.view slot off (some d) (.load n))) s = .next t ∧
      t.eng.guests.look (4096 * package + slot) = some { words := d, asid := 0 } ∧
      t.out.peerReply = tg.bytes.map (fun l => (s.homeByte l).1) ∧ t.out.peerPoison = tg.bytes.map (fun l => (s.homeByte l).2.isSome) ∧
      t.out.peerFault = none ∧ t.mem.phys = s.mem.phys ∧ t.work = s.work)) ∧
  (∀ (s : State) (package pa slot off : Nat) (op : ViewOp), package ≠ s.hub.peerSelf.toNat → s.eng.guests.look (4096 * package + slot) = none →
    ∃ t, exec (.peerReadRequest package pa (.view slot off none op)) s = .next t ∧ t.out.peerReply = [] ∧ t.out.peerFault = some 0x12 ∧
      t.mem = s.mem ∧ t.work = s.work ∧ t.hub = s.hub) ∧
  (∀ (s : State) (package pa slot : Nat), package ≠ s.hub.peerSelf.toNat →
    ∃ t, exec (.peerReadRequest package pa (.dropView slot)) s = .next t ∧ t.eng.guests.look (4096 * package + slot) = none ∧
      t.mem = s.mem ∧ t.work = s.work ∧ t.hub = s.hub) ∧
  (∀ (s : State) (offset count : Nat), ∃ t, exec (.bar2Access (.bar2 offset) count none) s = .next t ∧ t.out.bar2Read.length = count ∧
    (∀ i, i < count → nth t.out.bar2Read i 0#8
      = if s.bar2Reaches (offset + i) = true then s.physByte (s.hub.bar2.toNat + (offset + i)) else 0xFF#8) ∧
    (∀ a, t.physByte a = s.physByte a) ∧ t.mem.phys = s.mem.phys ∧ t.mem.store = s.mem.store ∧ t.mem.cache = s.mem.cache ∧ t.work = s.work ∧ t.hub = s.hub ∧ t.eng = s.eng ∧ t.rel = s.rel) ∧
  (∀ (s : State) (package : Nat), package < 512 → package ≠ s.hub.peerSelf.toNat →
    ∃ t, exec (.peerLinkTimeout package) s = .next t ∧ (∀ p, t.peerDown p = (s.peerDown p || decide (p = package))) ∧ t.mem = s.mem ∧
      t.work = s.work ∧ t.eng = s.eng ∧ t.rel = s.rel)

/-- An access through BAR0 (R55, R66, R224, R227, Table 12.1) completes: a read answers and changes nothing else, and a write is that of the
register; a function reads the tail and the status of a chain that it reaches, and zeros at another; a register takes a write of its
own width only; the windows of the PF read zero to a virtual function and drop its writes. -/
def Claims.Bar0AccessesComplete : Prop :=
  (∀ (s : State) (fn offset count : Nat), exec (.bar2Access (.bar0 fn offset) count none) s
    = .next { s with out := { s.out with bar2Read := s.bar0Read fn offset count } }) ∧
  (∀ (s : State) (fn offset count : Nat) (d : List Byte), exec (.bar2Access (.bar0 fn offset) count (some d)) s = .next (s.bar0Write fn offset d)) ∧
  (∀ (s : State) (fn chain : Nat), fn ≤ 16 → chain < 256 → s.reaches fn chain = true →
    s.bar0Read fn (0x1000 * chain) 8 = bytesOf 8 (dbl (s.chainTail chain)).toNat ∧
    s.bar0Read fn (0x1000 * chain + 8) 8 = bytesOf 8 (dbl ((if s.waitsEntry chain then 4 else 0)
      + (if s.chainTail chain = s.chainSeq chain + s.chainRing chain then 2 else 0) + (if s.hub.badTail.getLsbD chain then 1 else 0))).toNat) ∧
  (∀ (s : State) (fn chain : Nat), fn ≤ 16 → chain < 256 → s.reaches fn chain = false →
    s.bar0Read fn (0x1000 * chain) 8 = List.replicate 8 0#8 ∧ s.bar0Read fn (0x1000 * chain + 8) 8 = List.replicate 8 0#8) ∧
  (∀ (s : State) (fn chain : Nat) (d : List Byte), fn ≤ 16 → chain < 256 →
    s.bar0Write fn (0x1000 * chain) d = (if d.length = 8 then s.writeTail fn chain (dbl (leNat d)) else s) ∧
    s.bar0Write fn (0x1000 * chain + 8) d = (if d.length = 8 then s.writeStat fn chain (dbl (leNat d)) else s)) ∧
  (∀ (s : State) (fn : Nat), fn ≤ 16 → s.bar0Read fn 0x100008 8 = bytesOf 8 (s.mailbox fn).stat.toNat) ∧
  (∀ (s : State) (fn offset n : Nat) (d : List Byte), fn ≠ 0 → 0x180000 ≤ offset →
    s.bar0Read fn offset n = List.replicate n 0#8 ∧ s.bar0Write fn offset d = s)

/-- THERMAL_GATE, TEMPERATURE_BACK_BELOW_100, FULL_FREEZE, ATTESTATION (R221, R222, R235), COLD_RESET and WARM_RESET (R213, R218, R220, R234)
complete: above 110 °C issue stops until the temperature is below 100; a reset leaves the state of reset as the firmware brings it up; a
warm one keeps the Proof, PSEQ and HUB.DROP, and a package whose H0 is lost stays halted after it and is not brought up (R13, R19). (That a
reset leaves memory as State.reset has it and keeps host and peer memory is the model's choice, notes/assumptions/21.md; what the resets do
after the loss of H0 is its reading, notes/assumptions/114.md.) -/
def Obligations.PowerAndResetsComplete : Prop :=
  (∀ (s : State) (watts celsius : Nat), ∃ t, exec (.thermalGate watts celsius) s = .next t ∧
    t.rel.tooHot = (s.rel.tooHot || decide (110 < celsius)) ∧ t.mem = s.mem ∧ t.work = s.work ∧ t.eng = s.eng ∧ t.hub = s.hub ∧
    t.rel.galleys = s.rel.galleys) ∧
  (∀ (s : State) (celsius : Nat), celsius < 100 → ∃ t, exec (.temperatureBackBelow100 celsius) s = .next t ∧ t.rel.tooHot = false ∧
    t.mem = s.mem ∧ t.work = s.work ∧ t.eng = s.eng ∧ t.hub = s.hub) ∧
  (∀ s : State, ∃ t, exec .fullFreeze s = .next t ∧ t.rel.fullFreeze = true ∧ t.mem = s.mem ∧ t.work = s.work ∧ t.eng = s.eng ∧ t.hub = s.hub) ∧
  (∀ (s : State) (request : Nat), ∃ t a, exec (.attestation request) s = .next t ∧ t.out.mgmtOut = s.out.mgmtOut ++ [a] ∧ a.length = 178 ∧
    a = shake256 (Config.attestText request s.measured)
      ++ (List.range 114).map (Config.signByte (shake256 (Config.attestText request s.measured))) ∧ t.mem = s.mem ∧ t.work = s.work ∧ t.hub = s.hub) ∧
  (∀ (s : State) (b : BringUp), exec (.coldReset b) s = .next (s.cold.bringUp b) ∧
    (s.rel.h0Lost = false → exec (.warmReset b) s = .next (s.warm.bringUp b)) ∧
    (s.rel.h0Lost = true → exec (.warmReset b) s = .next s.warm ∧ s.warm.rel.halted = true ∧ s.warm.hub.ready = 0#64) ∧
    s.warm.rel.h0Lost = s.rel.h0Lost ∧
    s.cold.work = State.reset.work ∧ s.cold.hub = State.reset.hub ∧ s.cold.eng = State.reset.eng ∧ s.cold.rel = State.reset.rel ∧
    s.cold.mem.host = s.mem.host ∧ s.cold.mem.peer = s.mem.peer ∧ s.cold.mem.phys = State.reset.mem.phys ∧
    s.warm.hub.drop = s.hub.drop ∧ s.warm.rel.proof = s.rel.proof ∧ s.warm.rel.pseq = s.rel.pseq ∧ s.warm.work = State.reset.work ∧
    (s.cold.bringUp b).hub.ready = 1#64 ∧ (s.warm.bringUp b).hub.ready = 1#64)

/-- DETECT, DETECT_WINDOW_END, FATAL_EVENT, FREEZE and PROOF_CUT (R19, R206, R216, R218, R220) complete: a domain runs at half rate for 1,024
cycles; a fatal event raises PSEQ and, where no Proof is held, its recorder stops at once; the wave stops the others; once all have stopped
the Proof is cut with their rings, and the recorders restart empty. While a Proof is held no recorder stops for an event, which H0 records;
after the loss of H0 no Proof is cut. (That the Proof of several events is the first one's is the model's choice, notes/assumptions/118.md.) -/
def Claims.FreezeMakesProof : Prop :=
  (∀ (s : State) (domain detector : Nat), ∃ t, exec (.detect domain detector) s = .next t ∧
    t.rel.halves.look domain = some (1024, ((s.rel.halves.look domain).map (·.2)).getD 0) ∧ t.mem = s.mem ∧ t.work = s.work) ∧
  (∀ (s : State) (domain odd : Nat), s.rel.halves.look domain = some (0, odd) →
    ∃ t, exec (.detectWindowEnd domain) s = .next t ∧ t.rel.halves.look domain = none ∧ t.mem = s.mem ∧ t.work = s.work) ∧
  (∀ (s : State) (cause recorder : Nat), s.proofHeld = false →
    ∃ t g, exec (.fatalEvent cause recorder) s = .next t ∧ t.rel.pseq = s.rel.pseq + 1 ∧
      t.rel.halted = (s.rel.halted || decide (cause = 3 ∨ cause = 4 ∨ cause = 6)) ∧
      t.rel.freezing = some (s.rel.freezing.getD (cause, recorder, s.rel.pseq + 1)) ∧
      t.rel.galleys.look recorder = some g ∧ g.stopped = true ∧ t.rel.h0Lost = s.rel.h0Lost ∧ t.rel.proof = s.rel.proof ∧
      (∀ r, r ≠ recorder → t.rel.galleys.look r = s.rel.galleys.look r) ∧ t.mem = s.mem ∧ t.work = s.work ∧ t.hub = s.hub) ∧
  (∀ (s : State) (cause recorder : Nat), s.proofHeld = true →
    ∃ t, exec (.fatalEvent cause recorder) s = .next t ∧ t.rel.pseq = s.rel.pseq + 1 ∧ t.rel.freezing = s.rel.freezing ∧ t.rel.proof = s.rel.proof ∧
      (∀ r, ((t.rel.galleys.look r).getD Recorder.fresh).stopped = ((s.rel.galleys.look r).getD Recorder.fresh).stopped) ∧
      (s.rel.h0Lost = false → ((s.rel.galleys.look (hubRecorder 0)).getD Recorder.fresh).stopped = false →
        ∃ g e, t.rel.galleys.look (hubRecorder 0) = some g ∧ g.recs.getLast? = some e ∧ e.cls = 4 ∧ e.code = 0x84#8 ∧
          e.payload = dbl (cause * 2 ^ 56 + recorder * 2 ^ 40 + (s.rel.pseq + 1) % 2 ^ 40)) ∧
      t.mem = s.mem ∧ t.work = s.work ∧ t.hub = s.hub) ∧
  (∀ (s : State) (cause recorder origin pseq : Nat), s.rel.freezing = some (cause, origin, pseq) →
    ((s.rel.galleys.look recorder).getD Recorder.fresh).stopped = false →
    ∃ t g e, exec (.freeze recorder) s = .next t ∧ t.rel.galleys.look recorder = some g ∧ g.stopped = true ∧ g.hop = hops origin recorder ∧
      g.recs.getLast? = some e ∧ e.code = 0xFE#8 ∧ e.cls = 3 ∧ e.payload = dbl (hops origin recorder * 2 ^ 48 + origin) ∧
      t.mem = s.mem ∧ t.work = s.work) ∧
  (∀ (s : State) (cause origin pseq : Nat), s.rel.freezing = some (cause, origin, pseq) → s.proofHeld = false → s.rel.h0Lost = false →
    (∀ r ∈ s.recorders, ∃ g, s.rel.galleys.look r = some g ∧ g.stopped = true) →
    ∃ t p g, exec .proofCut s = .next t ∧ t.rel.proof = some p ∧ p.cause = cause ∧ p.origin = origin ∧ p.pseq = pseq ∧ p.acked = false ∧
      p.later = s.rel.pseq - pseq ∧ p.recorders = s.rel.galleys ∧ t.rel.freezing = none ∧ t.rel.galleys.look (hubRecorder 0) = some g ∧
      (∃ e, g.recs = [e] ∧ e.code = 0x82#8 ∧ e.payload = dbl pseq) ∧ t.mem = s.mem ∧ t.work = s.work) ∧
  (∀ s : State, s.rel.h0Lost = true → exec .proofCut s = .next s)

/-- Commands of a mailbox (R227, Table 12.2) complete: one that is taken makes the mailbox busy, one that comes while it is busy gives error
1; a code that names no command gives error 2; INFO and READ give pages of the Proof, ACK by the PF releases it, and a mailbox without a
Proof, beyond its end, or with no right to acknowledge says so. -/
def Claims.MailboxCommandsComplete : Prop :=
  (∀ (s : State) (i : Instr) (fn : Nat) (cmd : Dbl),
    ((i = .mbxInfo fn ∧ cmd = 1#64) ∨ (∃ arg, i = .mbxRead fn arg ∧ cmd = dbl (arg % 2 ^ 32 * 2 ^ 32 + 2)) ∨ (i = .mbxAck fn ∧ cmd = 3#64)) →
    ∃ t, exec i s = .next t ∧ t.mem = s.mem ∧ t.work = s.work ∧ t.rel = s.rel ∧
      ((s.mailbox fn).busy = false → (t.mailbox fn).cmd = cmd ∧ (t.mailbox fn).busy = true ∧ (t.mailbox fn).err = 0) ∧
      ((s.mailbox fn).busy = true → t.mailbox fn = { s.mailbox fn with err := 1 })) ∧
  (∀ (s : State) (fn : Nat) (p : Proof), (s.mailbox fn).busy = true → s.rel.proof = some p →
    let t0 := if fn = 0 then 0xFF else fn - 1
    let arg := (s.mailbox fn).cmd.toNat / 2 ^ 32
    ((s.mailbox fn).cmd.toNat % 256 = 1 → ∃ t, exec (.mbxCommandDone fn) s = .next t ∧ (t.mailbox fn).busy = false ∧
      (t.mailbox fn).result = word s.rel.pseq ∧ (t.mailbox fn).data.length = 4096 ∧ (∀ i, i < 4096 → nth (t.mailbox fn).data i 0#8 = p.byte t0 i)) ∧
    ((s.mailbox fn).cmd.toNat % 256 = 2 → arg * 4096 < proofSize → ∃ t, exec (.mbxCommandDone fn) s = .next t ∧
      (t.mailbox fn).busy = false ∧ (t.mailbox fn).data.length = 4096 ∧
      (∀ i, i < 4096 → nth (t.mailbox fn).data i 0#8 = p.byte t0 (arg * 4096 + i))) ∧
    ((s.mailbox fn).cmd.toNat % 256 = 2 → proofSize ≤ arg * 4096 → ∃ t, exec (.mbxCommandDone fn) s = .next t ∧
      (t.mailbox fn).busy = false ∧ (t.mailbox fn).err = 4) ∧
    ((s.mailbox fn).cmd.toNat % 256 = 3 → fn = 0 → ∃ t, exec (.mbxCommandDone fn) s = .next t ∧
      (t.mailbox fn).busy = false ∧ t.rel.proof = some { p with acked := true }) ∧
    ((s.mailbox fn).cmd.toNat % 256 = 3 → fn ≠ 0 → ∃ t, exec (.mbxCommandDone fn) s = .next t ∧
      (t.mailbox fn).busy = false ∧ (t.mailbox fn).err = 5 ∧ t.rel.proof = some p)) ∧
  (∀ (s : State) (fn : Nat), (s.mailbox fn).busy = true → s.rel.proof = none → (s.mailbox fn).cmd.toNat % 256 = 1 →
    ∃ t, exec (.mbxCommandDone fn) s = .next t ∧ (t.mailbox fn).busy = false ∧ (t.mailbox fn).err = 3 ∧ t.mem = s.mem ∧ t.work = s.work) ∧
  (∀ (s : State) (fn : Nat), (s.mailbox fn).busy = true → (s.mailbox fn).cmd.toNat % 256 ∉ [1, 2, 3] →
    ∃ t, exec (.mbxCommandDone fn) s = .next t ∧ (t.mailbox fn).busy = false ∧ (t.mailbox fn).err = 2 ∧ t.mem = s.mem ∧ t.work = s.work ∧
      t.rel = s.rel)

/-! Faults that units resolve -/

/-- CAPRES_RESOLVE, ZERO_FILL_RESOLVE and COWF_RESOLVE (R154-R156, R159) complete for a parked fault that the device resolves: with a free
fast frame the page comes to it (filled with zeros, or as a copy, where the fault asks for that), its entry and its descriptors take
their new state, its translations go, and what waited goes on; a pinned page of the capacity tier is used where it lies; where the page
needs nothing any more, what waited goes on. (A pinned page, what a claimed descriptor holds, and the bits of a zero-filled page's entry
are the model's choice: notes/assumptions/99.md, notes/assumptions/19.md, notes/assumptions/47.md.) -/
def Claims.ResolutionsComplete : Prop :=
  (∀ (s : State) (n x at_ : Nat) (r : List Nat) (f : PFault) (e : Pte), s.deviceFault n 0x19#8 = some f →
    s.walk f.tenant f.va.toNat = .leaf e at_ 3 → pteTier e = 1 → ptePin e = false → s.hub.fast = x :: r →
    exec (.capresResolve n) s = .next ((({ s with hub := { s.hub with fast := r } }.movePage f.tenant f.va.toNat at_ e x 0)).releasePage f)) ∧
  (∀ (s : State) (n at_ : Nat) (f : PFault) (e : Pte), s.deviceFault n 0x19#8 = some f → s.walk f.tenant f.va.toNat = .leaf e at_ 3 →
    (pteTier e ≠ 1 → exec (.capresResolve n) s = .next (s.releasePage f)) ∧
    (pteTier e = 1 → ptePin e = true → exec (.capresResolve n) s
      = .next (((s.putPte at_ (pteWith e (3 * 2 ^ 18) (2 * 2 ^ 18))).tlbDropPage f.tenant f.va.toNat).releasePage f))) ∧
  (∀ (s : State) (n x at_ : Nat) (r : List Nat) (f : PFault), s.deviceFault n 0x18#8 = some f →
    s.walk f.tenant f.va.toNat = .absent at_ 3 true → s.hub.fast = x :: r →
    let e := BitVec.ofNat 128 (s.mem.phys.num at_ 16)
    exec (.zeroFillResolve n) s = .next ((((({ s with hub := { s.hub with fast := r } }.zeroFrame x).claim x (pteGrade e) 1).putPte at_
      (pteWith (pteMove e x 0) (2 ^ 17) 1)).tlbDropPage f.tenant f.va.toNat).releasePage f)) ∧
  (∀ (s : State) (n at_ : Nat) (f : PFault) (e : Pte), s.deviceFault n 0x1A#8 = some f → s.walk f.tenant f.va.toNat = .leaf e at_ 3 →
    (pteCow e = false → exec (.cowfResolve n) s = .next (s.releasePage f)) ∧
    (pteCow e = true → fdtRcnt (s.fdt (pteFrame e)) = 0 → exec (.cowfResolve n) s = .next (s.unresolved f)) ∧
    (pteCow e = true → fdtRcnt (s.fdt (pteFrame e)) = 1 → exec (.cowfResolve n) s
      = .next (((s.putPte at_ (pteWith e (2 ^ 13) (2 ^ 5))).tlbDropPage f.tenant f.va.toNat).releasePage f)) ∧
    (∀ x r, pteCow e = true → 1 < fdtRcnt (s.fdt (pteFrame e)) → s.hub.fast = x :: r → ∃ t u, exec (.cowfResolve n) s = .next t ∧
      u = ((({ s with hub := { s.hub with fast := r } }.copyFrame (pteFrame e) x).claim x (pteGrade e) 1).putPte at_
        (pteWith (pteMove e x 0) (2 ^ 13) (2 ^ 5))).tlbDropPage f.tenant f.va.toNat ∧
      t = (u.putFdt (pteFrame e) (fdtWith (u.fdt (pteFrame e)) (fdtRcnt (u.fdt (pteFrame e)) - 1) false).toNat).releasePage f))

/-- FQ_HEAD_WRITE, LOG_REPLAY and EPOCH_END (R151, R158, R228) complete: HEAD takes the value, and the answer of a record it passes lets what
waited go on, or delivers the fault, with BADANS on H0 for a word that is neither; a resolved entry without an older one runs again and,
done, frees with its results committed whole, but for registers that `rshrink` has freed since (R361); an epoch of a counting hub, once it
has lasted its f-cycles, halves the counts of its frames. (That HEAD takes any value, and the order of replays, are the model's choice:
notes/assumptions/44.md, notes/assumptions/52.md.) -/
def Claims.AnswersAndReplaysComplete : Prop :=
  (∀ (s : State) (value : Dbl), s.eng.faults = [] →
    ∃ t, exec (.fqHeadWrite value) s = .next t ∧ t.hub = { s.hub with fqHead := value } ∧ t.mem = s.mem ∧ t.work = s.work ∧ t.eng = s.eng) ∧
  (∀ (s : State) (value : Dbl), value.toNat = s.hub.fqHead.toNat + 1 → value.toNat ≤ s.hub.fqTail.toNat →
    let t := s.answer s.hub.fqHead.toNat
    t.eng.faults = [] → exec (.fqHeadWrite value) s = .next { t with hub := { t.hub with fqHead := value } }) ∧
  (∀ (s : State) (pos n : Nat) (f : PFault), (s.eng.faults.find? fun (_, f) => f.queued == some pos) = some (n, f) →
    (s.mem.phys.num (s.hub.fqBase.toNat + 32 * (pos % s.fqSize) + 0x18) 8 = 1 → s.answer pos = (s.dropFault n).releaseWho f.who none) ∧
    (s.mem.phys.num (s.hub.fqBase.toNat + 32 * (pos % s.fqSize) + 0x18) 8 = 2 → s.answer pos = (s.dropFault n).deliverFault f f.code) ∧
    (∀ ans, s.mem.phys.num (s.hub.fqBase.toNat + 32 * (pos % s.fqSize) + 0x18) 8 = ans → ans ≠ 1 → ans ≠ 2 →
      s.answer pos = ((s.galley (hubRecorder 0) 4 0x85#8 0 3 0 (dbl (ans % 256 * 2 ^ 56 + f.va.toNat % 2 ^ 56))).dropFault n).deliverFault f f.code)) ∧
  (∀ (s : State) (pos ans : Nat), (s.eng.faults.find? fun (_, f) => f.queued == some pos) = none →
    s.mem.phys.num (s.hub.fqBase.toNat + 32 * (pos % s.fqSize) + 0x18) 8 = ans →
    s.answer pos = if ans = 1 ∨ ans = 2 then s else s.galley (hubRecorder 0) 4 0x85#8 0 3 0
      (dbl (ans % 256 * 2 ^ 56 + s.mem.phys.num (s.hub.fqBase.toNat + 32 * (pos % s.fqSize)) 8 % 2 ^ 56))) ∧
  (∀ (s s' : State) (k n : Nat) (c : Ctx) (e : LogEntry) (act : MemAct) (ws : List RegWrite) (fl : Word), s.ctx? k = some c →
    c.log.look n = some e → e.state = .resolved → c.oldest e = true → c.stopped = false → memFn e.word = some act →
    act s { c with log := [] } e.reqs = (s', .done ws fl none) →
    exec (.logReplay k n) s = .next (((s'.freeEntry k n e).commitWrites k (e.keeps ws)).raise k fl) ∧
      (∀ x ∈ e.keeps ws, x ∈ ws) ∧ (e.limit = none → e.keeps ws = ws) ∧
      (∀ m t r x, e.limit = some m → RegWrite.v t r x ∈ e.keeps ws → r < m)) ∧
  (∀ (s : State) (hub : Nat), (s.mem.hot.map (·.1)).Nodup → (nth s.hub.hotCtl hub 0#32).toNat % 256 ≠ 0 → (nth s.hub.hotCtl hub 0#32).toNat / 2 ^ 16 % 2 = 0 →
    (s.fCyc < nth s.hub.epoch hub 0 + (nth s.hub.hotCtl hub 0#32).toNat % 256 * 2 ^ 16 → exec (.epochEnd hub) s = .next s) ∧
    (nth s.hub.epoch hub 0 + (nth s.hub.hotCtl hub 0#32).toNat % 256 * 2 ^ 16 ≤ s.fCyc →
    ∃ t, exec (.epochEnd hub) s = .next t ∧ t.work = s.work ∧ t.hub = { s.hub with epoch := setNth s.hub.epoch hub s.fCyc } ∧ t.mem.phys = s.mem.phys ∧
      (∀ f, (t.mem.hot.look f).getD 0
        = if s.frameHub f = some hub then ((s.mem.hot.look f).getD 0) / 2 else (s.mem.hot.look f).getD 0)))

/-! Lanes and contexts -/

/-- The value that the last of some writes gives register `v n` of slot `t`, `s n`, predicate `k` of slot `t`, `d n`, and `x n`, where
MPROG reads `mprog`; none where no write is to it. -/
def Claims.lastV (ws : List RegWrite) (t n : Nat) : Option Word :=
  ws.reverse.findSome? fun w => match w with | .v a b x => if a = t ∧ b = n then some x else none | _ => none
def Claims.lastS (ws : List RegWrite) (n : Nat) : Option Word :=
  ws.reverse.findSome? fun w => match w with | .s b x => if b = n then some x else none | _ => none
def Claims.lastP (ws : List RegWrite) (t k : Nat) : Option Bool :=
  ws.reverse.findSome? fun w => match w with | .p a b x => if a = t ∧ b = k then some x else none | _ => none
def Claims.lastD (ws : List RegWrite) (n : Nat) : Option Slot512 :=
  ws.reverse.findSome? fun w => match w with | .d b x => if b = n then some x else none | _ => none
def Claims.lastX (ws : List RegWrite) (mprog : Dbl) (n : Nat) : Option Dbl :=
  ws.reverse.findSome? fun w => match w with
    | .x b x => if b = n then some x else none
    | .mprog b => if b = n then some mprog else none
    | _ => none
/-- The form rows and predicates of a trunk or limb after some writes (R25). -/
def Claims.formsAfter (ws : List RegWrite) (f : Table FormCell) : Table FormCell :=
  ws.foldl (fun f w => match w with | .form n pair x => formPut f n pair x | _ => f) f
def Claims.spredsAfter (ws : List RegWrite) (f : Table SPred) : Table SPred :=
  ws.foldl (fun f w => match w with | .spred k x => if k = 7 then f else f.put k x | _ => f) f

/-- VARIABLE_LATENCY_COMMIT (R240, R175, R207) completes for a word in flight without poison: afterwards every register of its writes reads
the last value written to it, row by row, all other registers, paths and store bytes stand, its flags are raised, its count falls by one
and it is in flight no longer. A poisoned one is consumed instead, and writes nothing. -/
def Claims.CommitsWriteRegisters : Prop :=
  (∀ (s : State) (k : Nat) (c : Ctx) (e : Inflight), s.ctx? k = some c → c.key = k → c.stopped = false → e ∈ c.inflight → e.poison = none →
    (∀ x ∈ c.inflight, x.serial = e.serial → x = e) → c.map.Nodup → c.sb.length = 6 → s.mem.store.wf = true →
    (∀ t n x, RegWrite.v t n x ∈ e.writes → t < 32) → (∀ t n b, RegWrite.p t n b ∈ e.writes → t < 32) →
    ∃ t c', exec (.variableLatencyCommit k e.serial) s = .next t ∧ t.ctx? k = some c' ∧
      -- the registers
      (∀ i n, i < 32 → t.readV c' i n = if n / 8 < c.map.length then (Claims.lastV e.writes i n).getD (s.readV c i n) else s.readV c i n) ∧
      (∀ n, c'.readS n = (Claims.lastS e.writes n).getD (c.readS n)) ∧
      (∀ i n, i < 32 → n < 7 → c'.readP i n = (Claims.lastP e.writes i n).getD (c.readP i n)) ∧
      (∀ n, c'.readD n = (Claims.lastD e.writes n).getD (c.readD n)) ∧
      (∀ n, c'.readX n = (Claims.lastX e.writes (match s.eng.matrices.look c.cluster with | some m => m.mprog | none => 0#64) n).getD (c.readX n)) ∧
      c'.forms = Claims.formsAfter e.writes c.forms ∧ c'.sp = Claims.spredsAfter e.writes c.sp ∧
      -- flags, counts, and what is in flight
      c'.astat = raiseFlags c.astat e.flags ∧ c'.inflight = c.inflight.filter (fun x => x.serial != e.serial) ∧
      (e.sb < 6 → nth c'.sb e.sb 0 = nth c.sb e.sb 0 - 1 ∧ c'.paths = c.paths) ∧ (∀ j, j ≠ e.sb → nth c'.sb j 0 = nth c.sb j 0) ∧
      (e.sb = 7 → c'.paths = c.paths.map fun p => if p.id = e.path then { p with ctr := p.ctr - 1 } else p) ∧
      -- the frame
      c' = { c with s := c'.s, p := c'.p, x := c'.x, d := c'.d, forms := c'.forms, sp := c'.sp, inflight := c'.inflight, sb := c'.sb,
                    paths := c'.paths, astat := c'.astat, dead := c'.dead } ∧
      (∀ a, (∀ i n x q, RegWrite.v i n x ∈ e.writes → c.vPlace i n = some q → a < q ∨ q + 4 ≤ a) → t.mem.store.byte a = s.mem.store.byte a) ∧
      t.mem = { s.mem with store := t.mem.store, storePoison := t.mem.storePoison } ∧ (∀ j, j ≠ k → t.ctx? j = s.ctx? j) ∧
      t.hub = s.hub ∧ t.eng = s.eng ∧ t.rel = s.rel ∧ t.out = s.out) ∧
  (∀ (s : State) (k q : Nat) (c : Ctx) (e : Inflight), s.ctx? k = some c → c.stopped = false → e ∈ c.inflight → e.poison = some q →
    (∀ x ∈ c.inflight, x.serial = e.serial → x = e) →
    exec (.variableLatencyCommit k e.serial) s
      = .next ((s.changeCtx k fun c => { c with inflight := c.inflight.filter fun x => x.serial != e.serial }).consume k q)) ∧
  (∀ (s : State) (k n : Nat) (c : Ctx), s.ctx? k = some c → (c.stopped = true ∨ ∀ x ∈ c.inflight, x.serial ≠ n) →
    exec (.variableLatencyCommit k n) s = .next s)

/-- ISSUE_OPPORTUNITY (R34, R39, R57) completes: a lane with a clause in progress keeps it; an idle lane with nothing ready does nothing; else the
binding and the path that R57 and R39 name have what is due to them: a delivery, or their next clause. A binding that is ready and has
not yielded goes on for eight clauses that began while another was ready; a path whose counter has reached 256 goes first, else in a warp a path of the lowest pc. -/
def Claims.OpportunitiesComplete : Prop :=
  (∀ (s : State) (cluster lane : Nat), s.stalled = true ∨ (s.lane (laneKey cluster lane)).clause ≠ none →
    exec (.issueOpportunity cluster lane) s = .next s) ∧
  (∀ (s : State) (cluster lane : Nat), s.stalled = false → (s.lane (laneKey cluster lane)).clause = none →
    exec (.issueOpportunity cluster lane) s = .next ({ s with issuer := some (cluster, lane) }.opportunity (laneKey cluster lane))) ∧
  (∀ (s : State) (lk : Nat), (∀ b, b < 8 → s.saveLeaf (8 * lk + b) = s) → s.readyBinds lk = [] → s.opportunity lk = s) ∧
  (∀ (s s1 : State) (lk b run : Nat) (c : Ctx) (p : Path), (∀ b, b < 8 → s.saveLeaf (8 * lk + b) = s) →
    chooseBind (s.lane lk) (s.readyBinds lk) = some (b, run) → (s.finishWaits (8 * lk + b)).mergePaths (8 * lk + b) = s1 →
    s1.ctx? (8 * lk + b) = some c → choosePath (c.kind == .leaf) c.running (s1.readyPaths (8 * lk + b)) = some p →
    let ids := (s1.readyPaths (8 * lk + b)).map (·.id)
    let t0 := (s1.changeCtx (8 * lk + b) fun c => (c.run p ids).age ids p.id).changeLane lk fun l =>
      { l with latch := l.latch.filter fun e => e.bind == b && e.path == p.id }
    let t := if t0.preemptPending c = true ∧ c.trap.isSome = true then t0.firstPreempt c else t0
    let ran := fun r : State => r.changeLane lk fun l => if l.clause.isSome then { l with last := b, run := run } else l
    (t.deliverable c p = true → s.opportunity lk = ran (t.deliverTo (8 * lk + b) p.id)) ∧
    (t.deliverable c p = false → s.opportunity lk = ran (t.startClause (8 * lk + b) p.id))) ∧
  (∀ (l : Lane) (ready : List Nat), (∀ b ∈ ready, b < 8) →
    (∀ b run, chooseBind l ready = some (b, run) → b ∈ ready ∧ run ≤ 8 ∧ ((∀ x ∈ ready, x = b) → run = 0) ∧
      ((∃ x ∈ ready, x ≠ b) → run = if b = l.last ∧ l.yielded = false ∧ l.run < 8 then l.run + 1 else 1)) ∧ (ready ≠ [] → (chooseBind l ready).isSome = true) ∧
    (l.last ∈ ready → l.yielded = false → l.run < 8 → (chooseBind l ready).map (·.1) = some l.last) ∧
    (∀ b, l.last ∈ ready → b ∈ ready → b ≠ l.last → l.yielded = true ∨ 8 ≤ l.run → (chooseBind l ready).map (·.1) ≠ some l.last)) ∧
  (∀ (leaf : Bool) (running : Option Nat) (ready : List Path) (p : Path), choosePath leaf running ready = some p →
    p ∈ ready ∧ ((∃ q ∈ ready, q.age = 256) → p.age = 256) ∧
    (leaf = false → (∀ q ∈ ready, q.age ≠ 256) → ∀ q ∈ ready, p.pc.toNat ≤ q.pc.toNat) ∧
    (leaf = true → (∀ q ∈ ready, q.age ≠ 256) → (∃ q ∈ ready, some q.id = running) → some p.id = running))

/-- JOIN_TIMEOUT, WARP_RETIRE and TRACKER_DRAIN (R31, R42) complete: a context at a join 4,096 a-cycles after it first came there goes on
alone; a context with no live slot whose stores are done, and whose copies are, if its launch has not ended, frees its binding; a drained
tracker entry is free. -/
def Claims.LaneEventsComplete : Prop :=
  (∀ (s : State) (k t0 : Nat) (c : Ctx), s.ctx? k = some c → c.joinAt.look c.pcOf.toNat = some t0 →
    (c.atJoin = true → t0 + 4096 ≤ s.aCyc → ∃ t, exec (.joinTimeout k) s = .next t ∧ t.ctx? k = some { c with alone := true } ∧
      (∀ j, j ≠ k → t.ctx? j = s.ctx? j) ∧ t.mem = s.mem ∧ t.eng = s.eng ∧ t.hub = s.hub) ∧
    (s.aCyc < t0 + 4096 → exec (.joinTimeout k) s = .next s)) ∧
  (∀ (s : State) (k : Nat) (c : Ctx), s.ctx? k = some c → c.isComp = false → c.inflight = [] → c.log = [] → c.live = 0#32 →
    (s.storesOf c.uid = false → c.stopped = true ∨ s.copiesOf c.uid = false →
      ∃ t, exec (.warpRetire k) s = .next t ∧ t.ctx? k = none ∧ (∀ j, j ≠ k → t.ctx? j = s.ctx? j) ∧ t.hub = s.hub ∧ t.mem.store = s.mem.store ∧
        ((∀ x ∈ s.eng.transit, x.1 ≠ c.uid) → t.mem = s.mem ∧ t.eng = s.eng)) ∧
    (s.storesOf c.uid = true ∨ (c.stopped = false ∧ s.copiesOf c.uid = true) → exec (.warpRetire k) s = .next s)) ∧
  (∀ (s : State) (cluster entry : Nat) (x : Tracker), (s.work.trackers.filter fun t => t.cluster == cluster)[entry]? = some x →
    (s.storesOf x.owner = false → s.copiesOf x.owner = false → ∃ t, exec (.trackerDrain cluster entry) s = .next t ∧ x ∉ t.work.trackers ∧
      (∀ y ∈ s.work.trackers, y.owner ≠ x.owner → y ∈ t.work.trackers) ∧ t.mem = s.mem ∧ t.work.ctxs = s.work.ctxs) ∧
    (s.storesOf x.owner = true ∨ s.copiesOf x.owner = true → exec (.trackerDrain cluster entry) s = .next s))

/-- CODE_SCAN (R162, R258) completes for a frame that a fetch waits for: the frame that passes is locked, one that fails is not; every path
that waited goes on, or has BADCODE with the failing PA. -/
def Claims.CodeScanCompletes : Prop :=
  ∀ (s : State) (frame : Nat), s.mem.phys.wf = true → frame ∈ s.eng.scans →
    ∃ t, exec (.codeScan frame) s = .next t ∧ frame ∉ t.eng.scans ∧
      (scanFrame s.mem.phys frame = none → t.fdt frame = s.fdt frame ||| 0x800000#64) ∧
      (∀ a, scanFrame s.mem.phys frame = some a → t.mem = s.mem) ∧
      (∀ k c, s.ctx? k = some c → ∃ c', t.ctx? k = some c' ∧ c'.paths.length = c.paths.length ∧
        ∀ (j : Nat) (p : Path), c.paths[j]? = some p → p.wait = .fetching (some frame) → ∃ p' : Path, c'.paths[j]? = some p' ∧ p'.wait = .none ∧ p'.pc = p.pc ∧
          (scanFrame s.mem.phys frame = none → p'.deliver = none) ∧
          (∀ a, scanFrame s.mem.phys frame = some a → ∃ d : TrapState, p'.deliver = some d ∧ d.code = 0x1E#8 ∧ d.addr = dbl a))

/-- What the grant of a request for `g` granules leaves: the granules read zero and stand at the end of the warp's map, its path goes on, and
D holds the new number of granules (R61, R71, R360). -/
def Claims.granted (s : State) (cluster lane : Nat) (c : Ctx) (p : Path) (g : Nat) (d : BitVec 8) (m : Word) : State :=
  ((s.zeroGranules cluster lane ((s.freeGranules cluster lane).take g)).changeCtx c.key fun c =>
    { (c.changePath p.id fun p => { p with wait := .none }) with map := c.map ++ (s.freeGranules cluster lane).take g }).commitWrites c.key
    (c.writesAt d 1 m (dbl (c.map.length + g)))

/-- LIMB_LOAD, LEAF_RELOAD, LEVEL_RELEASE and RGROW_GRANT (R30, R34, R41, R61, R71, R77) complete: a queue's first limb gets a free
binding, and what is left of a materialised one warps; a saved leaf warp gets its own; the release of a box ends the
relaunch of gangs in it from scope 3 on and frees the scratch of its groups with level 0; of two requests for growth that of the older group
is served, once its granules are free, and one that would go beyond 24 granules raises RGROW. -/
def Claims.PlacementsComplete : Prop :=
  (∀ (s : State) (cluster lane bind : Nat) (c : Ctx), s.work.limbQueue.find? (s.loadsOn cluster) = some c →
    s.freeBinding cluster c.map.length = some (lane, bind) → c.part = none →
    ∃ t, exec (.limbLoad cluster) s = .next t ∧ t.ctx? (ctxKey cluster lane bind)
        = some { c with cluster := cluster, lane := lane, bind := bind, map := (s.freeGranules cluster lane).take c.map.length } ∧
      t.work.limbQueue = s.work.limbQueue.erase c ∧ t.mem.phys = s.mem.phys ∧ t.hub = s.hub) ∧
  (∀ (s s1 : State) (cluster lane bind warps leaf : Nat) (c : Ctx) (b : Bool), s.work.limbQueue.find? (s.loadsOn cluster) = some c →
    s.freeBinding cluster c.map.length = some (lane, bind) → c.part.isSome = true →
    ({ s with work := { s.work with limbQueue := s.work.limbQueue.erase c } } : State).placePart c false = (s1, b, warps, leaf) →
    (warps = 0 → exec (.limbLoad cluster) s = .next s1) ∧
    (warps ≠ 0 → exec (.limbLoad cluster) s = .next (s1.galleyCtx c 2 0x03#8 (dbl (leaf % 2 ^ 32 * 2 ^ 16 + warps % 2 ^ 16))))) ∧
  (∀ (s : State) (cluster : Nat), s.work.limbQueue.find? (s.loadsOn cluster) = none → exec (.limbLoad cluster) s = .next s) ∧
  (∀ (s : State) (index : Nat) (x : SavedCtx), s.work.leafSaved[index]? = some x →
    ((s.freeBinds x.ctx.cluster x.ctx.lane x.ctx.map.length).contains x.ctx.bind = true → ((s.groupOf x.ctx).map (·.saved)).getD false = false →
      (x.ctx.paths.all (s.onBarrier x.ctx)) = false → x.ctx.stopped = false →
      exec (.leafReload index) s = .next (({ s with work := { s.work with leafSaved := s.work.leafSaved.eraseIdx index } }).loadSaved x
        x.ctx.cluster x.ctx.lane x.ctx.bind)) ∧
    ((x.ctx.paths.all (s.onBarrier x.ctx)) = true → exec (.leafReload index) s = .next s)) ∧
  (∀ (s : State) (node level box : Nat) (n : Node), s.node? node = some n → level < n.nlev → n.kind = .kernel → n.state = .running →
    s.boxDrained node (n.boxAt level box) = true → s.mem.merge = [] → s.eng.chans = [] →
    ∃ t, exec (.levelRelease node level box) s = .next t ∧ t.mem = s.mem ∧ t.work.ctxs = s.work.ctxs ∧
      (∀ k g, s.work.groups.look k = some g → ∃ g', t.work.groups.look k = some g' ∧
        g'.freed = (g.freed || (g.node == node && (n.boxAt level box).meets g.box && level == 0))) ∧
      (∀ k g, s.work.gangs.look k = some g → ∃ g', t.work.gangs.look k = some g' ∧
        g'.relaunchable = (g.relaunchable && !(g.node == node && (n.boxAt level box).meets g.box && decide (3 ≤ n.scope level))))) ∧
  (∀ (s : State) (node level box : Nat) (n : Node), s.node? node = some n → s.boxDrained node (n.boxAt level box) = false →
    exec (.levelRelease node level box) s = .next s) ∧
  (∀ (s : State) (cluster lane g since : Nat) (d : BitVec 8) (m : Word) (c : Ctx) (p : Path), s.onLane cluster lane = [c] →
    c.paths = [p] → p.wait = .grow g d m since → c.stopped = false →
    (c.map.length + g ≤ 24 → g ≤ (s.freeGranules cluster lane).length →
      exec (.rgrowGrant cluster lane) s = .next (Claims.granted s cluster lane c p g d m)) ∧
    (c.map.length + g ≤ 24 → (s.freeGranules cluster lane).length < g → exec (.rgrowGrant cluster lane) s = .next s) ∧
    (24 < c.map.length + g → ∃ x, exec (.rgrowGrant cluster lane) s
      = .next (s.changeCtx c.key fun c => c.changePath p.id fun p => { p with wait := .none, deliver := some x }) ∧ x.code = 0x08#8 ∧ x.mask = m)) ∧
  (∀ (s : State) (cluster lane g1 g2 t1 t2 k1 k2 : Nat) (d1 d2 : BitVec 8) (m1 m2 : Word) (c1 c2 : Ctx) (p1 p2 : Path) (x1 x2 : Group),
    (s.onLane cluster lane = [c1, c2] ∨ s.onLane cluster lane = [c2, c1]) → c1.paths = [p1] → c2.paths = [p2] →
    p1.wait = .grow g1 d1 m1 t1 → p2.wait = .grow g2 d2 m2 t2 → c1.stopped = false → c2.stopped = false →
    c1.group = some k1 → c2.group = some k2 → s.work.groups.look k1 = some x1 → s.work.groups.look k2 = some x2 → x1.older x2 = true →
    c1.map.length + g1 ≤ 24 →
    (g1 ≤ (s.freeGranules cluster lane).length → exec (.rgrowGrant cluster lane) s = .next (Claims.granted s cluster lane c1 p1 g1 d1 m1)) ∧
    ((s.freeGranules cluster lane).length < g1 → exec (.rgrowGrant cluster lane) s = .next s))

/-! Banks, registers and views -/

/-- CLS_BANKMODE_WRITE, BANK_DRAIN_DONE and BANK_FILL_DONE (R69, R70, Table 4.3) complete: a request drains the bank; drained of the users
of its mode it fills; 256 a-cycles later it holds zeros and takes users in its new mode. -/
def Claims.BankModesChange : Prop :=
  (∀ (s : State) (cluster bank : Nat) (value : Word), s.clusterDropped cluster = false →
    exec (.clsBankmodeWrite cluster bank value) s = .next (s.bankRequest cluster bank (value.toNat % 4)).1) ∧
  (∀ (s : State) (cluster bank : Nat), bankState (s.bankWord cluster bank) = 1 → s.bankLeft cluster bank = true →
    ∃ t, exec (.bankDrainDone cluster bank) s = .next t ∧
      t.bankWord cluster bank = bankWordOf (bankMode (s.bankWord cluster bank)) (bankNext (s.bankWord cluster bank)) 2 ∧
      t.eng.fill.look (512 * cluster + bank) = some s.aCyc ∧ t.mem.store = s.mem.store ∧ t.work = s.work) ∧
  (∀ (s : State) (cluster bank since : Nat), bankState (s.bankWord cluster bank) = 2 → s.eng.fill.look (512 * cluster + bank) = some since →
    since + 256 ≤ s.aCyc → ∃ t, exec (.bankFillDone cluster bank) s = .next t ∧
      t.bankWord cluster bank = bankWordOf (bankNext (s.bankWord cluster bank)) (bankNext (s.bankWord cluster bank)) 0 ∧
      (∀ a, a < 32768 → t.mem.store.byte (storeKey cluster (bank * 32768) + a) = 0#8) ∧
      (∀ a, (a < storeKey cluster (bank * 32768) ∨ storeKey cluster (bank * 32768) + 32768 ≤ a) → t.mem.store.byte a = s.mem.store.byte a) ∧
      t.mem.phys = s.mem.phys ∧ t.work = s.work)

/-- REGISTER_WRITE, FPOOL_FAST_ADD, FPOOL_CAP_ADD, PWR_LIMIT_WRITE and HOT_SKIP_CLEAR (R158, R224, R229, R235, R368) complete: a write goes to
the register at its address when its width fits and is dropped otherwise, a frame of the right tier that is in no pool joins its pool and
another is dropped, the power cap is held between 800 and
2400, and SKIP is cleared by 0. -/
def Claims.RegisterEventsComplete : Prop :=
  (∀ (s : State) (by_ : Writer) (address : Word) (wide : Bool) (value : Dbl) (r : RegName), regAt none address.toNat = some r → r.wide = wide →
    exec (.registerWrite by_ address wide value) s = .next (s.writeReg64 by_ r value)) ∧
  (∀ (s : State) (i : Instr) (fastTier : Bool) (pa : Dbl) (h : Nat),
    ((i = .fpoolFastAdd pa ∧ fastTier = true) ∨ (i = .fpoolCapAdd pa ∧ fastTier = false)) →
    pa.toNat % 65536 = 0 → s.frameHub (pa.toNat / 65536) = some h → decide (pa.toNat / 65536 < fastFrames) = fastTier →
    fdtFree (s.fdt (pa.toNat / 65536)) = false →
    ∃ t, exec i s = .next t ∧ t.work = s.work ∧ t.eng = s.eng ∧
      t.hub.fast = (if fastTier then s.hub.fast ++ [pa.toNat / 65536] else s.hub.fast) ∧
      t.hub.cap = (if fastTier then s.hub.cap else s.hub.cap ++ [pa.toNat / 65536])) ∧
  (∀ (s : State) (i : Instr) (fastTier : Bool) (pa : Dbl),
    ((i = .fpoolFastAdd pa ∧ fastTier = true) ∨ (i = .fpoolCapAdd pa ∧ fastTier = false)) →
    (pa.toNat % 65536 ≠ 0 ∨ s.frameHub (pa.toNat / 65536) = none ∨ decide (pa.toNat / 65536 < fastFrames) ≠ fastTier ∨
      fdtFree (s.fdt (pa.toNat / 65536)) = true) → exec i s = .next s) ∧
  (∀ (s : State) (by_ : Writer) (address : Word) (wide : Bool) (value : Dbl),
    (regAt none address.toNat = none ∨ ∃ r, regAt none address.toNat = some r ∧ r.wide ≠ wide) →
    exec (.registerWrite by_ address wide value) s = .next s) ∧
  (∀ (s : State) (value : Dbl), ∃ t, exec (.pwrLimitWrite value) s = .next t ∧
    t.hub.pwr = (if value.toNat < 800 then 800#64 else if 2400 < value.toNat then 2400#64 else value) ∧ t.mem = s.mem ∧ t.work = s.work) ∧
  (∀ (s : State) (hub : Nat), hub < s.hub.hotSkip.length →
    ∃ t, exec (.hotSkipClear hub 0#32) s = .next t ∧ nth t.hub.hotSkip hub 1#32 = 0#32 ∧ t.mem = s.mem ∧ t.work = s.work)

/-- VIEW_LINE_REQUEST and REMOTE_VIEW_REQUEST (R104, R107, R116, R118) complete for an installed view of the tenant: the entry hub maps the bytes
of the line, each base sector that they need is read once at its home, and the sectors are kept in the requesting cluster's cache
with spans at one composing hub, that of the lowest base sector of the line; a remote view's request leaves its descriptor at the far hub
and keeps no line. (That a byte of the line which faults leaves out its view sector alone is the model's choice,
notes/assumptions/110.md.) -/
def Claims.ViewRequestsComplete : Prop :=
  (∀ (s : State) (cluster tenant : Nat) (va : Dbl) (v : View), s.viewAt tenant va.toNat = some v → (viewOf v.words).remote = false →
    s.clusterDropped cluster = false →
    exec (.viewLineRequest cluster tenant va) s = .next (s.fillView (lineRequester cluster tenant) cluster va.toNat)) ∧
  (∀ (s s0 : State) (q : Requester) (cluster a hub : Nat) (bs : List (Option (Loc × Nat))), s.farView (a / 2 ^ 44 % 4096) = false →
    s.composed q (a / 128) = (s0, bs) →
    let need := sectorsOf (bs.filterMap fun b => b.map (·.1))
    let s1 := need.foldl State.touchHome s0
    let sec := fun k => (bs.drop (32 * k)).take 32
    hub = (s1.homeHub (need.foldl min (2 ^ 64) * 32)).getD 0 →
    s.fillView q cluster a = [0, 1, 2, 3].foldl (fun s k => if (sec k).all (·.isSome) then
      s.keepView cluster hub (a / 128 * 128 + 32 * k) ((sec k).filterMap fun b => b.map (·.1)) ((sec k).filterMap fun b => b.map (·.2)) else s) s1) ∧
  (∀ (s : State) (cluster tenant : Nat) (va : Dbl) (v : View), s.viewAt tenant va.toNat = some v → (viewOf v.words).remote = true →
    s.peerDown (viewOf v.words).pkg = false →
    ∃ t, exec (.remoteViewRequest cluster tenant va) s = .next t ∧ (va.toNat / 2 ^ 44 % 4096) ∈ t.eng.farDesc ∧
      (∀ x ∈ s.eng.farDesc, x ∈ t.eng.farDesc) ∧ t.mem = s.mem ∧ t.work = s.work ∧ t.hub = s.hub) ∧
  (∀ (s : State) (cluster tenant : Nat) (va : Dbl), s.viewAt tenant va.toNat = none →
    exec (.viewLineRequest cluster tenant va) s = .next s ∧ exec (.remoteViewRequest cluster tenant va) s = .next s)

/-! Events of engines -/

/-- COPY_UNIT_WRITE (R82, R287) completes: a started copy moves its next unit, the bytes arrive at its object, WP rises by them, and the last
unit takes it out of the queue. Within a cluster's store the bytes at the destination are those that stood at the source. -/
def Claims.CopyUnitMovesBytes : Prop :=
  (∀ (s s1 : State) (cluster ch n : Nat) (si di : Int) (op : CopyOp) (r : List CopyOp), (s.chan cluster ch).queue = op :: r →
    op.held = false → s.rel.fullFreeze = false → op.started = true → op.record = none → op.unit = (si, di, n) →
    (s.walkAhead (engineRequester op.tenant cluster op.priv) op.ahead).moveBytes (engineRequester op.tenant cluster op.priv) cluster op.src op.dst si di n
      = (s1, .done) →
    let s2 := (match op.obj with | some o => s1.arriveObj op.source o.key n | none => s1).setChan cluster ch fun c => { c with wp := op.wp + n }
    exec (.copyUnitWrite cluster ch) s
      = .next (if op.rowb * op.rows ≤ op.wp + n then s2.popCopy cluster ch else s2.setHead cluster ch { op with wp := op.wp + n })) ∧
  (∀ (s : State) (cluster ch x y n : Nat) (op : CopyOp) (r : List CopyOp), s.mem.store.wf = true → (s.chan cluster ch).queue = op :: r →
    op.held = false → s.rel.fullFreeze = false → op.started = true → op.record = none → op.obj = none → op.wp = 0 → op.rows = 1 →
    op.rowb = n → 0 < n → y % 128 + n ≤ 128 → op.src = .store cluster x → op.dst = .store cluster y →
    ∃ t, exec (.copyUnitWrite cluster ch) s = .next t ∧ (t.chan cluster ch).queue = r ∧ (t.chan cluster ch).wp = n ∧
      (∀ i, i < n → t.mem.store.byte (storeKey cluster (y + i)) = s.mem.store.byte (storeKey cluster (x + i))) ∧
      (∀ a, a < storeKey cluster y ∨ storeKey cluster y + n ≤ a → t.mem.store.byte a = s.mem.store.byte a) ∧
      t.mem.phys = s.mem.phys ∧ t.work = s.work)

/-- GATHER_UNIT_WRITE, GATHER_DONE, PSEL_RUN and COLL_RUN (R200, R201, R204, R232) complete: a unit of the gather at the head takes the bytes of
its elements and arrives at the object; with all units there the operation leaves the queue; the selector ranks, then copies, then ends;
a collective none of whose packages is down writes its result and leaves the queue, another ends with its node's LINKLOST. (How a gather's
units are cut is the model's reading, notes/assumptions/38.md; that engines walk all 32 pages ahead, notes/assumptions/89.md, and which
packages a multicast group holds, notes/assumptions/96.md, are its choice.) -/
def Claims.EngineEventsComplete : Prop :=
  (∀ (s s1 s2 : State) (cluster unit lo n : Nat) (op : GatherOp) (place : Place) (bs : Held)
      (crossed : List Nat),
    s.gatherHead cluster = some op → op.psel = false → op.going = true → unitOf op.dstAt (op.count * op.size) unit = (lo, n) → n ≠ 0 →
    op.units.contains unit = false → s.gatherPlace op = some place →
    (s.walkAhead (engineRequester op.tenant cluster op.priv) (op.ahead (lo / op.size))).gatherElements (engineRequester op.tenant cluster op.priv) op
      (lo / op.size) ((lo + n - 1) / op.size + 1 - lo / op.size) [] op.crossed = (s1, .ok (bs, crossed)) →
    s1.engineWrite (engineRequester op.tenant cluster op.priv) (some cluster) place (lo : Int)
      ((bs.drop (lo - lo / op.size * op.size)).take n) = (s2, .ok ()) →
    exec (.gatherUnitWrite cluster unit) s = .next ((match op.obj with | some o => s2.arriveObj op.source o.key n | none => s2).setGather cluster
      { op with units := op.units ++ [unit], crossed := crossed })) ∧
  (∀ (s : State) (cluster : Nat) (op : GatherOp), s.gatherHead cluster = some op → op.psel = false → op.going = true → op.at_ 0x18 8 = 0 →
    op.units.length = unitCount op.dstAt (op.count * op.size) →
    ∃ t, exec (.gatherDone cluster) s = .next t ∧ t.gathers cluster = (s.gathers cluster).drop 1 ∧ t.mem = s.mem ∧ t.work = s.work) ∧
  (∀ (s : State) (cluster : Nat) (op : GatherOp), s.gatherHead cluster = some op → op.psel = true → op.going = true →
    (op.phase = 0 → exec (.pselRun cluster) s = .next (s.pselRank cluster op)) ∧
    (op.phase ≠ 0 → op.copies = false → ∃ t, exec (.pselRun cluster) s = .next t ∧ t.gathers cluster = (s.gathers cluster).drop 1 ∧
      t.mem = s.mem ∧ t.work = s.work)) ∧
  (∀ (s s1 : State) (hub n : Nat) (op : CollOp) (r : List CollOp), s.colls hub = op :: r → op.held = false → s.rel.fullFreeze = false →
    s.rel.halted = false →
    ((∀ p ∈ s.collMembers op, p ≠ s.hub.peerSelf.toNat → s.peerDown p = false) →
      ({ s with serial := s.serial + 1 } : State).collLoop (hubRequester op.tenant hub op.priv) op s.serial 0
        (op.at_ 2 * (if op.kind = 2 then (s.collMembers op).length else 1)) = (s1, .ok (), n) →
      exec (.collRun hub) s = .next (s1.setColls hub ((s1.colls hub).drop 1))) ∧
    ((∃ p ∈ s.collMembers op, p ≠ s.hub.peerSelf.toNat ∧ s.peerDown p = true) →
      exec (.collRun hub) s = .next ((s.setColls hub r).engineFails op.node true 0x09#8 0)))

/-- MATRIX_OP_START, MATRIX_PASS and MATRIX_OP_COMPLETE (R180, R188-R197, Table 10.5) complete: the operation at the head starts with MPROG at
its first band, a pass writes the values of its rows to C, for `mzero` zeros, for a dense form the accumulator with the products of each
k-block (INT8 modulo 2^32), and MPROG goes to the next band; a sparse pass stops with MSPARSE at its first bad row group; the finished
operation leaves the queue and MPROG reads DONE. (That MPROG of a finished operation keeps its row group is the model's reading,
notes/assumptions/42.md, and that engines walk all pages ahead its choice, notes/assumptions/89.md.) -/
def Claims.MatrixEventsComplete : Prop :=
  (∀ (s : State) (cluster : Nat) (op : MatOp) (r : List MatOp), (s.matrix cluster).queue = op :: r → (s.matrix cluster).started = false →
    (s.matrix cluster).trapped = false → (s.matrix cluster).held = false → s.rel.fullFreeze = false → s.rel.halted = false →
    s.rel.tooHot = false → s.matrixPreempted cluster = false → ∃ t, exec (.matrixOpStart cluster) s = .next t ∧ t.matrix cluster = { s.matrix cluster with
      started := true, mprog := mprogOf 0 0 1, rowBand := 0, from_ := 0, finished := false } ∧ t.mem = s.mem ∧ t.work = s.work) ∧
  (∀ (s s1 : State) (cluster : Nat) (op : MatOp) (r : List MatOp) (rows : List (Nat × List Nat)), (s.matrix cluster).queue = op :: r →
    (s.matrix cluster).started = true → (s.matrix cluster).finished = false → s.matrixFree (s.matrix cluster) = true → op.form ≠ .sparse →
    s.matrixPreempted cluster = false →
    let rs := bandRows op.cDesc.rows (s.matrix cluster).rowBand (s.matrix cluster).from_
      ((min op.cDesc.rows (128 * (s.matrix cluster).rowBand + 128) - 128 * (s.matrix cluster).rowBand) / 8)
    let cs := bandCols op.cDesc.cols (s.matrix cluster).cb
    (s.walkAhead (op.requester cluster) (op.ahead rs cs)).passValues cluster op rs cs = (s1, .ok rows) →
    exec (.matrixPass cluster) s
      = .next ((s1.writeRows cluster op.cDesc cs rows).setMatrix cluster fun x => x.afterPass op.cDesc)) ∧
  -- a sparse pass: the metadata of the band is checked first; the rows before the first bad group are written, and the operation stops there
  (∀ (s s1 s2 : State) (cluster : Nat) (op : MatOp) (r : List MatOp) (bad : Option (Nat × Nat)) (rows : List (Nat × List Nat)),
    (s.matrix cluster).queue = op :: r → (s.matrix cluster).started = true → (s.matrix cluster).finished = false →
    s.matrixFree (s.matrix cluster) = true → op.form = .sparse → s.matrixPreempted cluster = false →
    let band := (s.matrix cluster).rowBand
    let groups := (min op.cDesc.rows (128 * band + 128) - 128 * band) / 8
    s.metaCheck (op.requester cluster) cluster op.aDesc band (s.matrix cluster).from_ (groups - (s.matrix cluster).from_) = (s1, .ok bad) →
    let rs := bandRows op.cDesc.rows band (s.matrix cluster).from_ ((bad.map (·.1)).getD groups)
    let cs := bandCols op.cDesc.cols (s.matrix cluster).cb
    (s1.walkAhead (op.requester cluster) (op.ahead rs cs)).passValues cluster op rs cs = (s2, .ok rows) →
    (bad = none → exec (.matrixPass cluster) s
      = .next ((s2.writeRows cluster op.cDesc cs rows).setMatrix cluster fun x => x.afterPass op.cDesc)) ∧
    (∀ g a, bad = some (g, a) → exec (.matrixPass cluster) s = .next ((s2.writeRows cluster op.cDesc cs rows).sparseTrap cluster op g a))) ∧
  (∀ (s : State) (cluster g a : Nat) (op : MatOp) (c : Ctx), s.ctx? (ctxKey cluster 512 0) = some c →
    let t := s.sparseTrap cluster op g a
    (t.matrix cluster).trapped = true ∧ (t.matrix cluster).queue = (s.matrix cluster).queue ∧
    (t.matrix cluster).mprog = mprogOf g (s.matrix cluster).cb 2 ∧ t.mem = s.mem ∧
    ∃ x, (t.ctx? (ctxKey cluster 512 0)) = some { c with paths := c.paths.map fun p => { p with msparse := some x } } ∧ x.code = 0x06#8 ∧
      x.pc = op.pc ∧ x.word = BitVec.ofNat 5 op.pos ∧ x.addr = dbl a ∧ x.log = 0xF#4) ∧
  -- the values of a dense pass
  (∀ (s : State) (q : Requester) (cluster i k : Nat) (d : MatDesc), d.space = 1 → s.mem.storePoison = [] →
    let n := matSize d.fmt
    let a := if d.tr then d.base + k * d.stride + i * n else d.base + i * d.stride + k * n
    a + n ≤ 2 ^ 24 → s.matElement q cluster d i k = (s, .ok (s.mem.store.num (storeKey cluster a) n))) ∧
  (∀ (s : State) (q : Requester) (cluster kb : Nat) (a b : MatDesc) (cs : List Nat) (rows : List (Nat × List Nat)) (x y : Nat → Nat → Nat),
    a.zs = false → a.sc = false → b.sc = false →
    let ks := (List.range (kBlock a.fmt)).map (kb * kBlock a.fmt + ·)
    (∀ i ∈ rows.map (·.1), ∀ k ∈ ks, s.matElement q cluster a i k = (s, .ok (x i k))) →
    (∀ j ∈ cs, ∀ k ∈ ks, s.matElement q cluster b j k = (s, .ok (y j k))) →
    s.passBlock q cluster .dense a b cs kb rows = (s, .ok (rows.map fun (i, acc) =>
      (i, (acc.zip cs).map fun (v, j) => matAcc a.fmt b.fmt v (ks.map fun k => (x i k, y j k)) 127 127)))) ∧
  (∀ (acc ea eb : Nat) (terms : List (Nat × Nat)), matAcc 4 4 acc terms ea eb
    = (((acc : Int) + (terms.map fun p : Nat × Nat => (BitVec.ofNat 8 p.1).toInt * (BitVec.ofNat 8 p.2).toInt).foldl (· + ·) 0) % 2 ^ 32).toNat) ∧
  (∀ (fa fb acc ea eb : Nat) (terms : List (Nat × Nat)), fa ≠ 4 → terms ≠ [] → ea = 255 ∨ eb = 255 → matAcc fa fb acc terms ea eb = 0x7FC00000) ∧
  (∀ (s : State) (cluster : Nat) (op : MatOp) (rs cs : List Nat), op.form = .zero →
    s.passValues cluster op rs cs = (s, .ok (rs.map fun i => (i, cs.map fun _ => 0)))) ∧
  (∀ (s : State) (cluster : Nat) (op : MatOp) (r : List MatOp), (s.matrix cluster).queue = op :: r → (s.matrix cluster).started = true →
    (s.matrix cluster).finished = true → s.matrixFree (s.matrix cluster) = true →
    ∃ t, exec (.matrixOpComplete cluster) s = .next t ∧ (t.matrix cluster).queue = r ∧ (t.matrix cluster).started = false ∧
      (t.matrix cluster).mprog = ((s.matrix cluster).mprog &&& ~~~3#64) ||| 3#64 ∧ t.mem = s.mem ∧ t.work = s.work)

/-! Chains and nodes -/

/-- CHN_TAIL and CHN_STAT_WRITE (R55, R66) complete: a write of TAIL by a function that reaches the chain publishes the entries up to it when
the ring holds them, and is dropped with BADTAIL when it goes back, is too far, or the chain is a device's; a 1 clears BADTAIL. -/
def Claims.ChainRegistersComplete : Prop :=
  (∀ (s : State) (fn chain : Nat) (value : Dbl), s.mem.phys.wf = true → s.hub.ready ≠ 0#64 → s.reaches fn chain = true →
    (s.chainDevice chain = false → s.chainTail chain ≤ value.toNat → value.toNat ≤ s.chainSeq chain + s.chainRing chain →
      ∃ t, exec (.chnTail fn chain value) s = .next t ∧ t.chainTail chain = value.toNat ∧ t.chainHead chain = s.chainHead chain ∧
        t.chainSeq chain = s.chainSeq chain ∧ t.hub = s.hub ∧ t.work.nodes = s.work.nodes ∧ t.mem.store = s.mem.store) ∧
    (s.chainDevice chain = true ∨ value.toNat < s.chainTail chain ∨ s.chainSeq chain + s.chainRing chain < value.toNat →
      ∃ t, exec (.chnTail fn chain value) s = .next t ∧ t.hub.badTail = s.hub.badTail ||| (1#256 <<< chain) ∧ t.mem = s.mem ∧ t.work = s.work)) ∧
  (∀ (s : State) (fn chain : Nat) (value : Dbl), s.reaches fn chain = true → value.getLsbD 0 = true →
    ∃ t, exec (.chnStatWrite fn chain value) s = .next t ∧ t.hub.badTail = s.hub.badTail &&& ~~~(1#256 <<< chain) ∧ t.mem = s.mem ∧ t.work = s.work)

/-- CHAIN_ACCEPT, NODE_DISPATCH, READY_AGING, KERNEL_PASSED_OVER and NODE_COMPLETE (R45-R50, R53, R54) complete: a valid entry at HEAD enters the
node table; the first ready node that an executor takes starts; a node ready for 2^21 f-cycles rises one level, not above 1; one passed
over as long keeps its clusters, and for a kernel the youngest group of lower priority on them is pre-empted; a node that is done, its
record written, counts as complete. (That a node rises one level for each 2^21 f-cycles, and that the walker reads at the privilege of its
chain, are the model's reading: notes/assumptions/55.md, notes/assumptions/53.md.) -/
def Claims.NodeEventsComplete : Prop :=
  (∀ (s s1 s2 : State) (chain index p : Nat) (t : Target) (bs : List Byte) (bad : Option Nat), chain < 256 → s.chainHead chain = p →
    p < s.chainTail chain → s.walkerWaits chain = false → s.work.nodes.freeBelow 4096 = some index →
    s.globalTarget (s.chainRequester chain) .read false ((s.chainBase chain + 16 * (p % s.chainRing chain) : Nat) : Int) 16 = (s1, .ok t) →
    s1.readHome t = (s2, bs, bad) → fieldOf bs 8 8 % 2 = 1 - p / s.chainRing chain % 2 →
    exec (.chainAccept chain) s
      = .next (((s2.recv (hubRecorder 0) (s.chainRequester chain).tenant 3 0 .publish (publishKey chain p)).forget (publishKey chain p)).enterNode
          index chain (p + 1) (fieldOf bs 0 8))) ∧
  (∀ (s t : State) (kind : NodeKind) (k : Nat) (n : Node) (r : List (Nat × Node)), s.pool kind = (k, n) :: r → s.placeless n = false →
    s.startNode k n = some t → exec (.nodeDispatch kind) s = .next t) ∧
  (∀ (s : State) (node : Nat) (n : Node), s.node? node = some n → n.state = .ready → 1 < n.prio → n.readyAt + 2 ^ 21 ≤ s.fCyc →
    ∃ t, exec (.readyAging node) s = .next t ∧ t.node? node = some { n with prio := n.prio - 1, readyAt := n.readyAt + 2 ^ 21 } ∧
      t.mem = s.mem ∧ t.hub = s.hub) ∧
  (∀ (s : State) (node since : Nat) (n : Node), s.node? node = some n → n.state = .ready → n.passedAt = some since →
    since + 2 ^ 21 ≤ s.fCyc → n.kind = .copy ∨ n.kind = .gather ∨ s.work.ctxs = [] →
    ∃ t, exec (.kernelPassedOver node) s = .next t ∧ t.node? node = some { n with blocking := true } ∧ t.mem = s.mem ∧ t.hub = s.hub) ∧
  (∀ (s : State) (node since k : Nat) (n : Node) (g : Group), s.node? node = some n → n.state = .ready → n.passedAt = some since →
    since + 2 ^ 21 ≤ s.fCyc → n.kind = .kernel → s.work.units = [] →
    (let lower : Nat → Bool := fun j => match s.node? j with | some m => m.kind == .kernel && decide (n.prio < m.prio) | none => false
     pickGroup (fun a b => b.older a) (s.work.groups.filter fun x => lower x.2.node && !x.2.freed && !x.2.saved &&
       (s.work.ctxs.any fun y => y.2.group == some x.1) && s.permits n x.2.cluster) = some (k, g)) →
    exec (.kernelPassedOver node) s = .next ((s.changeNode node fun n => { n with blocking := true }).preempt g.node k false)) ∧
  (∀ (s : State) (node since : Nat) (n : Node), s.node? node = some n → n.passedAt = some since → s.fCyc < since + 2 ^ 21 →
    exec (.kernelPassedOver node) s = .next s) ∧
  (∀ (s s1 : State) (node : Nat) (n : Node), s.node? node = some n → s.nodeDone node n = true → n.engineFail = none → n.code = 0#8 →
    s.mem.merge = [] → (s.closes node = true → exec (.nodeComplete node) s = .next s) ∧
    (s.closes node = false → s.writeRecord node n = (s1, .done) → exec (.nodeComplete node) s = .next (s1.countComplete node n))) ∧
  (∀ (s s1 : State) (node va : Nat) (n : Node) (t : Target), s.node? node = some n → n.crec = some (dbl va) → va < 2 ^ 64 →
    n.noRecord = none → (s.eng.faults.any fun (_, f) => f.who == .record node) = false →
    s.globalTarget { tenant := n.tenant, priv := n.priv, cluster := none, unit := some (.hub 0) } .write false (va : Int) 16 = (s1, .ok t) →
    s.writeRecord node n = (s1.writeHome t (bytesOf 16 n.record) [] none none, .done)) ∧
  (∀ n : Node, n.record % 2 ^ 48 = n.detail.toNat ∧ n.record / 2 ^ 56 % 2 ^ 8 = n.code.toNat ∧ n.record / 2 ^ 64 = n.seq)

/-! Pre-emption, kills and drops -/

/-- PREEMPT_REQUEST, PREEMPT_TIMEOUT, UNIT_SAVE, UNIT_RESUME and GROWTH_DEADLOCK (R58-R62, R186) complete: a unit comes under pre-emption, by force
where its node has no handler; the first PREEMPT trap of the unit starts its time, and 60,000 a-cycles later the save is forced; a unit at
rest whose buffers have drained is saved and holds no binding any more; a saved one comes back where it fits; of the stuck groups that
ask for registers the youngest is saved by force, and of a single one's bank the youngest other. (Which trunks and limbs materialise at a
request, what a saved compositor keeps, and what a resumed group takes with it are the model's reading: notes/assumptions/68.md,
notes/assumptions/69.md, notes/assumptions/70.md.) -/
def Obligations.PreemptionCompletes : Prop :=
  -- PREEMPT_REQUEST
  (∀ (s : State) (node group gk : Nat) (n : Node), s.unitOf node group = some gk → s.node? node = some n → s.preUnit gk = none →
    let forced := n.phandler == 0#64 || n.kind == .comp
    ∃ t since, exec (.preemptRequest node group) s = .next t ∧
      t.work.units = s.work.units ++ [{ node := node, group := gk, since := since, forced := forced, growth := false }] ∧
      -- a warp that holds a trap takes its PREEMPT after `tret`: the time of the first trap runs from now (R375)
      since = (if forced = false ∧ (s.work.ctxs.any fun y => s.unitHolds gk y.2 && !y.2.symbolic && y.2.trap.isSome && y.2.live != 0#32) = true
        then some s.aCyc else none) ∧
      (∀ k c, s.ctx? k = some c → t.ctx? k = some (if c.symbolic && s.unitTouches gk c && !(forced && s.unitHolds gk c) then { c with must := true }
        else c)) ∧ t.mem = s.mem ∧ t.hub = s.hub) ∧
  (∀ (s : State) (node group : Nat), (s.unitOf node group = none ∨ ∃ gk, s.unitOf node group = some gk ∧ (s.preUnit gk).isSome = true) →
    exec (.preemptRequest node group) s = .next s) ∧
  -- the first PREEMPT trap
  (∀ (s : State) (k id : Nat) (c : Ctx) (p : Path), s.ctx? k = some c → c.path? id = some p → p.deliver = none → p.msparse = none →
    p.start = 0 → p.skip = 0 → c.pendingLog id = none →
    let clear := fun p : Path => { p with deliver := none, msparse := if p.start = 0 ∧ p.skip = 0 then none else p.msparse }
    ∃ x, s.deliverTo k id = (((s.changeCtx k fun c => c.changePath id clear).changeCtx k fun c => { c with pre := .handler }).firstPreempt c).takeTrap
      k id x ∧ x.code = 0x07#8 ∧ x.pc = p.pc ∧ x.ret = p.pc) ∧
  (∀ (s : State) (c : Ctx) (u : PreUnit) (g : Nat), u ∈ s.work.units → c.group = some g → (s.gangMembers u.group).contains g = true →
    { u with since := some (u.since.getD s.aCyc) } ∈ (s.firstPreempt c).work.units) ∧
  -- PREEMPT_TIMEOUT
  (∀ (s : State) (node group : Nat) (u : PreUnit), s.preUnit group = some u → u.node = node → u.forced = false →
    (∀ t0, u.since = some t0 → t0 + 60000 ≤ s.aCyc →
      ∃ t, exec (.preemptTimeout node group) s = .next t ∧ (∀ x ∈ s.work.units, x.group = u.group → { x with forced := true } ∈ t.work.units) ∧
        (∀ x ∈ s.work.units, x.group ≠ u.group → x ∈ t.work.units) ∧ t.work.ctxs = s.work.ctxs ∧ t.mem = s.mem) ∧
    (∀ t0, u.since = some t0 → s.aCyc < t0 + 60000 → exec (.preemptTimeout node group) s = .next s) ∧
    (u.since = none → exec (.preemptTimeout node group) s = .next s)) ∧
  -- UNIT_SAVE
  (∀ (s : State) (node group : Nat) (u : PreUnit),
    (s.work.units.find? fun u => u.node == node && (u.group == group || (s.gangMembers u.group).contains group)) = some u →
    (s.compOf u.node = none →
      (∀ s1, s.unitReady u = true → s.drainCores (nubNat ((s.unitCtxs u.group).map Ctx.core)) = (s1, true) →
        ∃ t x, exec (.unitSave node group) s = .next t ∧ t = s1.saveUnit u ∧ t.work.saved = s1.work.saved ++ [x] ∧ x.node = u.node ∧
          (∀ y ∈ t.work.units, y.group ≠ u.group) ∧ (∀ c ∈ s1.unitCtxs u.group, ∀ y ∈ t.work.ctxs, y.2.uid ≠ c.uid)) ∧
      (s.unitReady u = false → exec (.unitSave node group) s = .next s)) ∧
    (∀ c, s.compOf u.node = some c →
      (∀ s1, s.atRest c = true → c.stopped = false → s.drainCores [c.core] = (s1, true) → exec (.unitSave node group) s = .next (s1.saveComp u c)) ∧
      (s.atRest c = false ∨ c.stopped = true → exec (.unitSave node group) s = .next s))) ∧
  -- UNIT_RESUME
  (∀ (s : State) (index : Nat) (u : SavedUnit), s.work.saved[index]? = some u →
    (u.matrix = none → (u.ctxs.any fun x => x.ctx.stopped) = false →
      (∀ hs, s.findHome u = some hs →
        exec (.unitResume index) s = .next ((hs.zipIdx.foldl (fun s x => s.resumeGroup u
          ((u.groups.zip hs).map fun x => (storeKey x.1.2.cluster x.1.2.base, storeKey x.2.1 x.2.2.1, x.1.2.kib * 1024)) x.2 x.1))
          { s with work := { s.work with saved := s.work.saved.eraseIdx index } })) ∧
      (s.findHome u = none → exec (.unitResume index) s = .next s)) ∧
    (∀ m x r, u.matrix = some m → u.ctxs = x :: r →
      (s.clusterDropped u.cluster = false → s.ctx? (ctxKey u.cluster 512 0) = none →
        exec (.unitResume index) s = .next ((({ s with work := { s.work with saved := s.work.saved.eraseIdx index } }.putCtx x.ctx).setMatrix
          u.cluster fun _ => m).clearLatch (laneKey u.cluster 512))) ∧
      ((s.ctx? (ctxKey u.cluster 512 0)).isSome = true → exec (.unitResume index) s = .next s))) ∧
  -- GROWTH_DEADLOCK
  (∀ (s : State) (cluster k1 k2 : Nat) (c1 c2 : Ctx) (p1 p2 : Path) (g1 g2 : Group),
    ((s.work.ctxs.map (·.2)).filter fun c => c.cluster == cluster && !c.isComp) = [c1, c2] →
    c1.live ≠ 0#32 → c2.live ≠ 0#32 → c1.stopped = false → c2.stopped = false →
    c1.paths = [p1] → c2.paths = [p2] → c1.group = some k1 → c2.group = some k2 → k1 ≠ k2 → s.work.groups.look k1 = some g1 →
    s.work.groups.look k2 = some g2 → s.work.units = [] → (∃ n d m t, p1.wait = .grow n d m t) →
    ((∃ n d m t, p2.wait = .grow n d m t) → g2.older g1 = true → exec (.growthDeadlock cluster) s = .next (s.preempt g1.node k1 true)) ∧
    (∀ b, p2.wait = .groupBar b → g2.gen = b → c2.lane = c1.lane → exec (.growthDeadlock cluster) s = .next (s.preempt g2.node k2 true)) ∧
    (p2.wait = .none → s.fifoHeld c2 p2 = false → exec (.growthDeadlock cluster) s = .next s))

/-- GANG_KILL, DIE_DROP and HUB_DROP (R63, R208-R213) complete: a kill relaunches the struck gangs where it may, else the node fails with
UCE and the DETAIL of the kill; a dropped die is in HUB.DROP, the last one is a fatal event instead; a hub whose tower is idle goes when
its pages fit elsewhere, and else only the refusal is recorded. (How far a kill spreads over the boxes of a launch, that each kill counts as
one relaunch, and when a hub drop is refused are the model's reading: notes/assumptions/64.md, notes/assumptions/65.md,
notes/assumptions/71.md.) -/
def Obligations.KillsAndDropsComplete : Prop :=
  (∀ (s : State) (node group : Nat) (k : Kill) (n : Node), (s.rel.kills.filter fun k => k.node == node)[group]? = some k →
    s.node? node = some n → n.kind ≠ .comp →
    let u : State := { s with rel := { s.rel with kills := s.rel.kills.filter (· != k) } }
    let nums := u.struck node n k.box
    (u.mayRelaunch node n nums = true → ∃ t, exec (.gangKill node group) s = .next t ∧
      t = nums.foldl (fun s k => s.restart node n k) ((nums.foldl (fun s k => s.killRecord node k n.relaunches)
        (u.discard node (n.meetsAny nums))).changeNode node fun n => { n with relaunches := n.relaunches + 1 })) ∧
    (u.mayRelaunch node n nums = false → n.code = 0#8 → ∃ t m, exec (.gangKill node group) s = .next t ∧ t.node? node = some m ∧
      m.code = 0x06#8 ∧ m.detail = BitVec.ofNat 48 (uceDetail k.cause k.cluster k.sector))) ∧
  (∀ (s : State) (node group : Nat) (k : Kill) (n : Node), (s.rel.kills.filter fun k => k.node == node)[group]? = some k →
    s.node? node = some n → n.kind = .comp → exec (.gangKill node group) s
      = .next (({ s with rel := { s.rel with kills := s.rel.kills.filter (· != k) } } : State).endLaunch node 0x06#8 (uceDetail k.cause k.cluster k.sector))) ∧
  (∀ (s : State) (die : Nat), die < 8 → s.dieDropped die = false →
    ((∃ d, d < 8 ∧ d ≠ die ∧ s.dieDropped d = false) → exec (.dieDrop die) s = .next (s.dropDie die)) ∧
    ((∀ d, d < 8 → d ≠ die → s.dieDropped d = true) → ∃ t, exec (.dieDrop die) s = .next t ∧ t.rel.pseq = s.rel.pseq + 1 ∧
      t.rel.halted = true ∧ t.mem = s.mem ∧ t.hub = s.hub)) ∧
  (∀ (x : Dbl) (bit : Nat), bit < 32 → (dropWith x bit).getLsbD bit = true ∧ (∀ b, b < 32 → b ≠ bit → (dropWith x bit).getLsbD b = x.getLsbD b) ∧
    (dropWith x bit).toNat / 2 ^ 32 % 2 ^ 16 = min 0xFFFF (x.toNat / 2 ^ 32 % 2 ^ 16 + 1)) ∧
  (∀ (s s1 : State) (hub : Nat), 0 < hub → hub < 4 → s.hub.drop.toNat / 2 ^ 16 % 16 = 0 →
    (s.clearedHub hub = none → ∃ t, exec (.hubDrop hub) s = .next t ∧ t.mem = s.mem ∧ t.hub = s.hub ∧ t.work = s.work) ∧
    (s.clearedHub hub = some s1 → s.work.ctxs = [] → s.work.groups = [] → s.work.limbQueue = [] → s.work.saved = [] →
      s.mem.merge = [] → s.dieDropped (2 * hub) = true → s.dieDropped (2 * hub + 1) = true →
      ∃ t, exec (.hubDrop hub) s = .next t ∧ t = s1.removeHub hub ∧ t.hub.drop = dropWith s1.hub.drop (16 + hub)))

/-! Words that change little, and words that never run -/

/-- `nop` (R342): its word is 0x0000_0000_0001_DC00, the only one that is well formed; it takes no guard; it changes no state but its lane's
place in the clause: the next word's turn comes, or, after the last word, the path goes on at the next header. -/
def Obligations.NopChangesNothing : Prop :=
  (∀ (k : Cls) (w : RegWord), (Instr.nop w).wf k = true → encode (.nop w) = some 0x0000_0000_0001_DC00#64 ∧ w.gp = 7#3 ∧ w.gn = 0#1 ∧
    w.sb = 7#3 ∧ w.lu = 0#3 ∧ w.ru = 0#3) ∧
  (∃ w, decode .vector false 0x0000_0000_0001_DC00#64 = .ok (.nop w)) ∧
  (∀ (s : State) (w : RegWord) (u : Issuer) (k : Cls), Issues s (.nop w) u → (Instr.nop w).wf k = true →
    u.clause.pos < u.clause.words.length →
    ∃ t, exec (.nop w) s = .next t ∧ (t.lane (u.key / 8)).clause = some { u.clause with pos := u.clause.pos + 1, await := false } ∧
      (t.lane (u.key / 8)).latch = (s.lane (u.key / 8)).latch ∧ (t.lane (u.key / 8)).yielded = (s.lane (u.key / 8)).yielded ∧
      (∀ k, k ≠ u.key / 8 → t.lane k = s.lane k) ∧ (∀ k, t.ctx? k = s.ctx? k) ∧ t.mem = s.mem ∧ t.hub = s.hub ∧ t.eng = s.eng ∧ t.rel = s.rel ∧
      t.out = s.out ∧ t.work.nodes = s.work.nodes ∧ t.work.groups = s.work.groups ∧ t.work.gangs = s.work.gangs) ∧
  (∀ (s : State) (w : RegWord) (u : Issuer) (k : Cls), Issues s (.nop w) u → (Instr.nop w).wf k = true → u.symbolic = false →
    u.clause.words.length ≤ u.clause.pos →
    ∃ t, exec (.nop w) s = .next t ∧ (t.lane (u.key / 8)).clause = none ∧
      t.ctx? u.key = some { (u.ctx.changePath u.path.id fun p =>
        { p with pc := u.clause.after, came := u.clause.pc, start := 0, skip := 0, wait := .none, entry := false }) with joined := none } ∧
      (∀ k, k ≠ u.key / 8 → t.lane k = s.lane k) ∧ (∀ k, k ≠ u.key → t.ctx? k = s.ctx? k) ∧ t.mem = s.mem ∧ t.hub = s.hub ∧ t.eng = s.eng ∧
      t.rel = s.rel ∧ t.out = s.out ∧ t.work.nodes = s.work.nodes ∧ t.work.groups = s.work.groups ∧ t.work.gangs = s.work.gangs)

/-- `yield` (R382): its word is 0x8700_0000_0001_DC00, the only one that is well formed; it ends its clause, its path goes on at the next
header, and the lane treats the clause as if its header had YIELD = 1; it changes no other state. -/
def Obligations.YieldEndsClause : Prop :=
  (∀ (k : Cls) (w : RegWord), (Instr.yield w).wf k = true → encode (.yield w) = some 0x8700_0000_0001_DC00#64 ∧ w.gp = 7#3 ∧ w.gn = 0#1 ∧
    w.sb = 7#3 ∧ w.lu = 0#3 ∧ w.ru = 0#3) ∧
  (∃ w, decode .vector false 0x8700_0000_0001_DC00#64 = .ok (.yield w)) ∧
  (∀ (s : State) (w : RegWord) (u : Issuer) (k : Cls), Issues s (.yield w) u → (Instr.yield w).wf k = true → u.symbolic = false →
    ∃ t, exec (.yield w) s = .next t ∧ (t.lane (u.key / 8)).clause = none ∧ (t.lane (u.key / 8)).yielded = true ∧
      (t.lane (u.key / 8)).latch = (s.lane (u.key / 8)).latch ∧
      t.ctx? u.key = some { (u.ctx.changePath u.path.id fun p =>
        { p with pc := u.clause.after, came := u.clause.pc, start := 0, skip := 0, wait := .none, entry := false }) with joined := none } ∧
      (∀ k, k ≠ u.key / 8 → t.lane k = s.lane k) ∧ (∀ k, k ≠ u.key → t.ctx? k = s.ctx? k) ∧ t.mem = s.mem ∧ t.hub = s.hub ∧ t.eng = s.eng ∧
      t.rel = s.rel ∧ t.out = s.out ∧ t.work.nodes = s.work.nodes ∧ t.work.groups = s.work.groups ∧ t.work.gangs = s.work.gangs) ∧
  (∀ (s : State) (w : RegWord) (u : Issuer), Issues s (.yield w) u → u.symbolic = true →
    ∃ t, exec (.yield w) s = .next t ∧ (t.lane (u.key / 8)).clause = none ∧ (t.lane (u.key / 8)).yielded = true ∧
      (∀ k, k ≠ u.key / 8 → t.lane k = s.lane k) ∧ (∀ k, k ≠ u.key → t.ctx? k = s.ctx? k) ∧ t.mem = s.mem ∧ t.hub = s.hub ∧ t.eng = s.eng ∧
      t.rel = s.rel ∧ t.out = s.out ∧ t.work.nodes = s.work.nodes ∧ t.work.groups = s.work.groups ∧ t.work.gangs = s.work.gangs)

/-- The 86 codes of Table 13.10 that are not assigned. -/
def Claims.unassignedCodes : List Nat :=
  [0x2C, 0x2D, 0x2E, 0x2F] ++ (List.range 7).map (0x49 + ·) ++ (List.range 8).map (0x58 + ·) ++ (List.range 5).map (0x6B + ·) ++
    (List.range 6).map (0x7A + ·) ++ [0x8D, 0x8E, 0x8F] ++ (List.range 4).map (0x9C + ·) ++ (List.range 7).map (0xA9 + ·) ++
    (List.range 10).map (0xB6 + ·) ++ (List.range 32).map (0xD0 + ·)

/-- The codes that are not assigned, and the header codes, are no opcodes (R253): a body word with one fails the scan of its frame at its
own address, and no step runs it. Every other code is an opcode. -/
def Obligations.UnassignedCodesNeverRun : Prop :=
  Claims.unassignedCodes.length = 86 ∧
  (∀ (k : Cls) (x : Dbl), x.toNat / 2 ^ 56 ∈ Claims.unassignedCodes → decode k false x = .error (.unassigned (BitVec.ofNat 8 (x.toNat / 2 ^ 56)))) ∧
  (∀ (k : Cls) (x : Dbl), 0xF0 ≤ x.toNat / 2 ^ 56 → decode k false x = .error .headerCode) ∧
  (∀ n, n < 0xF0 → n ∉ Claims.unassignedCodes → ∃ i, rawDecode (BitVec.ofNat 64 (n * 2 ^ 56)) = .ok i) ∧
  (∀ (m : Memory) (h : Header) (k : Cls) (limit n a j : Nat), a < limit → h.paired j = false →
    ((m.dbl a).toNat / 2 ^ 56 ∈ Claims.unassignedCodes ∨ 0xF0 ≤ (m.dbl a).toNat / 2 ^ 56) → scanBody m h k limit (n + 1) a j = some a) ∧
  (∀ (s : State) (cluster lane : Nat) (r : List Move) (cl : Clause) (c : Ctx) (h : Header) (x : Dbl),
    s.stalled = false → (s.lane (laneKey cluster lane)).clause = some cl → s.ctx? (ctxKey cluster lane cl.bind) = some c →
    parseHeader cl.header = some h → cl.words[cl.pos - 1]? = some x → h.paired cl.pos = false →
    (x.toNat / 2 ^ 56 ∈ Claims.unassignedCodes ∨ 0xF0 ≤ x.toNat / 2 ^ 56) → s.agenda = .lane cluster lane :: r →
    step s = .refused (.notDecodable x))

/-! Results of computed words, whichever context issues them -/

/-- Outside a trunk or limb a word writes D, at each slot at which it acts, with a function of the operands of that slot, and raises the
flags of all slots together (R36, R37, R243). -/
def Claims.RunsAs (i : Instr) (f : Args → Res) : Prop :=
  ∀ (s : State) (u : Issuer), Issues s i u → u.symbolic = false →
    exec i s = .next (doneWith s u i ((u.actSlots i (activeOf u i)).flatMap fun t => u.resultAt i t (f (s.args u i t)).val)
      (((u.actSlots i (activeOf u i)).map fun t => (f (s.args u i t)).flags).foldl (· ||| ·) 0#32))

/-! Values of floating-point words. Codes are compared through their magnitudes as whole numbers: a format's least subnormal is one unit. -/

/-- Fraction bits of FP32, FP16 and BF16, the code of infinity, the sign's place, and the exponent of 1/unit (Table 9.1). -/
def Claims.floatForm (t : Nat) : Nat × Nat × Nat × Nat :=
  match t with
  | 0 => (23, 0x7F800000, 2 ^ 31, 149)
  | 1 => (10, 0x7C00, 2 ^ 15, 24)
  | 2 => (7, 0x7F80, 2 ^ 15, 133)
  | 3 => (3, 0x7F, 2 ^ 7, 9)
  | _ => (2, 0x7C, 2 ^ 7, 16)

/-- Units of the code `k` below the sign; for the code of infinity, those of the step after the largest number. -/
def Claims.floatMag (mb k : Nat) : Nat := if k / 2 ^ mb = 0 then k else (2 ^ mb + k % 2 ^ mb) * 2 ^ (k / 2 ^ mb - 1)

/-- Sign and value of a code of type `t` in units of its format. -/
def Claims.floatSign (t code : Nat) : Bool := code / (Claims.floatForm t).2.2.1 % 2 == 1
def Claims.floatInt (t code : Nat) : Int :=
  let m := Claims.floatMag (Claims.floatForm t).1 (code % (Claims.floatForm t).2.2.1)
  if Claims.floatSign t code then -(m : Int) else m
/-- Classes of a code of FP32, FP16 or BF16. -/
def Claims.isFinite (t code : Nat) : Prop := code % (Claims.floatForm t).2.2.1 < (Claims.floatForm t).2.1
def Claims.isInfinite (t code : Nat) : Prop := code % (Claims.floatForm t).2.2.1 = (Claims.floatForm t).2.1
def Claims.isNan (t code : Nat) : Prop := (Claims.floatForm t).2.1 < code % (Claims.floatForm t).2.2.1
def Claims.isSignalling (t code : Nat) : Prop := Claims.isNan t code ∧ code / 2 ^ ((Claims.floatForm t).1 - 1) % 2 = 0

/-- `k` is what rounding the magnitude `x / 2^u` units gives, in a format of `mb` fraction bits whose infinity is `inf`, with these flags: the
nearest code, of two the even one, in mode 0, and else the next toward zero or away from it; overflow is OFL and INX, an inexact result
INX, a tiny one, which is found after rounding, UFL as well (R167, R172). -/
def Claims.Rounds (mb inf mode : Nat) (neg : Bool) (u x k : Nat) (flags : Word) : Prop :=
  let v := fun k => Claims.floatMag mb k * 2 ^ u
  let away : Prop := (mode = 2 ∧ neg = true) ∨ (mode = 3 ∧ neg = false)
  let past : Prop := k = inf ∨ (k + 1 = inf ∧ mode ≠ 0 ∧ v inf ≤ x)
  let tiny : Prop := k < 2 ^ mb ∨ (k = 2 ^ mb ∧ ((mode = 0 ∧ 4 * x + 2 ^ u < 4 * v k) ∨ (away ∧ 2 * x + 2 ^ u ≤ 2 * v k)))
  k ≤ inf ∧
  (mode = 0 → (0 < k → v (k - 1) + v k ≤ 2 * x ∧ (v (k - 1) + v k = 2 * x → k % 2 = 0)) ∧
    (k < inf → 2 * x ≤ v k + v (k + 1) ∧ (2 * x = v k + v (k + 1) → k % 2 = 0))) ∧
  (away → (0 < k → v (k - 1) < x) ∧ (k < inf → x ≤ v k)) ∧
  (mode ≠ 0 → ¬away → v k ≤ x ∧ k < inf ∧ (k + 1 < inf → x < v (k + 1))) ∧
  (past → flags = 20#32) ∧ (¬past → v k = x → flags = 0#32) ∧ (¬past → v k ≠ x → flags = if tiny then 24#32 else 16#32)

/-- The code `c` of type `t` is the sum of terms, each a sign and a value in units of 2^-u of the format's, rounded once; a sum of zero has
the sign of its terms where all are zeros of one sign, and is else −0 in mode 2 alone (R173, R178). -/
def Claims.SumsTo (t mode u : Nat) (terms : List (Bool × Int)) (c : Nat) (flags : Word) : Prop :=
  let n := (terms.map (·.2)).foldl (· + ·) 0
  let zeros := fun b : Bool => ∀ x ∈ terms, x.2 = 0 ∧ x.1 = b
  let neg := if n = 0 then (if zeros true then true else if zeros false then false else mode == 2) else decide (n < 0)
  c / (Claims.floatForm t).2.2.1 = (if neg then 1 else 0) ∧
  Claims.Rounds (Claims.floatForm t).1 (Claims.floatForm t).2.1 mode neg u n.natAbs (c % (Claims.floatForm t).2.2.1) flags

/-- The canonical NaN, and an infinity. -/
def Claims.nanOf (t : Nat) : Nat := (Claims.floatForm t).2.1 + 2 ^ ((Claims.floatForm t).1 - 1)
def Claims.infOf (t : Nat) (neg : Bool) : Nat := (if neg then (Claims.floatForm t).2.2.1 else 0) + (Claims.floatForm t).2.1

/-- A sum of two numbers, as R173 and R293 give it. -/
def Claims.Adds (t mode a b c : Nat) (flags : Word) : Prop :=
  let sign := Claims.floatSign t
  (Claims.isFinite t a → Claims.isFinite t b →
    Claims.SumsTo t mode 0 [(sign a, Claims.floatInt t a), (sign b, Claims.floatInt t b)] c flags) ∧
  (Claims.isNan t a ∨ Claims.isNan t b →
    c = Claims.nanOf t ∧ (Claims.isSignalling t a ∨ Claims.isSignalling t b → flags = 1#32) ∧
      (¬Claims.isSignalling t a → ¬Claims.isSignalling t b → flags = 0#32)) ∧
  (Claims.isInfinite t a → Claims.isInfinite t b →
    (sign a = sign b → c = Claims.infOf t (sign a) ∧ flags = 0#32) ∧ (sign a ≠ sign b → c = Claims.nanOf t ∧ flags = 1#32)) ∧
  (Claims.isInfinite t a → Claims.isFinite t b → c = Claims.infOf t (sign a) ∧ flags = 0#32) ∧
  (Claims.isFinite t a → Claims.isInfinite t b → c = Claims.infOf t (sign b) ∧ flags = 0#32)

/-- A product of two numbers. -/
def Claims.Multiplies (t mode a b c : Nat) (flags : Word) : Prop :=
  let sign := Claims.floatSign t a != Claims.floatSign t b
  (Claims.isFinite t a → Claims.isFinite t b →
    Claims.SumsTo t mode (Claims.floatForm t).2.2.2 [(sign, Claims.floatInt t a * Claims.floatInt t b)] c flags) ∧
  (Claims.isNan t a ∨ Claims.isNan t b →
    c = Claims.nanOf t ∧ (Claims.isSignalling t a ∨ Claims.isSignalling t b → flags = 1#32) ∧
      (¬Claims.isSignalling t a → ¬Claims.isSignalling t b → flags = 0#32)) ∧
  (Claims.isInfinite t a ∨ Claims.isInfinite t b → ¬Claims.isNan t a → ¬Claims.isNan t b →
    (Claims.floatInt t a = 0 ∨ Claims.floatInt t b = 0 → c = Claims.nanOf t ∧ flags = 1#32) ∧
    (Claims.floatInt t a ≠ 0 → Claims.floatInt t b ≠ 0 → c = Claims.infOf t sign ∧ flags = 0#32))

/-- A product and an addend, rounded once. -/
def Claims.Fuses (t mode a b d c : Nat) (flags : Word) : Prop :=
  let sign := Claims.floatSign t a != Claims.floatSign t b
  let invalid := (Claims.isInfinite t a ∧ Claims.floatInt t b = 0) ∨ (Claims.isInfinite t b ∧ Claims.floatInt t a = 0)
  let signals := Claims.isSignalling t a ∨ Claims.isSignalling t b ∨ Claims.isSignalling t d
  let large := Claims.isInfinite t a ∨ Claims.isInfinite t b
  let nan := Claims.isNan t a ∨ Claims.isNan t b ∨ Claims.isNan t d
  (Claims.isFinite t a → Claims.isFinite t b → Claims.isFinite t d →
    Claims.SumsTo t mode (Claims.floatForm t).2.2.2 [(sign, Claims.floatInt t a * Claims.floatInt t b),
      (Claims.floatSign t d, Claims.floatInt t d * 2 ^ (Claims.floatForm t).2.2.2)] c flags) ∧
  (nan ∨ invalid → c = Claims.nanOf t ∧ (signals ∨ invalid → flags = 1#32) ∧ (¬signals → ¬invalid → flags = 0#32)) ∧
  (¬nan → ¬invalid → large → Claims.isInfinite t d → sign ≠ Claims.floatSign t d → c = Claims.nanOf t ∧ flags = 1#32) ∧
  (¬nan → ¬invalid → large → Claims.isFinite t d ∨ sign = Claims.floatSign t d → c = Claims.infOf t sign ∧ flags = 0#32) ∧
  (¬nan → ¬large → Claims.isInfinite t d → c = Claims.infOf t (Claims.floatSign t d) ∧ flags = 0#32)

/-- `.ftz` (R172): subnormal operands read as zeros of their sign, and a subnormal result is written as one, with UFL and INX. -/
def Claims.flushed (t : Nat) (ftz : Bool) (code : Nat) : Nat :=
  let s := (Claims.floatForm t).2.2.1
  if ftz ∧ code % s < 2 ^ (Claims.floatForm t).1 then code / s * s else code
def Claims.Flushes (t : Nat) (ftz : Bool) (r : Nat → Word → Prop) (c : Nat) (flags : Word) : Prop :=
  let s := (Claims.floatForm t).2.2.1
  ∃ c0 f0, r c0 f0 ∧ if ftz ∧ 0 < c0 % s ∧ c0 % s < 2 ^ (Claims.floatForm t).1 then c = c0 / s * s ∧ flags = 24#32 else c = c0 ∧ flags = f0

/-- Sign, value and unit (2^-unit) of a source of a conversion of type `t`; LG6 and E8M0 by R165 and R166. -/
def Claims.lgMag (c : Nat) : Nat := if c = 0 then 0 else [0x400, 0x4C2, 0x5A8, 0x6BA].getD (c % 4) 0 * 2 ^ (c / 4)
def Claims.sourceUnit (t : Nat) : Nat := match t with | 0 => 149 | 1 => 24 | 2 => 133 | 3 => 9 | 4 => 16 | 5 => 13 | 6 => 127 | _ => 0
def Claims.sourceInt (t : Nat) (x : Dbl) : Int :=
  match t with
  | 0 | 1 | 2 | 3 | 4 => Claims.floatInt t x.toNat
  | 5 => if x.getLsbD 5 then -(Claims.lgMag (x.toNat % 32) : Int) else Claims.lgMag (x.toNat % 32)
  | 6 => 2 ^ (x.toNat % 256)
  | 7 => (x.setWidth 8).toInt
  | 8 => (x.setWidth 32).toInt
  | 9 => (x.setWidth 32).toNat
  | _ => x.toInt
def Claims.sourceSign (t : Nat) (x : Dbl) : Bool :=
  match t with | 0 | 1 | 2 | 3 | 4 => Claims.floatSign t x.toNat | 5 => x.getLsbD 5 | 6 => false | _ => decide (Claims.sourceInt t x < 0)
def Claims.sourceFinite (t : Nat) (x : Dbl) : Prop := (t ≤ 4 → Claims.isFinite t x.toNat) ∧ (t = 6 → x.toNat % 256 ≠ 255)
/-- A NaN source, and the canonical NaN of a type (Table 9.2). -/
def Claims.sourceNan (t : Nat) (x : Dbl) : Prop :=
  (t ≤ 2 ∧ Claims.isNan t x.toNat) ∨ (t = 3 ∧ x.toNat % 128 = 127) ∨ (t = 4 ∧ 0x7C < x.toNat % 128) ∨ (t = 6 ∧ x.toNat % 256 = 255)
def Claims.sourceInfinite (t : Nat) (x : Dbl) : Prop := t ≠ 3 ∧ t ≤ 4 ∧ Claims.isInfinite t x.toNat
def Claims.sourceSignals (t : Nat) (x : Dbl) : Prop := t ≤ 2 ∧ Claims.isSignalling t x.toNat
def Claims.canonical (t : Nat) : Nat := match t with | 0 => 0x7FC00000 | 1 => 0x7E00 | 2 => 0x7FC0 | 3 => 0x7F | 4 => 0x7E | _ => 0xFF

/-- A conversion to E4M3 or E5M2 (R168, Table 9.5): to nearest; a code past the largest overflows. -/
def Claims.NarrowsTo8 (t : Nat) (sat neg : Bool) (u x c : Nat) (flags : Word) : Prop :=
  let inf := (Claims.floatForm t).2.1
  let s := if neg then 128 else 0
  ∃ k, Claims.Rounds (Claims.floatForm t).1 inf 0 neg u x k flags ∧
    c = if k = inf then (if sat then s + (inf - 1) else if t = 3 then 0x7F else s + inf) else s + k

/-- A conversion to LG6 (R169): the nearest magnitude, of two the one with F even, the step after the largest an overflow. -/
def Claims.NarrowsToLog (neg : Bool) (u x c : Nat) (flags : Word) : Prop :=
  let v := fun k => Claims.lgMag k * 2 ^ u
  ∃ k, k ≤ 32 ∧ (0 < k → v (k - 1) + v k ≤ 2 * x ∧ (v (k - 1) + v k = 2 * x → k % 2 = 0)) ∧
    (k < 32 → 2 * x ≤ v k + v (k + 1) ∧ (2 * x = v k + v (k + 1) → k % 2 = 0)) ∧
    c = (if neg then 32 else 0) + min k 31 ∧ flags = if k = 32 then 20#32 else if v k = x then 0#32 else 16#32

/-- The whole number nearest to `x / 2^u` in a mode of Table 9.4. -/
def Claims.wholeOf (mode : Nat) (neg : Bool) (u x : Nat) : Nat :=
  let q := x / 2 ^ u
  let r := x % 2 ^ u
  q + if (mode = 0 ∧ (2 ^ u < 2 * r ∨ (2 * r = 2 ^ u ∧ q % 2 = 1))) ∨ (mode = 2 ∧ neg = true ∧ r ≠ 0) ∨ (mode = 3 ∧ neg = false ∧ r ≠ 0) then 1 else 0

/-- The range of an integer type, and how a value of it stands in a result: INT8 extended by its sign to 32 bits. -/
def Claims.intLow (t : Nat) : Int := match t with | 7 => -128 | 8 => -2147483648 | 9 => 0 | _ => -9223372036854775808
def Claims.intHigh (t : Nat) : Int := match t with | 7 => 127 | 8 => 2147483647 | 9 => 4294967295 | _ => 9223372036854775807
def Claims.intBits (t : Nat) (n : Int) : Dbl :=
  match t with
  | 7 => ((BitVec.ofInt 8 n).signExtend 32).setWidth 64
  | 8 | 9 => (BitVec.ofInt 32 n).setWidth 64
  | _ => BitVec.ofInt 64 n

/-- A 16-bit half, and an element of `n` bits. -/
def Claims.elem (n j : Nat) (x : Word) : Nat := x.toNat / 2 ^ (n * j) % 2 ^ n

/-- An exact integer narrowed to a type: modulo its width, or under SAT its nearest end with flag SAT (R170, R312). -/
def Claims.NarrowsTo (t : Nat) (sat : Bool) (n : Int) (r : Res) : Prop :=
  (sat = true → n < Claims.intLow t → r = { val := Claims.intBits t (Claims.intLow t), flags := 32#32 }) ∧
  (sat = true → Claims.intHigh t < n → r = { val := Claims.intBits t (Claims.intHigh t), flags := 32#32 }) ∧
  (sat = false ∨ (Claims.intLow t ≤ n ∧ n ≤ Claims.intHigh t) → r = { val := Claims.intBits t n, flags := 0#32 })

/-- The result of `fclass` (R295): exactly one bit, that of the class of the raw encoding of A; no flag. Its FMT and MOD are zero. -/
def Claims.FclassNamesOneClass : Prop :=
  (∀ (w : RegWord) (k : Cls), (Instr.fclass w).wf k = true → w.fmt = 0#4 ∧ w.mod = 0#7) ∧ (∀ w, Claims.RunsAs (.fclass w) (fclassOp w)) ∧
  (∀ (w : RegWord) (x : Args),
    let a : Word := x.a.setWidth 32
    let neg := a.getLsbD 31
    let e : BitVec 8 := a.extractLsb' 23 8
    let f : BitVec 23 := a.extractLsb' 0 23
    (fclassOp w x).flags = 0#32 ∧
    (e = 255#8 → f ≠ 0#23 → f.getLsbD 22 = false → (fclassOp w x).val = 0x001#64) ∧
    (e = 255#8 → f.getLsbD 22 = true → (fclassOp w x).val = 0x002#64) ∧
    (e = 255#8 → f = 0#23 → neg = true → (fclassOp w x).val = 0x004#64) ∧
    (e ≠ 255#8 → e ≠ 0#8 → neg = true → (fclassOp w x).val = 0x008#64) ∧
    (e = 0#8 → f ≠ 0#23 → neg = true → (fclassOp w x).val = 0x010#64) ∧
    (a = 0x80000000#32 → (fclassOp w x).val = 0x020#64) ∧
    (a = 0#32 → (fclassOp w x).val = 0x040#64) ∧
    (e = 0#8 → f ≠ 0#23 → neg = false → (fclassOp w x).val = 0x080#64) ∧
    (e ≠ 255#8 → e ≠ 0#8 → neg = false → (fclassOp w x).val = 0x100#64) ∧
    (e = 255#8 → f = 0#23 → neg = false → (fclassOp w x).val = 0x200#64))

/-- `fmin` and `fmax` (R294): the lesser or greater operand in the order with −0 below +0, the other one when one is NaN, the canonical NaN
when both are, with subnormals read as zeros of their sign under FTZ; INV for a signalling NaN and no other flag. The immediate forms are those words without FTZ. -/
def Claims.FloatMinMaxFollowOrder : Prop :=
  (∀ w, Claims.RunsAs (.fmin w) (fminOp w) ∧ Claims.RunsAs (.fmax w) (fmaxOp w)) ∧
  (∀ v, Claims.RunsAs (.fminImm v) (fminImmOp v) ∧ Claims.RunsAs (.fmaxImm v) (fmaxImmOp v)) ∧
  (∀ (v : ImmWord) (w : RegWord) (x : Args), w.ftz = false → fminImmOp v x = fminOp w { x with b := v.imm.setWidth 64 } ∧
    fmaxImmOp v x = fmaxOp w { x with b := v.imm.setWidth 64 }) ∧
  ∀ (w : RegWord) (a b c d : Word) (k : Cls),
    let x : Args := { cls := k, a := a.setWidth 64, b := b.setWidth 64, c := c.setWidth 64, d := d.setWidth 64 }
    let flush := fun z : Word => if w.ftz = true ∧ z.extractLsb' 23 8 = 0#8 then z &&& 0x80000000#32 else z
    let nan := fun z : Word => z.extractLsb' 23 8 = 255#8 ∧ z.extractLsb' 0 23 ≠ 0#23
    let signals := fun z : Word => nan z ∧ z.getLsbD 22 = false
    let key := fun z : Word => if z.getLsbD 31 then -((z.extractLsb' 0 31).toNat : Int) - 1 else (z.extractLsb' 0 31).toNat
    (nan a → nan b → (fminOp w x).val = 0x7FC00000#64 ∧ (fmaxOp w x).val = 0x7FC00000#64) ∧
    (nan a → ¬nan b → (fminOp w x).val = (flush b).setWidth 64 ∧ (fmaxOp w x).val = (flush b).setWidth 64) ∧
    (¬nan a → nan b → (fminOp w x).val = (flush a).setWidth 64 ∧ (fmaxOp w x).val = (flush a).setWidth 64) ∧
    (¬nan a → ¬nan b → (fminOp w x).val = (if key (flush a) ≤ key (flush b) then flush a else flush b).setWidth 64 ∧
      (fmaxOp w x).val = (if key (flush b) ≤ key (flush a) then flush a else flush b).setWidth 64) ∧
    (signals a ∨ signals b → (fminOp w x).flags = 1#32 ∧ (fmaxOp w x).flags = 1#32) ∧
    (¬signals a → ¬signals b → (fminOp w x).flags = 0#32 ∧ (fmaxOp w x).flags = 0#32)

/-- `fadd`, `fsub`, `fmul`, `ffma`, `fscale` and `fround` (R167, R172, R173, R293): the exact value of Table 14.12, rounded once to FP32 by the
mode, with the flags; NaNs, infinities, zeros and `.ftz` as R172 and R173 give. The immediate forms round to nearest. -/
def Claims.FloatArithmeticRounds : Prop :=
  (∀ (w : RegWord) (k : Cls) (a b d : Word),
    let x : Args := { cls := k, a := a.setWidth 64, b := b.setWidth 64, c := d.setWidth 64, d := 0#64 }
    let f := fun z : Word => Claims.flushed 0 w.ftz z.toNat
    Claims.Flushes 0 w.ftz (Claims.Adds 0 w.rmode (f a) (f b)) (faddOp w x).val.toNat (faddOp w x).flags ∧
    Claims.Flushes 0 w.ftz (Claims.Adds 0 w.rmode (f a) (f (b ^^^ 0x80000000#32))) (fsubOp w x).val.toNat (fsubOp w x).flags ∧
    Claims.Flushes 0 w.ftz (Claims.Multiplies 0 w.rmode (f a) (f b)) (fmulOp w x).val.toNat (fmulOp w x).flags ∧
    Claims.Flushes 0 w.ftz (Claims.Fuses 0 w.rmode (f a) (f b) (f d)) (ffmaOp w x).val.toNat (ffmaOp w x).flags ∧
    -- fscale
    (Claims.isFinite 0 a.toNat → Claims.Flushes 0 w.ftz
      (Claims.SumsTo 0 w.rmode (-b.toInt).toNat [(Claims.floatSign 0 a.toNat, Claims.floatInt 0 (f a) * 2 ^ b.toInt.toNat)])
      (fscaleOp w x).val.toNat (fscaleOp w x).flags) ∧
    (Claims.isInfinite 0 a.toNat → fscaleOp w x = { val := a.setWidth 64, flags := 0#32 } ∧ froundOp w x = { val := a.setWidth 64, flags := 0#32 }) ∧
    (Claims.isNan 0 a.toNat → let flags : Word := if a.getLsbD 22 then 0#32 else 1#32
      fscaleOp w x = { val := 0x7FC00000#64, flags := flags } ∧ froundOp w x = { val := 0x7FC00000#64, flags := flags }) ∧
    -- fround
    (Claims.isFinite 0 a.toNat → (froundOp w x).flags = 0#32 ∧ (froundOp w x).val.toNat / 2 ^ 31 = a.toNat / 2 ^ 31 ∧
      Claims.floatMag 23 ((froundOp w x).val.toNat % 2 ^ 31)
        = Claims.wholeOf w.rmode (Claims.floatSign 0 a.toNat) 149 (Claims.floatInt 0 (f a)).natAbs * 2 ^ 149)) ∧
  (∀ (v : ImmWord) (w : RegWord) (x : Args), w.ftz = false → w.rmode = 0 → faddImmOp v x = faddOp w { x with b := v.imm.setWidth 64 } ∧
    fmulImmOp v x = fmulOp w { x with b := v.imm.setWidth 64 })

/-- `fcmp` (R296, Table 14.13): the order of the values, with −0 = +0 and subnormals zeros under FTZ; a NaN fails every condition but `.ne` and
`.uno`, with INV where it signals or an order is asked. -/
def Claims.FloatComparesFollowTable : Prop :=
  ∀ (w : RegWord) (k : Cls) (a b : Word) (c d : Dbl),
    let x : Args := { cls := k, a := a.setWidth 64, b := b.setWidth 64, c := c, d := d }
    let cond := w.modAt 17 3
    let p := Claims.floatInt 0 (Claims.flushed 0 (w.modAt 20 1 == 1) a.toNat)
    let q := Claims.floatInt 0 (Claims.flushed 0 (w.modAt 20 1 == 1) b.toNat)
    let nan := Claims.isNan 0 a.toNat ∨ Claims.isNan 0 b.toNat
    let signals := Claims.isSignalling 0 a.toNat ∨ Claims.isSignalling 0 b.toNat
    let is := fun r : Prop => (r → (fcmpOp w x).val = 1#64) ∧ (¬r → (fcmpOp w x).val = 0#64)
    (¬nan → (fcmpOp w x).flags = 0#32 ∧ (cond = 0 → is (p = q)) ∧ (cond = 1 → is (p ≠ q)) ∧ (cond = 2 → is (p < q)) ∧ (cond = 3 → is (p ≤ q)) ∧
      (cond = 4 → is (q < p)) ∧ (cond = 5 → is (q ≤ p)) ∧ (cond = 6 → is True) ∧ (cond = 7 → is False)) ∧
    (nan → is (cond = 1 ∨ cond = 7) ∧ (signals ∨ (2 ≤ cond ∧ cond ≤ 5) → (fcmpOp w x).flags = 1#32) ∧
      (¬signals → cond < 2 ∨ 5 < cond → (fcmpOp w x).flags = 0#32))

/-- `cvt` (R168-R171, R290, Table 14.10), `pack` and `unpack` (R345, R346): a number goes to the destination as its exact value, rounded once by
the rule of that format; integers wrap, or clamp under SAT; an out-of-range integer is the nearest bound with INV. -/
def Claims.ConversionsRound : Prop :=
  (∀ (w : RegWord) (x : Args), cvtOk w = true →
    let dt := w.fmt.toNat
    let st := w.modAt 20 4
    let mode := w.modAt 18 2
    let n := Claims.sourceInt st x.a
    let neg := Claims.sourceSign st x.a
    let u := Claims.sourceUnit st
    let r := cvtOp w x
    (¬Claims.sourceNan st x.a → dt = st → dt ≤ 6 → r = { val := BitVec.ofNat 64 (x.a.toNat % 2 ^ typeBits dt), flags := 0#32 }) ∧
    (Claims.sourceFinite st x.a →
      (dt ≠ st →
        (dt ≤ 2 → Claims.SumsTo dt mode u [(neg, n * 2 ^ Claims.sourceUnit dt)] r.val.toNat r.flags) ∧
        (dt = 3 ∨ dt = 4 → Claims.NarrowsTo8 dt w.sat neg u (n.natAbs * 2 ^ Claims.sourceUnit dt) r.val.toNat r.flags) ∧
        (dt = 5 → Claims.NarrowsToLog neg u (n.natAbs * 2 ^ 13) r.val.toNat r.flags) ∧
        (dt = 6 → n = 0 → r = { val := 0#64, flags := 16#32 }) ∧
        (dt = 6 → n ≠ 0 → let v := r.val.toNat
          v ≤ 254 ∧ (0 < v → 2 ^ v * 2 ^ u ≤ n.natAbs * 2 ^ 127) ∧ (v < 254 → n.natAbs * 2 ^ 127 < 2 ^ (v + 1) * 2 ^ u) ∧
            r.flags = if n.natAbs * 2 ^ 127 = 2 ^ v * 2 ^ u then 0#32 else 16#32)) ∧
      (7 ≤ dt → st ≤ 6 →
        let m := Claims.wholeOf (match mode with | 0 => 1 | 1 => 0 | m => m) neg u n.natAbs
        let i : Int := if neg then -(m : Int) else m
        (i < Claims.intLow dt → r = { val := Claims.intBits dt (Claims.intLow dt), flags := 1#32 }) ∧
        (Claims.intHigh dt < i → r = { val := Claims.intBits dt (Claims.intHigh dt), flags := 1#32 }) ∧
        (Claims.intLow dt ≤ i → i ≤ Claims.intHigh dt → r =
          { val := Claims.intBits dt i, flags := if n.natAbs % 2 ^ u = 0 then 0#32 else 16#32 })) ∧
      (7 ≤ dt → 7 ≤ st → Claims.NarrowsTo dt w.sat n r)) ∧
    (Claims.sourceNan st x.a →
      (dt ≠ 5 → dt ≤ 6 → r.val = BitVec.ofNat 64 (Claims.canonical dt)) ∧ (dt = 5 → r.val.toNat % 32 = 31) ∧ (7 ≤ dt → r.val = 0#64) ∧
      (5 ≤ dt → dt ≠ st → r.flags = 1#32) ∧ (dt < 5 ∨ dt = st → (Claims.sourceSignals st x.a → r.flags = 1#32) ∧
        (¬Claims.sourceSignals st x.a → r.flags = 0#32))) ∧
    (Claims.sourceInfinite st x.a →
      (dt ≤ 2 → dt ≠ st → r = { val := BitVec.ofNat 64 (Claims.infOf dt neg), flags := 0#32 }) ∧
      (7 ≤ dt → r = { val := Claims.intBits dt (if neg then Claims.intLow dt else Claims.intHigh dt), flags := 1#32 }) ∧
      (dt = 6 → r = { val := 255#64, flags := 1#32 }) ∧
      (dt = 5 → r = { val := if neg then 63#64 else 31#64, flags := 4#32 }) ∧
      (dt = 3 → r = { val := BitVec.ofNat 64 (if w.sat then (if neg then 128 else 0) + 0x7E else 0x7F), flags := 4#32 }) ∧
      (dt = 4 → dt ≠ st → r =
        { val := BitVec.ofNat 64 ((if neg then 128 else 0) + (if w.sat then 0x7B else 0x7C)), flags := if w.sat then 4#32 else 0#32 }))) ∧
  -- pack
  (∀ (w : RegWord) (k : Cls) (a b : Word) (c d : Dbl),
    let x : Args := { cls := k, a := a.setWidth 64, b := b.setWidth 64, c := c, d := d }
    let t := w.fmt.toNat
    let fl := fun z : Word => Claims.flushed 0 w.ftz z.toNat
    let to16 := fun (z : Word) (p : Nat) (f : Word) => Claims.Flushes t w.ftz
      (Claims.SumsTo t w.rmode 149 [(Claims.floatSign 0 z.toNat, Claims.floatInt 0 (fl z) * 2 ^ Claims.sourceUnit t)]) p f
    let to8 := fun (z : Word) (p : Nat) (f : Word) => p < 256 ∧
      ((t = 3 ∨ t = 4) → Claims.Flushes t w.ftz (Claims.NarrowsTo8 t (w.modAt 21 1 == 1) (Claims.floatSign 0 z.toNat) 149
        ((Claims.floatInt 0 (fl z)).natAbs * 2 ^ Claims.sourceUnit t)) p f) ∧
      (t = 5 → Claims.NarrowsToLog (Claims.floatSign 0 z.toNat) 149 ((Claims.floatInt 0 (fl z)).natAbs * 2 ^ 13) p f) ∧
      (t = 7 → w.modAt 21 1 = 0 → p = z.toNat % 256 ∧ f = 0#32) ∧
      (t = 7 → w.modAt 21 1 = 1 → (BitVec.ofNat 8 p).toInt = max (-128) (min 127 z.toInt) ∧
        f = if -128 ≤ z.toInt ∧ z.toInt ≤ 127 then 0#32 else 32#32)
    (t = 1 ∨ t = 2 → Claims.isFinite 0 a.toNat → Claims.isFinite 0 b.toNat → ∃ p f q g, to16 a p f ∧ to16 b q g ∧ p < 2 ^ 16 ∧ q < 2 ^ 16 ∧
      packOp w x = { val := BitVec.ofNat 64 (p + 2 ^ 16 * q), flags := f ||| g }) ∧
    (t = 3 ∨ t = 4 ∨ t = 5 ∨ t = 7 → (t ≠ 7 → Claims.isFinite 0 a.toNat ∧ Claims.isFinite 0 b.toNat) → ∃ p f q g, to8 a p f ∧ to8 b q g ∧
      (packOp w x).flags = f ||| g ∧ ∀ j, j < 4 → (packOp w x).val.toNat / 256 ^ j % 256
        = if j = 2 * w.modAt 20 1 then p else if j = 2 * w.modAt 20 1 + 1 then q else d.toNat / 256 ^ j % 256)) ∧
  -- unpack
  (∀ (w : RegWord) (x : Args),
    let t := w.fmt.toNat
    let e : Dbl := BitVec.ofNat 64 (x.a.toNat / 2 ^ ((if t ≤ 2 then 16 else 8) * w.modAt 17 2) % 2 ^ (if t ≤ 2 then 16 else 8))
    (1 ≤ t → t ≤ 6 → Claims.sourceFinite t e → (unpackOp w x).flags = 0#32 ∧ (unpackOp w x).val.toNat < 2 ^ 32 ∧
      Claims.floatSign 0 (unpackOp w x).val.toNat = Claims.sourceSign t e ∧
      Claims.floatInt 0 (unpackOp w x).val.toNat = Claims.sourceInt t e * 2 ^ (149 - Claims.sourceUnit t)) ∧
    (1 ≤ t → t ≤ 6 → Claims.sourceNan t e → (unpackOp w x).val = 0x7FC00000#64 ∧
      (Claims.sourceSignals t e → (unpackOp w x).flags = 1#32) ∧ (¬Claims.sourceSignals t e → (unpackOp w x).flags = 0#32)) ∧
    (t = 7 → unpackOp w x = { val := Claims.intBits 7 (Claims.sourceInt 7 e), flags := 0#32 }))

/-- Packed halves (R310) are each computed and rounded in their own format; the dot products (R176-R179, R298, R327) sum their exact products,
scaled where they are, and the addend, at finite operands, and round once; a scale of 0xFF gives NaN with INV. -/
def Claims.PackedAndDotWordsRound : Prop :=
  (∀ (w : RegWord) (k : Cls) (a b c : Word), (w.fmt = 1#4 ∨ w.fmt = 2#4) →
    let x : Args := { cls := k, a := a.setWidth 64, b := b.setWidth 64, c := c.setWidth 64, d := 0#64 }
    let t := w.fmt.toNat
    let h := fun (j : Nat) (z : Word) => Claims.flushed t w.ftz (Claims.elem 16 j z)
    let both := fun (r : Res) (rel : Nat → Nat → Word → Prop) => ∃ p f q g, p < 2 ^ 16 ∧ q < 2 ^ 16 ∧
      r = { val := BitVec.ofNat 64 (p + 2 ^ 16 * q), flags := f ||| g } ∧ Claims.Flushes t w.ftz (rel 0) p f ∧ Claims.Flushes t w.ftz (rel 1) q g
    both (hadd2Op w x) (fun j => Claims.Adds t w.rmode (h j a) (h j b)) ∧
    both (hmul2Op w x) (fun j => Claims.Multiplies t w.rmode (h j a) (h j b)) ∧
    both (hfma2Op w x) (fun j => Claims.Fuses t w.rmode (h j a) (h j b) (h j c))) ∧
  (∀ (t n mode : Nat) (ftz : Bool) (k : Int) (a b c : Word), mode < 4 → ((n = 2 ∧ (t = 1 ∨ t = 2)) ∨ (n = 4 ∧ (t = 3 ∨ t = 4))) →
    let e := fun (j : Nat) (z : Word) => Claims.flushed t ftz (Claims.elem (32 / n) j z)
    let u := 2 * Claims.sourceUnit t + (-k).toNat
    let terms := ((List.range n).map fun j => (Claims.floatSign t (e j a) != Claims.floatSign t (e j b),
      Claims.floatInt t (e j a) * Claims.floatInt t (e j b) * 2 ^ (149 + k.toNat))) ++
        [(Claims.floatSign 0 c.toNat, Claims.floatInt 0 (Claims.flushed 0 ftz c.toNat) * 2 ^ u)]
    let r := dotRes t n mode ftz k (a.setWidth 64) (b.setWidth 64) (c.setWidth 64)
    (Claims.isFinite 0 c.toNat → (∀ j, j < n → Claims.isFinite t (e j a) ∧ Claims.isFinite t (e j b)) →
      Claims.Flushes 0 ftz (Claims.SumsTo 0 mode u terms) r.val.toNat r.flags) ∧
    (Claims.isNan 0 c.toNat ∨ (∃ j, j < n ∧ t ≤ 2 ∧ (Claims.isNan t (e j a) ∨ Claims.isNan t (e j b))) → r.val = 0x7FC00000#64)) ∧
  (∀ (mode : Nat) (ftz : Bool) (k : Int) (a b c : Word), mode < 4 → Claims.isFinite 0 c.toNat →
    let e := fun (j : Nat) (z : Word) => Claims.elem 8 j z % 64
    let mag := fun p q : Nat => if p % 32 = 0 ∨ q % 32 = 0 then 0
      else [0x400, 0x4C2, 0x5A8, 0x6BA].getD ((p % 4 + q % 4) % 4) 0 * 2 ^ (p / 4 % 8 + q / 4 % 8 + (p % 4 + q % 4) / 4)
    let u := 16 + (-k).toNat
    let terms := ((List.range 4).map fun j => let neg := (e j a / 32 + e j b / 32) % 2 == 1
      (neg, (if neg then -(mag (e j a) (e j b) : Int) else mag (e j a) (e j b)) * 2 ^ (149 + k.toNat))) ++
        [(Claims.floatSign 0 c.toNat, Claims.floatInt 0 (Claims.flushed 0 ftz c.toNat) * 2 ^ u)]
    let r := lgDotRes mode ftz k (a.setWidth 64) (b.setWidth 64) (c.setWidth 64)
    Claims.Flushes 0 ftz (Claims.SumsTo 0 mode u terms) r.val.toNat r.flags) ∧
  (∀ (w : RegWord) (x : Args), fdot2Op w x = dotRes w.fmt.toNat 2 w.rmode w.ftz 0 x.a x.b x.c ∧
    fdot4Op w x = dotRes w.fmt.toNat 4 w.rmode w.ftz 0 x.a x.b x.c ∧ lgdot4Op w x = lgDotRes w.rmode w.ftz 0 x.a x.b x.c) ∧
  (∀ (ea eb : Nat) (r : Int → Res), (ea = 255 ∨ eb = 255 → scaledRes ea eb r = { val := 0x7FC00000#64, flags := 1#32 }) ∧
    (ea ≠ 255 → eb ≠ 255 → scaledRes ea eb r = r ((ea : Int) + eb - 254)))

/-- Integer words (R312, R316, R326, Tables 15.4, 15.6): sums, differences and products are taken modulo 2^32 or 2^64, the high product is signed
or unsigned by type, a widening product adds a 64-bit addend, minima, maxima and comparisons order by type; under SAT a result beyond the
type's range is the nearest end with flag SAT, and no other flag is raised; `lea` adds a shifted index, extended as SX says. -/
def Obligations.IntegerWordsCompute : Prop :=
  (∀ (w : RegWord) (x : Args), (w.fmt = 8#4 ∨ w.fmt = 9#4) → w.sat = false →
    let a : Word := x.a.setWidth 32
    let b : Word := x.b.setWidth 32
    let c : Word := x.c.setWidth 32
    iaddOp w x = { val := (a + b).setWidth 64, flags := 0#32 } ∧ isubOp w x = { val := (a - b).setWidth 64, flags := 0#32 } ∧
    iadd3Op w x = { val := (a + b + c).setWidth 64, flags := 0#32 } ∧ imulOp w x = { val := (a * b).setWidth 64, flags := 0#32 } ∧
    imadOp w x = { val := (a * b + c).setWidth 64, flags := 0#32 }) ∧
  (∀ (w : RegWord) (x : Args), w.fmt = 10#4 → w.sat = false →
    iaddOp w x = { val := x.a + x.b, flags := 0#32 } ∧ isubOp w x = { val := x.a - x.b, flags := 0#32 } ∧
    iadd3Op w x = { val := x.a + x.b + x.c, flags := 0#32 } ∧ imulOp w x = { val := x.a * x.b, flags := 0#32 } ∧
    imadOp w x = { val := x.a * x.b + x.c, flags := 0#32 }) ∧
  (∀ (w : RegWord) (x : Args),
    let a : Word := x.a.setWidth 32
    let b : Word := x.b.setWidth 32
    (w.fmt = 8#4 → iminOp w x = { val := (if a.sle b then a else b).setWidth 64, flags := 0#32 } ∧
      imaxOp w x = { val := (if a.sle b then b else a).setWidth 64, flags := 0#32 } ∧
      imulhiOp w x = { val := ((a.signExtend 64 * b.signExtend 64).extractLsb' 32 32).setWidth 64, flags := 0#32 } ∧
      imadwOp w x = { val := a.signExtend 64 * b.signExtend 64 + x.c, flags := 0#32 }) ∧
    (w.fmt = 9#4 → iminOp w x = { val := (if a.ule b then a else b).setWidth 64, flags := 0#32 } ∧
      imaxOp w x = { val := (if a.ule b then b else a).setWidth 64, flags := 0#32 } ∧
      imulhiOp w x = { val := ((a.setWidth 64 * b.setWidth 64).extractLsb' 32 32).setWidth 64, flags := 0#32 } ∧
      imadwOp w x = { val := a.setWidth 64 * b.setWidth 64 + x.c, flags := 0#32 })) ∧
  (∀ (w : RegWord) (x : Args), w.fmt = 8#4 → w.sat = true →
    let a : Int := (x.a.setWidth 32 : Word).toInt
    let b : Int := (x.b.setWidth 32 : Word).toInt
    (a + b < -2147483648 → iaddOp w x = { val := 0x80000000#64, flags := 32#32 }) ∧
    (2147483647 < a + b → iaddOp w x = { val := 0x7FFFFFFF#64, flags := 32#32 }) ∧
    (-2147483648 ≤ a + b → a + b ≤ 2147483647 → iaddOp w x = { val := (BitVec.ofInt 32 (a + b)).setWidth 64, flags := 0#32 }) ∧
    (a = -2147483648 → iabsOp w x = { val := 0x7FFFFFFF#64, flags := 32#32 })) ∧
  (∀ (w : RegWord) (x : Args), w.fmt = 9#4 → w.sat = true →
    let a : Nat := (x.a.setWidth 32 : Word).toNat
    let b : Nat := (x.b.setWidth 32 : Word).toNat
    (a < b → isubOp w x = { val := 0#64, flags := 32#32 }) ∧ (b ≤ a → isubOp w x = { val := BitVec.ofNat 64 (a - b), flags := 0#32 }) ∧
    (2 ^ 32 ≤ a * b → imulOp w x = { val := 0xFFFFFFFF#64, flags := 32#32 })) ∧
  -- every type, with and without SAT, from the exact result
  (∀ (w : RegWord) (x : Args), (w.fmt = 8#4 ∨ w.fmt = 9#4 ∨ w.fmt = 10#4) →
    let t := w.fmt.toNat
    let a := Claims.sourceInt t x.a
    let b := Claims.sourceInt t x.b
    let c := Claims.sourceInt t x.c
    Claims.NarrowsTo t w.sat (a + b) (iaddOp w x) ∧ Claims.NarrowsTo t w.sat (a - b) (isubOp w x) ∧ Claims.NarrowsTo t w.sat (a + b + c) (iadd3Op w x) ∧
    Claims.NarrowsTo t w.sat (a * b) (imulOp w x) ∧ Claims.NarrowsTo t w.sat (a * b + c) (imadOp w x) ∧
    (t ≠ 9 → Claims.NarrowsTo t w.sat (a.natAbs : Int) (iabsOp w x)) ∧
    iminOp w x = { val := Claims.intBits t (min a b), flags := 0#32 } ∧ imaxOp w x = { val := Claims.intBits t (max a b), flags := 0#32 } ∧
    imulhiOp w x = { val := Claims.intBits t (a * b / (if t = 10 then 2 ^ 64 else 2 ^ 32)), flags := 0#32 }) ∧
  -- icmp, in a vector clause at its type and in a compositor's on whole registers
  (∀ (w : RegWord) (x : Args), (w.fmt = 8#4 ∨ w.fmt = 9#4 ∨ w.fmt = 10#4) →
    let t := w.fmt.toNat
    let read := fun z : Dbl => match x.cls with
      | .vector => Claims.sourceInt t z
      | .compositor => if t = 9 then (z.toNat : Int) else z.toInt
    let is := fun r : Prop => (r → icmpOp w x = { val := 1#64, flags := 0#32 }) ∧ (¬r → icmpOp w x = { val := 0#64, flags := 0#32 })
    let a := read x.a
    let b := read x.b
    (w.modAt 17 3 = 0 → is (a = b)) ∧ (w.modAt 17 3 = 1 → is (a ≠ b)) ∧ (w.modAt 17 3 = 2 → is (a < b)) ∧ (w.modAt 17 3 = 3 → is (a ≤ b)) ∧
    (w.modAt 17 3 = 4 → is (b < a)) ∧ (w.modAt 17 3 = 5 → is (b ≤ a))) ∧
  -- lea
  (∀ (w : RegWord) (x : Args),
    (w.fmt = 9#4 → leaOp w x = { val := ((x.a.setWidth 32 : Word) + ((x.b.setWidth 32 : Word) <<< w.modAt 17 6)).setWidth 64, flags := 0#32 }) ∧
    (w.fmt = 10#4 → leaOp w x = { val := x.a + ((if w.modAt 23 1 = 1 then (x.b.setWidth 32 : Word).signExtend 64
      else (x.b.setWidth 32 : Word).setWidth 64) <<< w.modAt 17 6), flags := 0#32 }))

/-- Division (R313, Table 15.5): the words are of variable latency; by zero the quotient is all ones and the remainder the dividend, with DZ,
or INV for 0 / 0; the most negative value by −1 gives itself, or under SAT the largest with SAT, and remainder 0; else the quotient is
truncated toward zero. -/
def Obligations.DivisionFollowsTable : Prop :=
  (∀ w : RegWord, (Instr.idiv w).rules.var = true ∧ (Instr.irem w).rules.var = true ∧ Claims.RunsAs (.idiv w) (idivOp w) ∧
    Claims.RunsAs (.irem w) (iremOp w)) ∧
  (∀ (w : RegWord) (x : Args), (w.fmt = 8#4 ∨ w.fmt = 9#4) → (x.b.setWidth 32 : Word) = 0#32 →
    let flag : Word := if (x.a.setWidth 32 : Word) = 0#32 then 1#32 else 2#32
    idivOp w x = { val := 0xFFFFFFFF#64, flags := flag } ∧ iremOp w x = { val := (x.a.setWidth 32 : Word).setWidth 64, flags := flag }) ∧
  (∀ (w : RegWord) (x : Args), w.fmt = 10#4 → x.b = 0#64 →
    let flag : Word := if x.a = 0#64 then 1#32 else 2#32
    idivOp w x = { val := 0xFFFFFFFFFFFFFFFF#64, flags := flag } ∧ iremOp w x = { val := x.a, flags := flag }) ∧
  (∀ (w : RegWord) (x : Args), w.fmt = 8#4 → (x.a.setWidth 32 : Word) = 0x80000000#32 → (x.b.setWidth 32 : Word) = 0xFFFFFFFF#32 →
    iremOp w x = { val := 0#64, flags := 0#32 } ∧
    (w.sat = false → idivOp w x = { val := 0x80000000#64, flags := 0#32 }) ∧ (w.sat = true → idivOp w x = { val := 0x7FFFFFFF#64, flags := 32#32 })) ∧
  (∀ (w : RegWord) (x : Args), w.fmt = 10#4 → x.a = 0x8000000000000000#64 → x.b = 0xFFFFFFFFFFFFFFFF#64 →
    iremOp w x = { val := 0#64, flags := 0#32 } ∧ (w.sat = false → idivOp w x = { val := 0x8000000000000000#64, flags := 0#32 }) ∧
    (w.sat = true → idivOp w x = { val := 0x7FFFFFFFFFFFFFFF#64, flags := 32#32 })) ∧
  (∀ (w : RegWord) (x : Args),
    let a : Word := x.a.setWidth 32
    let b : Word := x.b.setWidth 32
    (w.fmt = 9#4 → b ≠ 0#32 → idivOp w x = { val := (a / b).setWidth 64, flags := 0#32 } ∧ iremOp w x = { val := (a % b).setWidth 64, flags := 0#32 }) ∧
    (w.fmt = 8#4 → b ≠ 0#32 → ¬(a = 0x80000000#32 ∧ b = 0xFFFFFFFF#32) →
      idivOp w x = { val := (a.sdiv b).setWidth 64, flags := 0#32 } ∧ iremOp w x = { val := (a.srem b).setWidth 64, flags := 0#32 }) ∧
    (w.fmt = 10#4 → x.b ≠ 0#64 → ¬(x.a = 0x8000000000000000#64 ∧ x.b = 0xFFFFFFFFFFFFFFFF#64) →
      idivOp w x = { val := x.a.sdiv x.b, flags := 0#32 } ∧ iremOp w x = { val := x.a.srem x.b, flags := 0#32 }))

/-- The functions at the special operands of Table 14.14 (R297), and `ftanh` and `fdiv` at theirs (R173, R303), whatever the rounding mode and
FTZ: zeros, infinities, NaNs (INV where signalling), negative numbers under a root or a logarithm, and a division by zero (DZ, or INV for 0 / 0). -/
def Obligations.FunctionsFollowSpecialOperands : Prop :=
  ∀ (w : RegWord) (k : Cls) (b c d : Dbl),
    let at_ := fun x : Word => ({ cls := k, a := x.setWidth 64, b := b, c := c, d := d } : Args)
    let gives := fun (f : RegWord → Args → Res) (x r flags : Word) => f w (at_ x) = { val := r.setWidth 64, flags := flags }
    -- +0, −0, +∞, −∞
    (gives frcpOp 0x00000000#32 0x7F800000#32 2#32 ∧ gives frcpOp 0x80000000#32 0xFF800000#32 2#32 ∧
      gives frcpOp 0x7F800000#32 0x00000000#32 0#32 ∧ gives frcpOp 0xFF800000#32 0x80000000#32 0#32) ∧
    (gives frsqOp 0x00000000#32 0x7F800000#32 2#32 ∧ gives frsqOp 0x80000000#32 0xFF800000#32 2#32 ∧
      gives frsqOp 0x7F800000#32 0x00000000#32 0#32 ∧ gives frsqOp 0xFF800000#32 0x7FC00000#32 1#32) ∧
    (gives fsqrtOp 0x00000000#32 0x00000000#32 0#32 ∧ gives fsqrtOp 0x80000000#32 0x80000000#32 0#32 ∧
      gives fsqrtOp 0x7F800000#32 0x7F800000#32 0#32 ∧ gives fsqrtOp 0xFF800000#32 0x7FC00000#32 1#32) ∧
    (gives fexp2Op 0x00000000#32 0x3F800000#32 0#32 ∧ gives fexp2Op 0x80000000#32 0x3F800000#32 0#32 ∧
      gives fexp2Op 0x7F800000#32 0x7F800000#32 0#32 ∧ gives fexp2Op 0xFF800000#32 0x00000000#32 0#32) ∧
    (gives flog2Op 0x00000000#32 0xFF800000#32 2#32 ∧ gives flog2Op 0x80000000#32 0xFF800000#32 2#32 ∧
      gives flog2Op 0x7F800000#32 0x7F800000#32 0#32 ∧ gives flog2Op 0xFF800000#32 0x7FC00000#32 1#32 ∧
      gives flog2Op 0x3F800000#32 0x00000000#32 0#32) ∧
    (gives fsinOp 0x00000000#32 0x00000000#32 0#32 ∧ gives fsinOp 0x80000000#32 0x80000000#32 0#32 ∧
      gives fsinOp 0x7F800000#32 0x7FC00000#32 1#32 ∧ gives fsinOp 0xFF800000#32 0x7FC00000#32 1#32) ∧
    (gives fcosOp 0x00000000#32 0x3F800000#32 0#32 ∧ gives fcosOp 0x80000000#32 0x3F800000#32 0#32 ∧
      gives fcosOp 0x7F800000#32 0x7FC00000#32 1#32 ∧ gives fcosOp 0xFF800000#32 0x7FC00000#32 1#32) ∧
    (gives ftanhOp 0x00000000#32 0x00000000#32 0#32 ∧ gives ftanhOp 0x80000000#32 0x80000000#32 0#32 ∧
      gives ftanhOp 0x7F800000#32 0x3F800000#32 0#32 ∧ gives ftanhOp 0xFF800000#32 0xBF800000#32 0#32) ∧
    -- NaNs
    (∀ x : Word, x.extractLsb' 23 8 = 255#8 → x.extractLsb' 0 23 ≠ 0#23 →
      ∀ f ∈ [frcpOp, frsqOp, fsqrtOp, fexp2Op, flog2Op, fsinOp, fcosOp, ftanhOp],
        gives f x 0x7FC00000#32 (if x.getLsbD 22 then 0#32 else 1#32)) ∧
    -- finite numbers below zero
    (∀ x : Word, x.getLsbD 31 = true → x.extractLsb' 23 8 ≠ 255#8 → x.extractLsb' 23 8 ≠ 0#8 →
      ∀ f ∈ [frsqOp, fsqrtOp, flog2Op], gives f x 0x7FC00000#32 1#32) ∧
    -- division by a zero
    (∀ x y : Word, (y = 0x00000000#32 ∨ y = 0x80000000#32) → x.extractLsb' 23 8 ≠ 255#8 →
      let q : Args := { cls := k, a := x.setWidth 64, b := y.setWidth 64, c := c, d := d }
      (x.extractLsb' 0 31 = 0#31 → fdivOp w q = { val := 0x7FC00000#64, flags := 1#32 }) ∧
      (x.extractLsb' 23 8 ≠ 0#8 →
        fdivOp w q = { val := if x.getLsbD 31 = y.getLsbD 31 then 0x7F800000#64 else 0xFF800000#64, flags := 2#32 }))

/-- Logic, shifts and bit words (R269, R328, R338, R343, Tables 14.2, 16.3) at 32 and 64 bits: `lop3` looks each bit up, a shift by the width or
more gives 0 or copies of the sign, `movhi` joins two halves, `bfe` and `bfi` take a field, `brev`, `clz`, `ctz` and `popc` reverse and count
bits, `prmt` picks bytes. None raises a flag. -/
def Obligations.LogicAndShiftsCompute : Prop :=
  (∀ (w : RegWord) (x : Args), w.fmt = 9#4 →
    let a : Word := x.a.setWidth 32
    let b : Word := x.b.setWidth 32
    let c : Word := x.c.setWidth 32
    andOp w x = { val := (a &&& b).setWidth 64, flags := 0#32 } ∧ orOp w x = { val := (a ||| b).setWidth 64, flags := 0#32 } ∧
    xorOp w x = { val := (a ^^^ b).setWidth 64, flags := 0#32 } ∧ notOp w x = { val := (~~~a).setWidth 64, flags := 0#32 } ∧
    shlOp w x = { val := (a <<< b.toNat).setWidth 64, flags := 0#32 } ∧ shrOp w x = { val := (a >>> b.toNat).setWidth 64, flags := 0#32 } ∧
    sarOp w x = { val := (a.sshiftRight b.toNat).setWidth 64, flags := 0#32 } ∧
    (w.modAt 17 1 = 0 → shfOp w x = { val := (((b ++ a) <<< (c.toNat % 32)).extractLsb' 32 32).setWidth 64, flags := 0#32 }) ∧
    (w.modAt 17 1 = 1 → shfOp w x = { val := (((b ++ a) >>> (c.toNat % 32)).setWidth 32).setWidth 64, flags := 0#32 }) ∧
    selOp w x = { val := (if x.c.getLsbD 0 then a else b).setWidth 64, flags := 0#32 }) ∧
  (∀ (w : RegWord) (x : Args), w.fmt = 10#4 →
    andOp w x = { val := x.a &&& x.b, flags := 0#32 } ∧ orOp w x = { val := x.a ||| x.b, flags := 0#32 } ∧
    xorOp w x = { val := x.a ^^^ x.b, flags := 0#32 } ∧ notOp w x = { val := ~~~x.a, flags := 0#32 } ∧
    shlOp w x = { val := x.a <<< (x.b.toNat % 2 ^ 32), flags := 0#32 } ∧ shrOp w x = { val := x.a >>> (x.b.toNat % 2 ^ 32), flags := 0#32 } ∧
    sarOp w x = { val := x.a.sshiftRight (x.b.toNat % 2 ^ 32), flags := 0#32 }) ∧
  (∀ (w : RegWord) (x : Args) (i : Nat), (lop3Op w x).flags = 0#32 ∧ (lop3Op w x).val.getLsbD i =
    (decide (i < 32) && Nat.testBit (w.modAt 17 4 * 16 + w.fmt.toNat) ((x.a.getLsbD i).toNat + 2 * (x.b.getLsbD i).toNat + 4 * (x.c.getLsbD i).toNat))) ∧
  (∀ (w : ImmWord) (x : Args), (movhiOp w x).val = (w.imm ++ (x.a.setWidth 32 : Word) : BitVec 64) ∧ (movhiOp w x).flags = 0#32 ∧
    (x.cls = .vector → moviOp w x = { val := w.imm.setWidth 64, flags := 0#32 }) ∧
    (x.cls = .compositor → moviOp w x = { val := w.imm.signExtend 64, flags := 0#32 })) ∧
  (∀ (w : RegWord) (x : Args), (w.fmt = 9#4 ∨ w.fmt = 10#4) →
    let n := if w.fmt = 10#4 then 64 else 32
    (brevOp w x).flags = 0#32 ∧ (∀ i, (brevOp w x).val.getLsbD i = (decide (i < n) && x.a.getLsbD (n - 1 - i))) ∧
    popcOp w x = { val := BitVec.ofNat 64 (((List.range n).map fun i => (x.a.getLsbD i).toNat).foldl (· + ·) 0), flags := 0#32 } ∧
    (∃ z, z ≤ n ∧ clzOp w x = { val := BitVec.ofNat 64 z, flags := 0#32 } ∧ (∀ i, i < z → x.a.getLsbD (n - 1 - i) = false) ∧
      (z < n → x.a.getLsbD (n - 1 - z) = true)) ∧
    (∃ z, z ≤ n ∧ ctzOp w x = { val := BitVec.ofNat 64 z, flags := 0#32 } ∧ (∀ i, i < z → x.a.getLsbD i = false) ∧
      (z < n → x.a.getLsbD z = true)) ∧
    selOp w x = { val := if x.c.getLsbD 0 then (if n = 64 then x.a else (x.a.setWidth 32).setWidth 64)
      else (if n = 64 then x.b else (x.b.setWidth 32).setWidth 64), flags := 0#32 }) ∧
  -- fields: pos and len of a control operand
  (∀ (w : RegWord) (x : Args) (i : Nat),
    let field := fun z : Dbl => let pos := z.toNat % 256
      (pos, if pos < 32 then min (z.toNat / 256 % 256) (32 - pos) else 0)
    let (pb, nb) := field x.b
    let (pc, nc) := field x.c
    (bfeOp w x).flags = 0#32 ∧ (bfiOp w x).flags = 0#32 ∧
    (w.fmt = 9#4 → (bfeOp w x).val.getLsbD i = (decide (i < nb) && x.a.getLsbD (pb + i))) ∧
    (w.fmt = 8#4 → (bfeOp w x).val.getLsbD i = (decide (i < 32 ∧ nb ≠ 0) && x.a.getLsbD (pb + min i (nb - 1)))) ∧
    ((bfiOp w x).val.getLsbD i = (decide (i < 32) && if pc ≤ i ∧ i < pc + nc then x.b.getLsbD (i - pc) else x.a.getLsbD i))) ∧
  -- prmt
  (∀ (w : RegWord) (x : Args) (i : Nat),
    let src := fun n : Nat => if n < 4 then x.a.toNat / 256 ^ n % 256 else x.b.toNat / 256 ^ (n - 4) % 256
    let b := src (x.c.toNat / 2 ^ (3 * i) % 8)
    (prmtOp w x).flags = 0#32 ∧ (prmtOp w x).val.toNat < 2 ^ 32 ∧
    (i < 4 → (prmtOp w x).val.toNat / 256 ^ i % 256
      = if x.c.getLsbD (12 + i) then 0 else if x.c.getLsbD (16 + i) then (if 128 ≤ b then 255 else 0) else b))

/-! Memory, reset and what every step keeps -/

/-- A memory in its canonical form reads back what was written last and keeps every other byte; a number written with `n` bytes reads back
modulo 2^(8n); two memories that read alike are one. (R6; the form is the model's own, notes/assumptions/2.md.) -/
def Obligations.MemoryReadsBackWrites : Prop :=
  (∀ (m : Memory) (a b : Nat) (x : Byte), m.wf = true → (m.poke a x).byte b = if b = a then x else m.byte b) ∧
  (∀ (m : Memory) (a n x : Nat), m.wf = true → (m.pokeNum a n x).num a n = x % 2 ^ (8 * n) ∧
    (∀ b, b < a ∨ a + n ≤ b → (m.pokeNum a n x).byte b = m.byte b)) ∧
  (∀ (m : Memory) (a n b : Nat), (m.clear a n).byte b = if a ≤ b ∧ b < a + n then 0#8 else m.byte b) ∧
  (∀ m l : Memory, m.wf = true → l.wf = true → (∀ a, m.byte a = l.byte a) → m = l)

/-- What reset leaves (Tables 5.1, 6.1, 8.6, 8.7, 11.2, R230, R231, R234, R235): the chip is not up, every hub interleaves twelve stacks, no
package is down and this one is alone in its domain, the power cap is 2,400 W, hot-page tracking has its reset control, nothing is dropped,
no node, context or fault is there, every bank is stable in mode 0, every frame descriptor reads FREE = 1 and nothing else. (Three of these
are the model's: that HUB.READY and HUB.PEER.DOWN are 0, for which the spec gives no reset value, notes/assumptions/6.md, and how the frame
descriptors hold FREE = 1 before HUB.FDT.BASE is written, notes/assumptions/7.md. The other values of entry 6 are not claimed here.) -/
def Obligations.ResetHoldsSpecValues : Prop :=
  State.reset.hub.ready = 0#64 ∧ (∀ h, h < 4 → State.reset.readReg64 (.ilv h) = 0x000CBA9876543210#64) ∧ State.reset.hub.drop = 0#64 ∧
  (∀ p, State.reset.peerDown p = false) ∧ State.reset.hub.peerDom = 1#64 ∧ State.reset.hub.peerSelf = 0#64 ∧ State.reset.hub.peerTmo = 1000#64 ∧
  State.reset.hub.pwr = 2400#64 ∧ (∀ h, h < 4 → State.reset.readReg64 (.hotCtl h) = 0x1040#64) ∧ State.reset.work.nodes = [] ∧
  (∀ k, State.reset.ctx? k = none) ∧ State.reset.eng.faults = [] ∧ State.reset.rel.pseq = 0 ∧ State.reset.rel.proof = none ∧
  (∀ c k, State.reset.bankWord c k = 0#32) ∧ (∀ f, State.reset.fdt f = 0x100000#64) ∧ (∀ t, t < 16 → State.reset.readReg64 (.vquota t) = 0#64) ∧
  State.reset.mem.merge = [] ∧ State.reset.mem.cache = []

/-- Every step keeps each memory in its canonical form, whatever the state: the premise under which memory reads back what was written
(notes/assumptions/2.md). -/
def Obligations.StepKeepsMemoriesCanonical : Prop := ∀ s t : State, memoriesOk s = true → step s = .next t → memoriesOk t = true

/-- The memories of the machine after reset are in their canonical form. -/
def Obligations.MemoriesCanonicalAtReset : Prop := memoriesOk State.reset = true


/-! Statements of several parts -/

/-- Every 64-bit word that the decoder accepts is the encoding of the instruction it gives, and a clause header is read back with every field
(Table 13.1, R242, R253). -/
def Obligations.EncodingsReadBack : Prop := Claims.DecodeEncodeAgree ∧ Claims.HeaderReadsBack

/-- The clause that a lane starts holds the words fetched at the path's pc, and a fetched word is read from locked physical memory (R6, R162,
R237). (The clause in which a word is passed over rests on the model's reading in notes/assumptions/14.md.) -/
def Obligations.FetchedWordsStandOnLane : Prop := Claims.ClauseHoldsFetchedWords ∧ Claims.FetchReadsMemory

/-- `fclass`, `fmin` and `fmax`: the class of a code, and its order (R294, R295). -/
def Obligations.FloatClassAndOrder : Prop := Claims.FclassNamesOneClass ∧ Claims.FloatMinMaxFollowOrder

/-- Floating arithmetic, comparisons, conversions, packed halves and dot products give the exact value, rounded once (R165-R173, R178,
R289-R293, R296, R298, R310, R327, R345, R346). -/
def Obligations.FloatWordsRoundOnce : Prop :=
  Claims.FloatArithmeticRounds ∧ Claims.FloatComparesFollowTable ∧ Claims.ConversionsRound ∧ Claims.PackedAndDotWordsRound

/-- Results of computed words in predicates and in x registers (R243, R254, R316). -/
def Obligations.ComputedPredicateAndCompositorResults : Prop := Claims.ComputedPredicateReadsBack ∧ Claims.CompositorResultReadsBack

/-- In a trunk or limb computed words keep forms where Table 2.6 covers them, and words that need single items make the context
materialise (R27, R28, R32). -/
def Obligations.TrunkWordsKeepFormsOrMaterialise : Prop := Claims.ComputedWordsKeepForms ∧ Claims.WarpWordsMaterialise

/-- `ballot`, `vote`, `match` and `shfl` complete with what their entries give at each active slot (R274, R331, R365, R381). -/
def Obligations.CrossSlotWordsComplete : Prop := Claims.BallotAndVoteComplete ∧ Claims.MatchCompletes ∧ Claims.ShflCompletes

/-- `segrd`, `rdwp` and `rdsr` complete, and the special registers hold what Table 16.8 says (R354, R356, R364). -/
def Obligations.SpecialReadsComplete : Prop := Claims.ReadsOfSpecialStateComplete ∧ Claims.SpecialRegistersHold

/-- `bra`, `brx`, `call` and `ret` move the active slots and leave the others at the next header; with no active slot nothing moves; the return stack
holds 16 entries (R279-R281, R359). -/
def Obligations.TransfersComplete : Prop := Claims.TransfersMoveActiveSlots ∧ Claims.BrxGoesToEachTarget ∧ Claims.CallDepthTraps ∧ Claims.EmptyTransfersFallThrough

/-- `yield`, `join`, `trap.set`, `psig` and the compositor's `halt` complete, and a word that ends its clause leaves the path as R239 says. -/
def Obligations.ClauseEndingWordsComplete : Prop := Claims.ClauseWordsComplete ∧ Claims.ClauseEndsLeavePath

/-- `exit`, `tail` and `halt` end slots and launches (R282, R311, R373). -/
def Obligations.SlotEndsComplete : Prop := Claims.ExitAndTailEndSlots ∧ Claims.HaltEndsLaunch

/-- `trap`, a privileged word at user level and a register beyond the allocation enter the handler with the trap state of R257 and R375. -/
def Obligations.TrapsEnterHandler : Prop := Claims.TrapEntersHandler ∧ Claims.PrivopAndRidxTrap

/-- `ld` and `ldm` complete, and a load from group scratch reads the bytes at its address (R75, R321-R325). (That a load takes its value when
it issues is the model's reading, notes/assumptions/4.md.) -/
def Obligations.LoadsReadMemory : Prop := Claims.LoadsComplete ∧ Claims.ScratchLoadReadsItsBytes

/-- `st` and `stm` complete, and a store to group scratch writes the bytes at its address and no others (R75, R369-R372). -/
def Obligations.StoresWriteMemory : Prop := Claims.StoresComplete ∧ Claims.ScratchStoreWritesItsBytes

/-- `atom`, `red` and `scat` complete, with the operations of Table 14.4 (R271-R273, R357, R363). (That they act when they issue is the model's
reading, notes/assumptions/4.md; that the slots of a word act in one step is its choice, notes/assumptions/82.md.) -/
def Obligations.AtomicsUpdateMemory : Prop := Claims.AtomicsComplete ∧ Claims.AtomicOperationsCompute

/-- `pref`, `cinv`, `cwb` and `fence` complete, and `pref` and fences change what their rules say (R285, R300, R349, Tables 7.3, 7.6). -/
def Obligations.CacheAndFenceWordsComplete : Prop :=
  Claims.CacheWordsComplete ∧ Claims.FenceCompletes ∧ Claims.PrefetchFillsLine ∧ Claims.FencesDrainAndDrop

/-- `gang`, `gbar` and `nbar` complete, and a named barrier counts as R340 says (R305, R306, R340). -/
def Obligations.BarrierWordsComplete : Prop := Claims.GroupBarriersComplete ∧ Claims.NamedBarrierCounts

/-- `binit`, `barv`, `btest` and `bwait` complete, and a barrier object flips as R85 says (R84, R85, R275). -/
def Obligations.BarrierObjectWordsComplete : Prop := Claims.ObjectWordsComplete ∧ Claims.BarrierObjectsFlip

/-- `chapp`, `chsq`, `sqwait` and `tsub` complete (R53, R283, R284, R366, R378). -/
def Obligations.ChainWordsComplete : Prop := Claims.ChappReserves ∧ Claims.ChainReadsComplete

/-- `dld`, `dsv`, `mma`, `mmab`, `mmas`, `mzero`, `mwait` and `mprog` complete (R291, R332-R336). -/
def Obligations.MatrixWordsComplete : Prop := Claims.DescriptorWordsMoveRecords ∧ Claims.MatrixWordsQueue

/-- `segld` and `mark` complete, and a recorder keeps its newest records (R215, R330, R364). -/
def Obligations.SegmentsAndMarksComplete : Prop := Claims.SegldAndMarkComplete ∧ Claims.GalleyKeepsNewest

/-- `srd`, `srw`, `bmode` and `frz` complete; banks and registers keep their rules (R69, R278, R301, R367, R368). -/
def Obligations.SystemWordsComplete : Prop :=
  Claims.SystemWordsAct ∧ Claims.SystemWordsOfTrunks ∧ Claims.BankRequestAnswers ∧ Claims.RegisterWritesKeepRules

/-- `redux`, `scan`, `isect` and `bexp` complete with the results of their folds, and `redux.minidx` takes the lowest slot (R277, R319, R358,
R362). -/
def Obligations.FoldWordsComplete : Prop := Claims.FoldsComplete ∧ Claims.ReduxMinidxTakesLowestSlot

/-- Drains, writes and reads of parties outside, and the loss of a peer link complete (R80, R124, R162, R223, R230, R231, R233), at the model's
readings of notes/assumptions/58.md (bytes for no memory), notes/assumptions/59.md (pinned frames) and notes/assumptions/80.md (far requests
and guest views, and their codes). -/
def Obligations.OutsideTrafficCompletes : Prop := Claims.DrainsComplete ∧ Claims.OutsideWritesAreAccepted ∧ Claims.PeerReadsAreAnswered ∧
  Claims.Bar0AccessesComplete

/-- A fatal event freezes the recorders into a Proof, and the mailboxes give it out (R206, R216, R218, R220, R227). (Which events are the loss of
a hub, and whose Proof several waves give, are the model's choices: notes/assumptions/114.md, notes/assumptions/118.md.) -/
def Obligations.FreezeAndMailboxesComplete : Prop := Claims.FreezeMakesProof ∧ Claims.MailboxCommandsComplete

/-- Faults of capacity pages, zero-fill and copies on write are resolved, the driver answers, logged words replay, counts are halved (R151, R154-R159,
R228), at the model's choices of notes/assumptions/19.md, notes/assumptions/44.md, notes/assumptions/47.md, notes/assumptions/52.md and
notes/assumptions/99.md. -/
def Obligations.FaultsAreResolved : Prop := Claims.ResolutionsComplete ∧ Claims.AnswersAndReplaysComplete

/-- Events of lanes and contexts complete (R30-R34, R41, R42, R57, R61, R162, R240, R258), at the model's readings of notes/assumptions/12.md (warps for what is left
of a limb) and notes/assumptions/24.md (the count to eight). -/
def Obligations.ContextEventsComplete : Prop :=
  Claims.OpportunitiesComplete ∧ Claims.CommitsWriteRegisters ∧ Claims.LaneEventsComplete ∧ Claims.CodeScanCompletes ∧ Claims.PlacementsComplete

/-- Bank modes, privileged registers and requests for view lines complete (R69, R70, R107, R118, R229, R235, R368). -/
def Obligations.BanksRegistersAndViewsComplete : Prop := Claims.BankModesChange ∧ Claims.RegisterEventsComplete ∧ Claims.ViewRequestsComplete

/-- Units of copies, gathers, selections, collectives and matrix operations complete (R82, R192, R193, R200, R204, R232, R287), at the model's
choices of notes/assumptions/38.md, notes/assumptions/42.md, notes/assumptions/89.md and notes/assumptions/96.md. -/
def Obligations.EngineUnitsComplete : Prop := Claims.CopyUnitMovesBytes ∧ Claims.EngineEventsComplete ∧ Claims.MatrixEventsComplete

/-- Chain registers, acceptance, dispatch, aging and completion of nodes complete (R45-R50, R53-R55, R66), at the model's readings of
notes/assumptions/53.md and notes/assumptions/55.md. -/
def Obligations.ChainsAndNodesComplete : Prop := Claims.ChainRegistersComplete ∧ Claims.NodeEventsComplete
end

