-- ==== Sys2Proof/Laws/Tables.lean ====
section
/-! SUPPORT. What tables and memories answer after each operation on them. -/

namespace Sys2Proof.Machine

/-! Tables -/

theorem Table.look_put {α : Type} (t : Table α) (k j : Nat) (x : α) : (t.put k x).look j = if j = k then some x else t.look j := by
  induction t with
  | nil => simp only [Table.put, Table.look]; split <;> rename_i h <;> simp [h, eq_comm]
  | cons e r ih =>
    obtain ⟨i, y⟩ := e
    simp only [Table.put]
    split
    · simp only [Table.look]
      by_cases h : k = j
      · simp [h]
      · simp [h, Ne.symm h]
    · split
      · rename_i h; subst h
        simp only [Table.look]
        by_cases h : k = j
        · simp [h]
        · simp [h, Ne.symm h]
      · rename_i h1 h2
        simp only [Table.look, ih]
        by_cases h : i = j
        · have : j ≠ k := fun e => h2 (by omega)
          simp [h, this]
        · simp [h]

@[simp] theorem Table.look_put_self {α : Type} (t : Table α) (k : Nat) (x : α) : (t.put k x).look k = some x := by simp [Table.look_put]

theorem Table.look_put_other {α : Type} (t : Table α) {k j : Nat} (x : α) (h : j ≠ k) : (t.put k x).look j = t.look j := by
  simp [Table.look_put, h]

theorem Table.look_change {α : Type} (t : Table α) (k j : Nat) (f : α → α) :
    (t.change k f).look j = if j = k then (t.look j).map f else t.look j := by
  induction t with
  | nil => simp [Table.change, Table.look]
  | cons e r ih =>
    obtain ⟨i, y⟩ := e
    simp only [Table.change, List.map_cons] at ih ⊢
    by_cases h : i = k
    · subst h
      simp only [if_true, Table.look]
      by_cases h : i = j
      · subst h; simp
      · have : j ≠ i := fun e => h e.symm
        simp only [h, if_false, this] at ih ⊢
        exact ih
    · simp only [h, if_false, Table.look]
      by_cases h' : i = j
      · subst h'; simp [h]
      · simp only [h', if_false]
        exact ih

@[simp] theorem Table.look_change_self {α : Type} (t : Table α) (k : Nat) (f : α → α) : (t.change k f).look k = (t.look k).map f := by
  simp [Table.look_change]

theorem Table.look_change_other {α : Type} (t : Table α) {k j : Nat} (f : α → α) (h : j ≠ k) : (t.change k f).look j = t.look j := by
  simp [Table.look_change, h]

theorem Table.look_del {α : Type} (t : Table α) (k j : Nat) : (t.del k).look j = if j = k then none else t.look j := by
  induction t with
  | nil => simp [Table.del, Table.look]
  | cons e r ih =>
    obtain ⟨i, y⟩ := e
    simp only [Table.del] at ih ⊢
    by_cases h : i = k
    · subst h
      rw [List.filter_cons_of_neg (by simp), ih]
      by_cases h : j = i
      · simp [h]
      · simp [h, Table.look, Ne.symm h]
    · rw [List.filter_cons_of_pos (by simp [h])]
      simp only [Table.look, ih]
      by_cases h' : i = j
      · subst h'; simp [h]
      · simp [h']

@[simp] theorem Table.look_del_self {α : Type} (t : Table α) (k : Nat) : (t.del k).look k = none := by simp [Table.look_del]

/-- A map over the entries that keeps the keys. -/
theorem Table.look_map {α β : Type} (t : Table α) (k : Nat) (f : Nat → α → β) :
    Table.look (t.map fun e => (e.1, f e.1 e.2)) k = (t.look k).map (f k) := by
  induction t with
  | nil => simp [Table.look]
  | cons e r ih =>
    obtain ⟨i, y⟩ := e
    simp only [List.map_cons, Table.look]
    by_cases h : i = k
    · subst h; simp
    · simp [h, ih]

/-! Memories -/

@[simp] theorem Memory.byte_nil (a : Nat) : Memory.byte [] a = 0#8 := rfl

/-- Every entry of a memory in canonical form lies above what precedes it. -/
theorem Memory.wf_cons {k : Nat} {x : Byte} {m : Memory} : Memory.wf ((k, x) :: m) = true ↔
    x ≠ 0#8 ∧ Memory.wf m = true ∧ ∀ e ∈ m, k < e.1 := by
  induction m generalizing k x with
  | nil => simp [Memory.wf]
  | cons e r ih =>
    obtain ⟨j, y⟩ := e
    rw [Memory.wf]
    simp only [Bool.and_eq_true, decide_eq_true_eq]
    constructor
    · rintro ⟨⟨h1, h2⟩, h3⟩
      refine ⟨h1, h3, ?_⟩
      intro e he
      rcases List.mem_cons.1 he with rfl | he
      · exact h2
      · have := (ih.1 h3).2.2 e he; omega
    · rintro ⟨h1, h2, h3⟩
      exact ⟨⟨h1, h3 _ (List.mem_cons_self ..)⟩, h2⟩

theorem Memory.byte_of_below {m : Memory} {a : Nat} (h : ∀ e ∈ m, a < e.1) : m.byte a = 0#8 := by
  induction m with
  | nil => rfl
  | cons e r ih =>
    obtain ⟨k, x⟩ := e
    have hk := h _ (List.mem_cons_self ..)
    simp only [Memory.byte]
    rw [if_neg (by simp at hk; omega)]
    exact ih fun e he => h e (List.mem_cons_of_mem _ he)

theorem Memory.mem_poke {m : Memory} {a : Nat} {x : Byte} {e : Nat × Byte} (h : e ∈ m.poke a x) : e.1 = a ∨ e ∈ m := by
  induction m with
  | nil => simp only [Memory.poke] at h; split at h <;> simp_all
  | cons c r ih =>
    obtain ⟨k, y⟩ := c
    simp only [Memory.poke] at h
    split at h
    · split at h <;> simp_all
      rcases h with rfl | h <;> simp_all
    · split at h
      · split at h <;> simp_all
        rcases h with rfl | h <;> simp_all
      · rcases List.mem_cons.1 h with rfl | h
        · simp
        · rcases ih h with h | h <;> simp_all

/-- A write of one byte keeps the canonical form. -/
theorem Memory.poke_wf {m : Memory} {a : Nat} {x : Byte} (h : m.wf = true) : (m.poke a x).wf = true := by
  induction m with
  | nil => simp only [Memory.poke]; split <;> simp_all [Memory.wf]
  | cons c r ih =>
    obtain ⟨k, y⟩ := c
    have hc := Memory.wf_cons.1 h
    simp only [Memory.poke]
    split
    · rename_i hlt
      split
      · exact h
      · rename_i hx
        refine Memory.wf_cons.2 ⟨hx, h, ?_⟩
        intro e he
        rcases List.mem_cons.1 he with rfl | he
        · exact hlt
        · have := hc.2.2 e he; omega
    · split
      · rename_i hx; subst hx
        split
        · exact hc.2.1
        · rename_i hx; exact Memory.wf_cons.2 ⟨hx, hc.2.1, hc.2.2⟩
      · rename_i h1 h2
        refine Memory.wf_cons.2 ⟨hc.1, ih hc.2.1, ?_⟩
        intro e he
        rcases Memory.mem_poke he with he | he
        · omega
        · exact hc.2.2 e he

theorem Memory.pokes_wf {m : Memory} {a : Nat} {bs : List Byte} (h : m.wf = true) : (m.pokes a bs).wf = true := by
  induction bs generalizing m a with
  | nil => exact h
  | cons b r ih => exact ih (Memory.poke_wf h)

theorem Memory.pokeNum_wf {m : Memory} {a n x : Nat} (h : m.wf = true) : (m.pokeNum a n x).wf = true := Memory.pokes_wf h

theorem Memory.filter_wf {m : Memory} (p : Nat × Byte → Bool) (h : m.wf = true) : Memory.wf (m.filter p) = true := by
  induction m with
  | nil => rfl
  | cons c r ih =>
    obtain ⟨k, y⟩ := c
    have hc := Memory.wf_cons.1 h
    rw [List.filter_cons]
    split
    · exact Memory.wf_cons.2 ⟨hc.1, ih hc.2.1, fun e he => hc.2.2 e ((List.mem_filter.1 he).1)⟩
    · exact ih hc.2.1

theorem Memory.clear_wf {m : Memory} {a n : Nat} (h : m.wf = true) : (m.clear a n).wf = true := Memory.filter_wf _ h

/-- A fold of writes keeps the canonical form. -/
theorem Memory.foldl_poke_wf {α : Type} (l : List α) (f : α → Nat) (g : α → Byte) {m : Memory} (h : m.wf = true) :
    Memory.wf (l.foldl (fun m b => m.poke (f b) (g b)) m) = true := by
  induction l generalizing m with
  | nil => exact h
  | cons b r ih => exact ih (Memory.poke_wf h)

/-- The memories of reset are in canonical form. -/
theorem Mem.reset_wf : Mem.reset.phys.wf = true ∧ Mem.reset.store.wf = true ∧ Mem.reset.host.wf = true ∧ Mem.reset.peer.wf = true :=
  ⟨rfl, rfl, rfl, rfl⟩

end Sys2Proof.Machine
end

