-- ==== Sys2Proof/Laws/State.lean ====
section
/-! SUPPORT. What each update of State leaves alone, field by field, and what it answers when read back. -/

namespace Sys2Proof.Machine

@[simp] theorem State.setWork_work (s : State) (w : Work) : (s.setWork w).work = w := rfl
@[simp] theorem State.setWork_mem (s : State) (w : Work) : (s.setWork w).mem = s.mem := rfl
@[simp] theorem State.setWork_hub (s : State) (w : Work) : (s.setWork w).hub = s.hub := rfl
@[simp] theorem State.setWork_eng (s : State) (w : Work) : (s.setWork w).eng = s.eng := rfl
@[simp] theorem State.setWork_rel (s : State) (w : Work) : (s.setWork w).rel = s.rel := rfl
@[simp] theorem State.setWork_out (s : State) (w : Work) : (s.setWork w).out = s.out := rfl
@[simp] theorem State.setWork_aCyc (s : State) (w : Work) : (s.setWork w).aCyc = s.aCyc := rfl
@[simp] theorem State.setWork_fCyc (s : State) (w : Work) : (s.setWork w).fCyc = s.fCyc := rfl
@[simp] theorem State.setWork_agenda (s : State) (w : Work) : (s.setWork w).agenda = s.agenda := rfl
@[simp] theorem State.setWork_issuer (s : State) (w : Work) : (s.setWork w).issuer = s.issuer := rfl
@[simp] theorem State.setWork_serial (s : State) (w : Work) : (s.setWork w).serial = s.serial := rfl

@[simp] theorem State.putCtx_mem (s : State) (c : Ctx) : (s.putCtx c).mem = s.mem := rfl
@[simp] theorem State.putCtx_hub (s : State) (c : Ctx) : (s.putCtx c).hub = s.hub := rfl
@[simp] theorem State.putCtx_eng (s : State) (c : Ctx) : (s.putCtx c).eng = s.eng := rfl
@[simp] theorem State.putCtx_rel (s : State) (c : Ctx) : (s.putCtx c).rel = s.rel := rfl
@[simp] theorem State.putCtx_out (s : State) (c : Ctx) : (s.putCtx c).out = s.out := rfl
@[simp] theorem State.putCtx_aCyc (s : State) (c : Ctx) : (s.putCtx c).aCyc = s.aCyc := rfl
@[simp] theorem State.putCtx_fCyc (s : State) (c : Ctx) : (s.putCtx c).fCyc = s.fCyc := rfl
@[simp] theorem State.putCtx_agenda (s : State) (c : Ctx) : (s.putCtx c).agenda = s.agenda := rfl
@[simp] theorem State.putCtx_issuer (s : State) (c : Ctx) : (s.putCtx c).issuer = s.issuer := rfl
@[simp] theorem State.putCtx_serial (s : State) (c : Ctx) : (s.putCtx c).serial = s.serial := rfl
@[simp] theorem State.putCtx_nodes (s : State) (c : Ctx) : (s.putCtx c).work.nodes = s.work.nodes := rfl
@[simp] theorem State.putCtx_acceptNo (s : State) (c : Ctx) : (s.putCtx c).work.acceptNo = s.work.acceptNo := rfl
@[simp] theorem State.putCtx_done (s : State) (c : Ctx) : (s.putCtx c).work.done = s.work.done := rfl
@[simp] theorem State.putCtx_ringFault (s : State) (c : Ctx) : (s.putCtx c).work.ringFault = s.work.ringFault := rfl
@[simp] theorem State.putCtx_lanes (s : State) (c : Ctx) : (s.putCtx c).work.lanes = s.work.lanes := rfl
@[simp] theorem State.putCtx_groups (s : State) (c : Ctx) : (s.putCtx c).work.groups = s.work.groups := rfl
@[simp] theorem State.putCtx_gangs (s : State) (c : Ctx) : (s.putCtx c).work.gangs = s.work.gangs := rfl
@[simp] theorem State.putCtx_placed (s : State) (c : Ctx) : (s.putCtx c).work.placed = s.work.placed := rfl
@[simp] theorem State.putCtx_limbQueue (s : State) (c : Ctx) : (s.putCtx c).work.limbQueue = s.work.limbQueue := rfl
@[simp] theorem State.putCtx_leafSaved (s : State) (c : Ctx) : (s.putCtx c).work.leafSaved = s.work.leafSaved := rfl
@[simp] theorem State.putCtx_trackers (s : State) (c : Ctx) : (s.putCtx c).work.trackers = s.work.trackers := rfl
@[simp] theorem State.putCtx_units (s : State) (c : Ctx) : (s.putCtx c).work.units = s.work.units := rfl
@[simp] theorem State.putCtx_saved (s : State) (c : Ctx) : (s.putCtx c).work.saved = s.work.saved := rfl

@[simp] theorem State.dropCtx_mem (s : State) (k : Nat) : (s.dropCtx k).mem = s.mem := rfl
@[simp] theorem State.dropCtx_hub (s : State) (k : Nat) : (s.dropCtx k).hub = s.hub := rfl
@[simp] theorem State.dropCtx_eng (s : State) (k : Nat) : (s.dropCtx k).eng = s.eng := rfl
@[simp] theorem State.dropCtx_rel (s : State) (k : Nat) : (s.dropCtx k).rel = s.rel := rfl
@[simp] theorem State.dropCtx_out (s : State) (k : Nat) : (s.dropCtx k).out = s.out := rfl
@[simp] theorem State.dropCtx_aCyc (s : State) (k : Nat) : (s.dropCtx k).aCyc = s.aCyc := rfl
@[simp] theorem State.dropCtx_fCyc (s : State) (k : Nat) : (s.dropCtx k).fCyc = s.fCyc := rfl
@[simp] theorem State.dropCtx_agenda (s : State) (k : Nat) : (s.dropCtx k).agenda = s.agenda := rfl
@[simp] theorem State.dropCtx_issuer (s : State) (k : Nat) : (s.dropCtx k).issuer = s.issuer := rfl
@[simp] theorem State.dropCtx_serial (s : State) (k : Nat) : (s.dropCtx k).serial = s.serial := rfl
@[simp] theorem State.dropCtx_nodes (s : State) (k : Nat) : (s.dropCtx k).work.nodes = s.work.nodes := rfl
@[simp] theorem State.dropCtx_acceptNo (s : State) (k : Nat) : (s.dropCtx k).work.acceptNo = s.work.acceptNo := rfl
@[simp] theorem State.dropCtx_done (s : State) (k : Nat) : (s.dropCtx k).work.done = s.work.done := rfl
@[simp] theorem State.dropCtx_ringFault (s : State) (k : Nat) : (s.dropCtx k).work.ringFault = s.work.ringFault := rfl
@[simp] theorem State.dropCtx_groups (s : State) (k : Nat) : (s.dropCtx k).work.groups = s.work.groups := rfl
@[simp] theorem State.dropCtx_gangs (s : State) (k : Nat) : (s.dropCtx k).work.gangs = s.work.gangs := rfl
@[simp] theorem State.dropCtx_placed (s : State) (k : Nat) : (s.dropCtx k).work.placed = s.work.placed := rfl
@[simp] theorem State.dropCtx_limbQueue (s : State) (k : Nat) : (s.dropCtx k).work.limbQueue = s.work.limbQueue := rfl
@[simp] theorem State.dropCtx_leafSaved (s : State) (k : Nat) : (s.dropCtx k).work.leafSaved = s.work.leafSaved := rfl
@[simp] theorem State.dropCtx_trackers (s : State) (k : Nat) : (s.dropCtx k).work.trackers = s.work.trackers := rfl
@[simp] theorem State.dropCtx_units (s : State) (k : Nat) : (s.dropCtx k).work.units = s.work.units := rfl
@[simp] theorem State.dropCtx_saved (s : State) (k : Nat) : (s.dropCtx k).work.saved = s.work.saved := rfl

@[simp] theorem State.changeCtx_mem (s : State) (k : Nat) (f : Ctx → Ctx) : (s.changeCtx k f).mem = s.mem := rfl
@[simp] theorem State.changeCtx_hub (s : State) (k : Nat) (f : Ctx → Ctx) : (s.changeCtx k f).hub = s.hub := rfl
@[simp] theorem State.changeCtx_eng (s : State) (k : Nat) (f : Ctx → Ctx) : (s.changeCtx k f).eng = s.eng := rfl
@[simp] theorem State.changeCtx_rel (s : State) (k : Nat) (f : Ctx → Ctx) : (s.changeCtx k f).rel = s.rel := rfl
@[simp] theorem State.changeCtx_out (s : State) (k : Nat) (f : Ctx → Ctx) : (s.changeCtx k f).out = s.out := rfl
@[simp] theorem State.changeCtx_aCyc (s : State) (k : Nat) (f : Ctx → Ctx) : (s.changeCtx k f).aCyc = s.aCyc := rfl
@[simp] theorem State.changeCtx_fCyc (s : State) (k : Nat) (f : Ctx → Ctx) : (s.changeCtx k f).fCyc = s.fCyc := rfl
@[simp] theorem State.changeCtx_agenda (s : State) (k : Nat) (f : Ctx → Ctx) : (s.changeCtx k f).agenda = s.agenda := rfl
@[simp] theorem State.changeCtx_issuer (s : State) (k : Nat) (f : Ctx → Ctx) : (s.changeCtx k f).issuer = s.issuer := rfl
@[simp] theorem State.changeCtx_serial (s : State) (k : Nat) (f : Ctx → Ctx) : (s.changeCtx k f).serial = s.serial := rfl
@[simp] theorem State.changeCtx_nodes (s : State) (k : Nat) (f : Ctx → Ctx) : (s.changeCtx k f).work.nodes = s.work.nodes := rfl
@[simp] theorem State.changeCtx_acceptNo (s : State) (k : Nat) (f : Ctx → Ctx) : (s.changeCtx k f).work.acceptNo = s.work.acceptNo := rfl
@[simp] theorem State.changeCtx_done (s : State) (k : Nat) (f : Ctx → Ctx) : (s.changeCtx k f).work.done = s.work.done := rfl
@[simp] theorem State.changeCtx_ringFault (s : State) (k : Nat) (f : Ctx → Ctx) : (s.changeCtx k f).work.ringFault = s.work.ringFault := rfl
@[simp] theorem State.changeCtx_lanes (s : State) (k : Nat) (f : Ctx → Ctx) : (s.changeCtx k f).work.lanes = s.work.lanes := rfl
@[simp] theorem State.changeCtx_groups (s : State) (k : Nat) (f : Ctx → Ctx) : (s.changeCtx k f).work.groups = s.work.groups := rfl
@[simp] theorem State.changeCtx_gangs (s : State) (k : Nat) (f : Ctx → Ctx) : (s.changeCtx k f).work.gangs = s.work.gangs := rfl
@[simp] theorem State.changeCtx_placed (s : State) (k : Nat) (f : Ctx → Ctx) : (s.changeCtx k f).work.placed = s.work.placed := rfl
@[simp] theorem State.changeCtx_limbQueue (s : State) (k : Nat) (f : Ctx → Ctx) : (s.changeCtx k f).work.limbQueue = s.work.limbQueue := rfl
@[simp] theorem State.changeCtx_leafSaved (s : State) (k : Nat) (f : Ctx → Ctx) : (s.changeCtx k f).work.leafSaved = s.work.leafSaved := rfl
@[simp] theorem State.changeCtx_trackers (s : State) (k : Nat) (f : Ctx → Ctx) : (s.changeCtx k f).work.trackers = s.work.trackers := rfl
@[simp] theorem State.changeCtx_units (s : State) (k : Nat) (f : Ctx → Ctx) : (s.changeCtx k f).work.units = s.work.units := rfl
@[simp] theorem State.changeCtx_saved (s : State) (k : Nat) (f : Ctx → Ctx) : (s.changeCtx k f).work.saved = s.work.saved := rfl

@[simp] theorem State.setLane_mem (s : State) (k : Nat) (l : Lane) : (s.setLane k l).mem = s.mem := rfl
@[simp] theorem State.setLane_hub (s : State) (k : Nat) (l : Lane) : (s.setLane k l).hub = s.hub := rfl
@[simp] theorem State.setLane_eng (s : State) (k : Nat) (l : Lane) : (s.setLane k l).eng = s.eng := rfl
@[simp] theorem State.setLane_rel (s : State) (k : Nat) (l : Lane) : (s.setLane k l).rel = s.rel := rfl
@[simp] theorem State.setLane_out (s : State) (k : Nat) (l : Lane) : (s.setLane k l).out = s.out := rfl
@[simp] theorem State.setLane_aCyc (s : State) (k : Nat) (l : Lane) : (s.setLane k l).aCyc = s.aCyc := rfl
@[simp] theorem State.setLane_fCyc (s : State) (k : Nat) (l : Lane) : (s.setLane k l).fCyc = s.fCyc := rfl
@[simp] theorem State.setLane_agenda (s : State) (k : Nat) (l : Lane) : (s.setLane k l).agenda = s.agenda := rfl
@[simp] theorem State.setLane_issuer (s : State) (k : Nat) (l : Lane) : (s.setLane k l).issuer = s.issuer := rfl
@[simp] theorem State.setLane_serial (s : State) (k : Nat) (l : Lane) : (s.setLane k l).serial = s.serial := rfl
@[simp] theorem State.setLane_nodes (s : State) (k : Nat) (l : Lane) : (s.setLane k l).work.nodes = s.work.nodes := rfl
@[simp] theorem State.setLane_acceptNo (s : State) (k : Nat) (l : Lane) : (s.setLane k l).work.acceptNo = s.work.acceptNo := rfl
@[simp] theorem State.setLane_done (s : State) (k : Nat) (l : Lane) : (s.setLane k l).work.done = s.work.done := rfl
@[simp] theorem State.setLane_ringFault (s : State) (k : Nat) (l : Lane) : (s.setLane k l).work.ringFault = s.work.ringFault := rfl
@[simp] theorem State.setLane_ctxs (s : State) (k : Nat) (l : Lane) : (s.setLane k l).work.ctxs = s.work.ctxs := rfl
@[simp] theorem State.setLane_groups (s : State) (k : Nat) (l : Lane) : (s.setLane k l).work.groups = s.work.groups := rfl
@[simp] theorem State.setLane_gangs (s : State) (k : Nat) (l : Lane) : (s.setLane k l).work.gangs = s.work.gangs := rfl
@[simp] theorem State.setLane_placed (s : State) (k : Nat) (l : Lane) : (s.setLane k l).work.placed = s.work.placed := rfl
@[simp] theorem State.setLane_limbQueue (s : State) (k : Nat) (l : Lane) : (s.setLane k l).work.limbQueue = s.work.limbQueue := rfl
@[simp] theorem State.setLane_leafSaved (s : State) (k : Nat) (l : Lane) : (s.setLane k l).work.leafSaved = s.work.leafSaved := rfl
@[simp] theorem State.setLane_trackers (s : State) (k : Nat) (l : Lane) : (s.setLane k l).work.trackers = s.work.trackers := rfl
@[simp] theorem State.setLane_units (s : State) (k : Nat) (l : Lane) : (s.setLane k l).work.units = s.work.units := rfl
@[simp] theorem State.setLane_saved (s : State) (k : Nat) (l : Lane) : (s.setLane k l).work.saved = s.work.saved := rfl

@[simp] theorem State.changeLane_mem (s : State) (k : Nat) (f : Lane → Lane) : (s.changeLane k f).mem = s.mem := rfl
@[simp] theorem State.changeLane_hub (s : State) (k : Nat) (f : Lane → Lane) : (s.changeLane k f).hub = s.hub := rfl
@[simp] theorem State.changeLane_eng (s : State) (k : Nat) (f : Lane → Lane) : (s.changeLane k f).eng = s.eng := rfl
@[simp] theorem State.changeLane_rel (s : State) (k : Nat) (f : Lane → Lane) : (s.changeLane k f).rel = s.rel := rfl
@[simp] theorem State.changeLane_out (s : State) (k : Nat) (f : Lane → Lane) : (s.changeLane k f).out = s.out := rfl
@[simp] theorem State.changeLane_aCyc (s : State) (k : Nat) (f : Lane → Lane) : (s.changeLane k f).aCyc = s.aCyc := rfl
@[simp] theorem State.changeLane_fCyc (s : State) (k : Nat) (f : Lane → Lane) : (s.changeLane k f).fCyc = s.fCyc := rfl
@[simp] theorem State.changeLane_agenda (s : State) (k : Nat) (f : Lane → Lane) : (s.changeLane k f).agenda = s.agenda := rfl
@[simp] theorem State.changeLane_issuer (s : State) (k : Nat) (f : Lane → Lane) : (s.changeLane k f).issuer = s.issuer := rfl
@[simp] theorem State.changeLane_serial (s : State) (k : Nat) (f : Lane → Lane) : (s.changeLane k f).serial = s.serial := rfl
@[simp] theorem State.changeLane_nodes (s : State) (k : Nat) (f : Lane → Lane) : (s.changeLane k f).work.nodes = s.work.nodes := rfl
@[simp] theorem State.changeLane_acceptNo (s : State) (k : Nat) (f : Lane → Lane) : (s.changeLane k f).work.acceptNo = s.work.acceptNo := rfl
@[simp] theorem State.changeLane_done (s : State) (k : Nat) (f : Lane → Lane) : (s.changeLane k f).work.done = s.work.done := rfl
@[simp] theorem State.changeLane_ringFault (s : State) (k : Nat) (f : Lane → Lane) : (s.changeLane k f).work.ringFault = s.work.ringFault := rfl
@[simp] theorem State.changeLane_ctxs (s : State) (k : Nat) (f : Lane → Lane) : (s.changeLane k f).work.ctxs = s.work.ctxs := rfl
@[simp] theorem State.changeLane_groups (s : State) (k : Nat) (f : Lane → Lane) : (s.changeLane k f).work.groups = s.work.groups := rfl
@[simp] theorem State.changeLane_gangs (s : State) (k : Nat) (f : Lane → Lane) : (s.changeLane k f).work.gangs = s.work.gangs := rfl
@[simp] theorem State.changeLane_placed (s : State) (k : Nat) (f : Lane → Lane) : (s.changeLane k f).work.placed = s.work.placed := rfl
@[simp] theorem State.changeLane_limbQueue (s : State) (k : Nat) (f : Lane → Lane) : (s.changeLane k f).work.limbQueue = s.work.limbQueue := rfl
@[simp] theorem State.changeLane_leafSaved (s : State) (k : Nat) (f : Lane → Lane) : (s.changeLane k f).work.leafSaved = s.work.leafSaved := rfl
@[simp] theorem State.changeLane_trackers (s : State) (k : Nat) (f : Lane → Lane) : (s.changeLane k f).work.trackers = s.work.trackers := rfl
@[simp] theorem State.changeLane_units (s : State) (k : Nat) (f : Lane → Lane) : (s.changeLane k f).work.units = s.work.units := rfl
@[simp] theorem State.changeLane_saved (s : State) (k : Nat) (f : Lane → Lane) : (s.changeLane k f).work.saved = s.work.saved := rfl

@[simp] theorem State.clearLatch_mem (s : State) (k : Nat) : (s.clearLatch k).mem = s.mem := rfl
@[simp] theorem State.clearLatch_hub (s : State) (k : Nat) : (s.clearLatch k).hub = s.hub := rfl
@[simp] theorem State.clearLatch_eng (s : State) (k : Nat) : (s.clearLatch k).eng = s.eng := rfl
@[simp] theorem State.clearLatch_rel (s : State) (k : Nat) : (s.clearLatch k).rel = s.rel := rfl
@[simp] theorem State.clearLatch_out (s : State) (k : Nat) : (s.clearLatch k).out = s.out := rfl
@[simp] theorem State.clearLatch_aCyc (s : State) (k : Nat) : (s.clearLatch k).aCyc = s.aCyc := rfl
@[simp] theorem State.clearLatch_fCyc (s : State) (k : Nat) : (s.clearLatch k).fCyc = s.fCyc := rfl
@[simp] theorem State.clearLatch_agenda (s : State) (k : Nat) : (s.clearLatch k).agenda = s.agenda := rfl
@[simp] theorem State.clearLatch_issuer (s : State) (k : Nat) : (s.clearLatch k).issuer = s.issuer := rfl
@[simp] theorem State.clearLatch_serial (s : State) (k : Nat) : (s.clearLatch k).serial = s.serial := rfl
@[simp] theorem State.clearLatch_nodes (s : State) (k : Nat) : (s.clearLatch k).work.nodes = s.work.nodes := rfl
@[simp] theorem State.clearLatch_acceptNo (s : State) (k : Nat) : (s.clearLatch k).work.acceptNo = s.work.acceptNo := rfl
@[simp] theorem State.clearLatch_done (s : State) (k : Nat) : (s.clearLatch k).work.done = s.work.done := rfl
@[simp] theorem State.clearLatch_ringFault (s : State) (k : Nat) : (s.clearLatch k).work.ringFault = s.work.ringFault := rfl
@[simp] theorem State.clearLatch_ctxs (s : State) (k : Nat) : (s.clearLatch k).work.ctxs = s.work.ctxs := rfl
@[simp] theorem State.clearLatch_groups (s : State) (k : Nat) : (s.clearLatch k).work.groups = s.work.groups := rfl
@[simp] theorem State.clearLatch_gangs (s : State) (k : Nat) : (s.clearLatch k).work.gangs = s.work.gangs := rfl
@[simp] theorem State.clearLatch_placed (s : State) (k : Nat) : (s.clearLatch k).work.placed = s.work.placed := rfl
@[simp] theorem State.clearLatch_limbQueue (s : State) (k : Nat) : (s.clearLatch k).work.limbQueue = s.work.limbQueue := rfl
@[simp] theorem State.clearLatch_leafSaved (s : State) (k : Nat) : (s.clearLatch k).work.leafSaved = s.work.leafSaved := rfl
@[simp] theorem State.clearLatch_trackers (s : State) (k : Nat) : (s.clearLatch k).work.trackers = s.work.trackers := rfl
@[simp] theorem State.clearLatch_units (s : State) (k : Nat) : (s.clearLatch k).work.units = s.work.units := rfl
@[simp] theorem State.clearLatch_saved (s : State) (k : Nat) : (s.clearLatch k).work.saved = s.work.saved := rfl

@[simp] theorem State.changeNode_mem (s : State) (n : Nat) (f : Node → Node) : (s.changeNode n f).mem = s.mem := rfl
@[simp] theorem State.changeNode_hub (s : State) (n : Nat) (f : Node → Node) : (s.changeNode n f).hub = s.hub := rfl
@[simp] theorem State.changeNode_eng (s : State) (n : Nat) (f : Node → Node) : (s.changeNode n f).eng = s.eng := rfl
@[simp] theorem State.changeNode_rel (s : State) (n : Nat) (f : Node → Node) : (s.changeNode n f).rel = s.rel := rfl
@[simp] theorem State.changeNode_out (s : State) (n : Nat) (f : Node → Node) : (s.changeNode n f).out = s.out := rfl
@[simp] theorem State.changeNode_aCyc (s : State) (n : Nat) (f : Node → Node) : (s.changeNode n f).aCyc = s.aCyc := rfl
@[simp] theorem State.changeNode_fCyc (s : State) (n : Nat) (f : Node → Node) : (s.changeNode n f).fCyc = s.fCyc := rfl
@[simp] theorem State.changeNode_agenda (s : State) (n : Nat) (f : Node → Node) : (s.changeNode n f).agenda = s.agenda := rfl
@[simp] theorem State.changeNode_issuer (s : State) (n : Nat) (f : Node → Node) : (s.changeNode n f).issuer = s.issuer := rfl
@[simp] theorem State.changeNode_serial (s : State) (n : Nat) (f : Node → Node) : (s.changeNode n f).serial = s.serial := rfl
@[simp] theorem State.changeNode_acceptNo (s : State) (n : Nat) (f : Node → Node) : (s.changeNode n f).work.acceptNo = s.work.acceptNo := rfl
@[simp] theorem State.changeNode_done (s : State) (n : Nat) (f : Node → Node) : (s.changeNode n f).work.done = s.work.done := rfl
@[simp] theorem State.changeNode_ringFault (s : State) (n : Nat) (f : Node → Node) : (s.changeNode n f).work.ringFault = s.work.ringFault := rfl
@[simp] theorem State.changeNode_ctxs (s : State) (n : Nat) (f : Node → Node) : (s.changeNode n f).work.ctxs = s.work.ctxs := rfl
@[simp] theorem State.changeNode_lanes (s : State) (n : Nat) (f : Node → Node) : (s.changeNode n f).work.lanes = s.work.lanes := rfl
@[simp] theorem State.changeNode_groups (s : State) (n : Nat) (f : Node → Node) : (s.changeNode n f).work.groups = s.work.groups := rfl
@[simp] theorem State.changeNode_gangs (s : State) (n : Nat) (f : Node → Node) : (s.changeNode n f).work.gangs = s.work.gangs := rfl
@[simp] theorem State.changeNode_placed (s : State) (n : Nat) (f : Node → Node) : (s.changeNode n f).work.placed = s.work.placed := rfl
@[simp] theorem State.changeNode_limbQueue (s : State) (n : Nat) (f : Node → Node) : (s.changeNode n f).work.limbQueue = s.work.limbQueue := rfl
@[simp] theorem State.changeNode_leafSaved (s : State) (n : Nat) (f : Node → Node) : (s.changeNode n f).work.leafSaved = s.work.leafSaved := rfl
@[simp] theorem State.changeNode_trackers (s : State) (n : Nat) (f : Node → Node) : (s.changeNode n f).work.trackers = s.work.trackers := rfl
@[simp] theorem State.changeNode_units (s : State) (n : Nat) (f : Node → Node) : (s.changeNode n f).work.units = s.work.units := rfl
@[simp] theorem State.changeNode_saved (s : State) (n : Nat) (f : Node → Node) : (s.changeNode n f).work.saved = s.work.saved := rfl

@[simp] theorem State.changeGroup_mem (s : State) (g : Nat) (f : Group → Group) : (s.changeGroup g f).mem = s.mem := rfl
@[simp] theorem State.changeGroup_hub (s : State) (g : Nat) (f : Group → Group) : (s.changeGroup g f).hub = s.hub := rfl
@[simp] theorem State.changeGroup_eng (s : State) (g : Nat) (f : Group → Group) : (s.changeGroup g f).eng = s.eng := rfl
@[simp] theorem State.changeGroup_rel (s : State) (g : Nat) (f : Group → Group) : (s.changeGroup g f).rel = s.rel := rfl
@[simp] theorem State.changeGroup_out (s : State) (g : Nat) (f : Group → Group) : (s.changeGroup g f).out = s.out := rfl
@[simp] theorem State.changeGroup_aCyc (s : State) (g : Nat) (f : Group → Group) : (s.changeGroup g f).aCyc = s.aCyc := rfl
@[simp] theorem State.changeGroup_fCyc (s : State) (g : Nat) (f : Group → Group) : (s.changeGroup g f).fCyc = s.fCyc := rfl
@[simp] theorem State.changeGroup_agenda (s : State) (g : Nat) (f : Group → Group) : (s.changeGroup g f).agenda = s.agenda := rfl
@[simp] theorem State.changeGroup_issuer (s : State) (g : Nat) (f : Group → Group) : (s.changeGroup g f).issuer = s.issuer := rfl
@[simp] theorem State.changeGroup_serial (s : State) (g : Nat) (f : Group → Group) : (s.changeGroup g f).serial = s.serial := rfl
@[simp] theorem State.changeGroup_nodes (s : State) (g : Nat) (f : Group → Group) : (s.changeGroup g f).work.nodes = s.work.nodes := rfl
@[simp] theorem State.changeGroup_acceptNo (s : State) (g : Nat) (f : Group → Group) : (s.changeGroup g f).work.acceptNo = s.work.acceptNo := rfl
@[simp] theorem State.changeGroup_done (s : State) (g : Nat) (f : Group → Group) : (s.changeGroup g f).work.done = s.work.done := rfl
@[simp] theorem State.changeGroup_ringFault (s : State) (g : Nat) (f : Group → Group) : (s.changeGroup g f).work.ringFault = s.work.ringFault := rfl
@[simp] theorem State.changeGroup_ctxs (s : State) (g : Nat) (f : Group → Group) : (s.changeGroup g f).work.ctxs = s.work.ctxs := rfl
@[simp] theorem State.changeGroup_lanes (s : State) (g : Nat) (f : Group → Group) : (s.changeGroup g f).work.lanes = s.work.lanes := rfl
@[simp] theorem State.changeGroup_gangs (s : State) (g : Nat) (f : Group → Group) : (s.changeGroup g f).work.gangs = s.work.gangs := rfl
@[simp] theorem State.changeGroup_placed (s : State) (g : Nat) (f : Group → Group) : (s.changeGroup g f).work.placed = s.work.placed := rfl
@[simp] theorem State.changeGroup_limbQueue (s : State) (g : Nat) (f : Group → Group) : (s.changeGroup g f).work.limbQueue = s.work.limbQueue := rfl
@[simp] theorem State.changeGroup_leafSaved (s : State) (g : Nat) (f : Group → Group) : (s.changeGroup g f).work.leafSaved = s.work.leafSaved := rfl
@[simp] theorem State.changeGroup_trackers (s : State) (g : Nat) (f : Group → Group) : (s.changeGroup g f).work.trackers = s.work.trackers := rfl
@[simp] theorem State.changeGroup_units (s : State) (g : Nat) (f : Group → Group) : (s.changeGroup g f).work.units = s.work.units := rfl
@[simp] theorem State.changeGroup_saved (s : State) (g : Nat) (f : Group → Group) : (s.changeGroup g f).work.saved = s.work.saved := rfl

@[simp] theorem State.changeGang_mem (s : State) (g : Nat) (f : Gang → Gang) : (s.changeGang g f).mem = s.mem := rfl
@[simp] theorem State.changeGang_hub (s : State) (g : Nat) (f : Gang → Gang) : (s.changeGang g f).hub = s.hub := rfl
@[simp] theorem State.changeGang_eng (s : State) (g : Nat) (f : Gang → Gang) : (s.changeGang g f).eng = s.eng := rfl
@[simp] theorem State.changeGang_rel (s : State) (g : Nat) (f : Gang → Gang) : (s.changeGang g f).rel = s.rel := rfl
@[simp] theorem State.changeGang_out (s : State) (g : Nat) (f : Gang → Gang) : (s.changeGang g f).out = s.out := rfl
@[simp] theorem State.changeGang_aCyc (s : State) (g : Nat) (f : Gang → Gang) : (s.changeGang g f).aCyc = s.aCyc := rfl
@[simp] theorem State.changeGang_fCyc (s : State) (g : Nat) (f : Gang → Gang) : (s.changeGang g f).fCyc = s.fCyc := rfl
@[simp] theorem State.changeGang_agenda (s : State) (g : Nat) (f : Gang → Gang) : (s.changeGang g f).agenda = s.agenda := rfl
@[simp] theorem State.changeGang_issuer (s : State) (g : Nat) (f : Gang → Gang) : (s.changeGang g f).issuer = s.issuer := rfl
@[simp] theorem State.changeGang_serial (s : State) (g : Nat) (f : Gang → Gang) : (s.changeGang g f).serial = s.serial := rfl
@[simp] theorem State.changeGang_nodes (s : State) (g : Nat) (f : Gang → Gang) : (s.changeGang g f).work.nodes = s.work.nodes := rfl
@[simp] theorem State.changeGang_acceptNo (s : State) (g : Nat) (f : Gang → Gang) : (s.changeGang g f).work.acceptNo = s.work.acceptNo := rfl
@[simp] theorem State.changeGang_done (s : State) (g : Nat) (f : Gang → Gang) : (s.changeGang g f).work.done = s.work.done := rfl
@[simp] theorem State.changeGang_ringFault (s : State) (g : Nat) (f : Gang → Gang) : (s.changeGang g f).work.ringFault = s.work.ringFault := rfl
@[simp] theorem State.changeGang_ctxs (s : State) (g : Nat) (f : Gang → Gang) : (s.changeGang g f).work.ctxs = s.work.ctxs := rfl
@[simp] theorem State.changeGang_lanes (s : State) (g : Nat) (f : Gang → Gang) : (s.changeGang g f).work.lanes = s.work.lanes := rfl
@[simp] theorem State.changeGang_groups (s : State) (g : Nat) (f : Gang → Gang) : (s.changeGang g f).work.groups = s.work.groups := rfl
@[simp] theorem State.changeGang_placed (s : State) (g : Nat) (f : Gang → Gang) : (s.changeGang g f).work.placed = s.work.placed := rfl
@[simp] theorem State.changeGang_limbQueue (s : State) (g : Nat) (f : Gang → Gang) : (s.changeGang g f).work.limbQueue = s.work.limbQueue := rfl
@[simp] theorem State.changeGang_leafSaved (s : State) (g : Nat) (f : Gang → Gang) : (s.changeGang g f).work.leafSaved = s.work.leafSaved := rfl
@[simp] theorem State.changeGang_trackers (s : State) (g : Nat) (f : Gang → Gang) : (s.changeGang g f).work.trackers = s.work.trackers := rfl
@[simp] theorem State.changeGang_units (s : State) (g : Nat) (f : Gang → Gang) : (s.changeGang g f).work.units = s.work.units := rfl
@[simp] theorem State.changeGang_saved (s : State) (g : Nat) (f : Gang → Gang) : (s.changeGang g f).work.saved = s.work.saved := rfl

@[simp] theorem State.failNode_mem (s : State) (n : Nat) (code : BitVec 8) (d : Nat) : (s.failNode n code d).mem = s.mem := rfl
@[simp] theorem State.failNode_hub (s : State) (n : Nat) (code : BitVec 8) (d : Nat) : (s.failNode n code d).hub = s.hub := rfl
@[simp] theorem State.failNode_eng (s : State) (n : Nat) (code : BitVec 8) (d : Nat) : (s.failNode n code d).eng = s.eng := rfl
@[simp] theorem State.failNode_rel (s : State) (n : Nat) (code : BitVec 8) (d : Nat) : (s.failNode n code d).rel = s.rel := rfl
@[simp] theorem State.failNode_out (s : State) (n : Nat) (code : BitVec 8) (d : Nat) : (s.failNode n code d).out = s.out := rfl
@[simp] theorem State.failNode_aCyc (s : State) (n : Nat) (code : BitVec 8) (d : Nat) : (s.failNode n code d).aCyc = s.aCyc := rfl
@[simp] theorem State.failNode_fCyc (s : State) (n : Nat) (code : BitVec 8) (d : Nat) : (s.failNode n code d).fCyc = s.fCyc := rfl
@[simp] theorem State.failNode_agenda (s : State) (n : Nat) (code : BitVec 8) (d : Nat) : (s.failNode n code d).agenda = s.agenda := rfl
@[simp] theorem State.failNode_issuer (s : State) (n : Nat) (code : BitVec 8) (d : Nat) : (s.failNode n code d).issuer = s.issuer := rfl
@[simp] theorem State.failNode_serial (s : State) (n : Nat) (code : BitVec 8) (d : Nat) : (s.failNode n code d).serial = s.serial := rfl
@[simp] theorem State.failNode_acceptNo (s : State) (n : Nat) (code : BitVec 8) (d : Nat) : (s.failNode n code d).work.acceptNo = s.work.acceptNo := rfl
@[simp] theorem State.failNode_done (s : State) (n : Nat) (code : BitVec 8) (d : Nat) : (s.failNode n code d).work.done = s.work.done := rfl
@[simp] theorem State.failNode_ringFault (s : State) (n : Nat) (code : BitVec 8) (d : Nat) : (s.failNode n code d).work.ringFault = s.work.ringFault := rfl
@[simp] theorem State.failNode_ctxs (s : State) (n : Nat) (code : BitVec 8) (d : Nat) : (s.failNode n code d).work.ctxs = s.work.ctxs := rfl
@[simp] theorem State.failNode_lanes (s : State) (n : Nat) (code : BitVec 8) (d : Nat) : (s.failNode n code d).work.lanes = s.work.lanes := rfl
@[simp] theorem State.failNode_groups (s : State) (n : Nat) (code : BitVec 8) (d : Nat) : (s.failNode n code d).work.groups = s.work.groups := rfl
@[simp] theorem State.failNode_gangs (s : State) (n : Nat) (code : BitVec 8) (d : Nat) : (s.failNode n code d).work.gangs = s.work.gangs := rfl
@[simp] theorem State.failNode_placed (s : State) (n : Nat) (code : BitVec 8) (d : Nat) : (s.failNode n code d).work.placed = s.work.placed := rfl
@[simp] theorem State.failNode_limbQueue (s : State) (n : Nat) (code : BitVec 8) (d : Nat) : (s.failNode n code d).work.limbQueue = s.work.limbQueue := rfl
@[simp] theorem State.failNode_leafSaved (s : State) (n : Nat) (code : BitVec 8) (d : Nat) : (s.failNode n code d).work.leafSaved = s.work.leafSaved := rfl
@[simp] theorem State.failNode_trackers (s : State) (n : Nat) (code : BitVec 8) (d : Nat) : (s.failNode n code d).work.trackers = s.work.trackers := rfl
@[simp] theorem State.failNode_units (s : State) (n : Nat) (code : BitVec 8) (d : Nat) : (s.failNode n code d).work.units = s.work.units := rfl
@[simp] theorem State.failNode_saved (s : State) (n : Nat) (code : BitVec 8) (d : Nat) : (s.failNode n code d).work.saved = s.work.saved := rfl

@[simp] theorem State.raise_mem (s : State) (k : Nat) (f : Word) : (s.raise k f).mem = s.mem := rfl
@[simp] theorem State.raise_hub (s : State) (k : Nat) (f : Word) : (s.raise k f).hub = s.hub := rfl
@[simp] theorem State.raise_eng (s : State) (k : Nat) (f : Word) : (s.raise k f).eng = s.eng := rfl
@[simp] theorem State.raise_rel (s : State) (k : Nat) (f : Word) : (s.raise k f).rel = s.rel := rfl
@[simp] theorem State.raise_out (s : State) (k : Nat) (f : Word) : (s.raise k f).out = s.out := rfl
@[simp] theorem State.raise_aCyc (s : State) (k : Nat) (f : Word) : (s.raise k f).aCyc = s.aCyc := rfl
@[simp] theorem State.raise_fCyc (s : State) (k : Nat) (f : Word) : (s.raise k f).fCyc = s.fCyc := rfl
@[simp] theorem State.raise_agenda (s : State) (k : Nat) (f : Word) : (s.raise k f).agenda = s.agenda := rfl
@[simp] theorem State.raise_issuer (s : State) (k : Nat) (f : Word) : (s.raise k f).issuer = s.issuer := rfl
@[simp] theorem State.raise_serial (s : State) (k : Nat) (f : Word) : (s.raise k f).serial = s.serial := rfl
@[simp] theorem State.raise_nodes (s : State) (k : Nat) (f : Word) : (s.raise k f).work.nodes = s.work.nodes := rfl
@[simp] theorem State.raise_acceptNo (s : State) (k : Nat) (f : Word) : (s.raise k f).work.acceptNo = s.work.acceptNo := rfl
@[simp] theorem State.raise_done (s : State) (k : Nat) (f : Word) : (s.raise k f).work.done = s.work.done := rfl
@[simp] theorem State.raise_ringFault (s : State) (k : Nat) (f : Word) : (s.raise k f).work.ringFault = s.work.ringFault := rfl
@[simp] theorem State.raise_lanes (s : State) (k : Nat) (f : Word) : (s.raise k f).work.lanes = s.work.lanes := rfl
@[simp] theorem State.raise_groups (s : State) (k : Nat) (f : Word) : (s.raise k f).work.groups = s.work.groups := rfl
@[simp] theorem State.raise_gangs (s : State) (k : Nat) (f : Word) : (s.raise k f).work.gangs = s.work.gangs := rfl
@[simp] theorem State.raise_placed (s : State) (k : Nat) (f : Word) : (s.raise k f).work.placed = s.work.placed := rfl
@[simp] theorem State.raise_limbQueue (s : State) (k : Nat) (f : Word) : (s.raise k f).work.limbQueue = s.work.limbQueue := rfl
@[simp] theorem State.raise_leafSaved (s : State) (k : Nat) (f : Word) : (s.raise k f).work.leafSaved = s.work.leafSaved := rfl
@[simp] theorem State.raise_trackers (s : State) (k : Nat) (f : Word) : (s.raise k f).work.trackers = s.work.trackers := rfl
@[simp] theorem State.raise_units (s : State) (k : Nat) (f : Word) : (s.raise k f).work.units = s.work.units := rfl
@[simp] theorem State.raise_saved (s : State) (k : Nat) (f : Word) : (s.raise k f).work.saved = s.work.saved := rfl

@[simp] theorem State.count_mem (s : State) (k path sb : Nat) (up : Bool) : (s.count k path sb up).mem = s.mem := rfl
@[simp] theorem State.count_hub (s : State) (k path sb : Nat) (up : Bool) : (s.count k path sb up).hub = s.hub := rfl
@[simp] theorem State.count_eng (s : State) (k path sb : Nat) (up : Bool) : (s.count k path sb up).eng = s.eng := rfl
@[simp] theorem State.count_rel (s : State) (k path sb : Nat) (up : Bool) : (s.count k path sb up).rel = s.rel := rfl
@[simp] theorem State.count_out (s : State) (k path sb : Nat) (up : Bool) : (s.count k path sb up).out = s.out := rfl
@[simp] theorem State.count_aCyc (s : State) (k path sb : Nat) (up : Bool) : (s.count k path sb up).aCyc = s.aCyc := rfl
@[simp] theorem State.count_fCyc (s : State) (k path sb : Nat) (up : Bool) : (s.count k path sb up).fCyc = s.fCyc := rfl
@[simp] theorem State.count_agenda (s : State) (k path sb : Nat) (up : Bool) : (s.count k path sb up).agenda = s.agenda := rfl
@[simp] theorem State.count_issuer (s : State) (k path sb : Nat) (up : Bool) : (s.count k path sb up).issuer = s.issuer := rfl
@[simp] theorem State.count_serial (s : State) (k path sb : Nat) (up : Bool) : (s.count k path sb up).serial = s.serial := rfl
@[simp] theorem State.count_nodes (s : State) (k path sb : Nat) (up : Bool) : (s.count k path sb up).work.nodes = s.work.nodes := rfl
@[simp] theorem State.count_acceptNo (s : State) (k path sb : Nat) (up : Bool) : (s.count k path sb up).work.acceptNo = s.work.acceptNo := rfl
@[simp] theorem State.count_done (s : State) (k path sb : Nat) (up : Bool) : (s.count k path sb up).work.done = s.work.done := rfl
@[simp] theorem State.count_ringFault (s : State) (k path sb : Nat) (up : Bool) : (s.count k path sb up).work.ringFault = s.work.ringFault := rfl
@[simp] theorem State.count_lanes (s : State) (k path sb : Nat) (up : Bool) : (s.count k path sb up).work.lanes = s.work.lanes := rfl
@[simp] theorem State.count_groups (s : State) (k path sb : Nat) (up : Bool) : (s.count k path sb up).work.groups = s.work.groups := rfl
@[simp] theorem State.count_gangs (s : State) (k path sb : Nat) (up : Bool) : (s.count k path sb up).work.gangs = s.work.gangs := rfl
@[simp] theorem State.count_placed (s : State) (k path sb : Nat) (up : Bool) : (s.count k path sb up).work.placed = s.work.placed := rfl
@[simp] theorem State.count_limbQueue (s : State) (k path sb : Nat) (up : Bool) : (s.count k path sb up).work.limbQueue = s.work.limbQueue := rfl
@[simp] theorem State.count_leafSaved (s : State) (k path sb : Nat) (up : Bool) : (s.count k path sb up).work.leafSaved = s.work.leafSaved := rfl
@[simp] theorem State.count_trackers (s : State) (k path sb : Nat) (up : Bool) : (s.count k path sb up).work.trackers = s.work.trackers := rfl
@[simp] theorem State.count_units (s : State) (k path sb : Nat) (up : Bool) : (s.count k path sb up).work.units = s.work.units := rfl
@[simp] theorem State.count_saved (s : State) (k path sb : Nat) (up : Bool) : (s.count k path sb up).work.saved = s.work.saved := rfl

@[simp] theorem State.writeStoreWord_hub (s : State) (a : Nat) (x : Word) : (s.writeStoreWord a x).hub = s.hub := rfl
@[simp] theorem State.writeStoreWord_work (s : State) (a : Nat) (x : Word) : (s.writeStoreWord a x).work = s.work := rfl
@[simp] theorem State.writeStoreWord_eng (s : State) (a : Nat) (x : Word) : (s.writeStoreWord a x).eng = s.eng := rfl
@[simp] theorem State.writeStoreWord_rel (s : State) (a : Nat) (x : Word) : (s.writeStoreWord a x).rel = s.rel := rfl
@[simp] theorem State.writeStoreWord_out (s : State) (a : Nat) (x : Word) : (s.writeStoreWord a x).out = s.out := rfl
@[simp] theorem State.writeStoreWord_aCyc (s : State) (a : Nat) (x : Word) : (s.writeStoreWord a x).aCyc = s.aCyc := rfl
@[simp] theorem State.writeStoreWord_fCyc (s : State) (a : Nat) (x : Word) : (s.writeStoreWord a x).fCyc = s.fCyc := rfl
@[simp] theorem State.writeStoreWord_agenda (s : State) (a : Nat) (x : Word) : (s.writeStoreWord a x).agenda = s.agenda := rfl
@[simp] theorem State.writeStoreWord_issuer (s : State) (a : Nat) (x : Word) : (s.writeStoreWord a x).issuer = s.issuer := rfl
@[simp] theorem State.writeStoreWord_serial (s : State) (a : Nat) (x : Word) : (s.writeStoreWord a x).serial = s.serial := rfl
@[simp] theorem State.writeStoreWord_phys (s : State) (a : Nat) (x : Word) : (s.writeStoreWord a x).mem.phys = s.mem.phys := rfl
@[simp] theorem State.writeStoreWord_host (s : State) (a : Nat) (x : Word) : (s.writeStoreWord a x).mem.host = s.mem.host := rfl
@[simp] theorem State.writeStoreWord_peer (s : State) (a : Nat) (x : Word) : (s.writeStoreWord a x).mem.peer = s.mem.peer := rfl
@[simp] theorem State.writeStoreWord_sectorMeta (s : State) (a : Nat) (x : Word) : (s.writeStoreWord a x).mem.sectorMeta = s.mem.sectorMeta := rfl
@[simp] theorem State.writeStoreWord_poison (s : State) (a : Nat) (x : Word) : (s.writeStoreWord a x).mem.poison = s.mem.poison := rfl
@[simp] theorem State.writeStoreWord_merge (s : State) (a : Nat) (x : Word) : (s.writeStoreWord a x).mem.merge = s.mem.merge := rfl
@[simp] theorem State.writeStoreWord_cache (s : State) (a : Nat) (x : Word) : (s.writeStoreWord a x).mem.cache = s.mem.cache := rfl
@[simp] theorem State.writeStoreWord_directory (s : State) (a : Nat) (x : Word) : (s.writeStoreWord a x).mem.directory = s.mem.directory := rfl
@[simp] theorem State.writeStoreWord_spans (s : State) (a : Nat) (x : Word) : (s.writeStoreWord a x).mem.spans = s.mem.spans := rfl
@[simp] theorem State.writeStoreWord_tlb (s : State) (a : Nat) (x : Word) : (s.writeStoreWord a x).mem.tlb = s.mem.tlb := rfl
@[simp] theorem State.writeStoreWord_resident (s : State) (a : Nat) (x : Word) : (s.writeStoreWord a x).mem.resident = s.mem.resident := rfl
@[simp] theorem State.writeStoreWord_hot (s : State) (a : Nat) (x : Word) : (s.writeStoreWord a x).mem.hot = s.mem.hot := rfl

@[simp] theorem State.pokeStore_hub (s : State) (a n x : Nat) : (s.pokeStore a n x).hub = s.hub := rfl
@[simp] theorem State.pokeStore_work (s : State) (a n x : Nat) : (s.pokeStore a n x).work = s.work := rfl
@[simp] theorem State.pokeStore_eng (s : State) (a n x : Nat) : (s.pokeStore a n x).eng = s.eng := rfl
@[simp] theorem State.pokeStore_rel (s : State) (a n x : Nat) : (s.pokeStore a n x).rel = s.rel := rfl
@[simp] theorem State.pokeStore_out (s : State) (a n x : Nat) : (s.pokeStore a n x).out = s.out := rfl
@[simp] theorem State.pokeStore_aCyc (s : State) (a n x : Nat) : (s.pokeStore a n x).aCyc = s.aCyc := rfl
@[simp] theorem State.pokeStore_fCyc (s : State) (a n x : Nat) : (s.pokeStore a n x).fCyc = s.fCyc := rfl
@[simp] theorem State.pokeStore_agenda (s : State) (a n x : Nat) : (s.pokeStore a n x).agenda = s.agenda := rfl
@[simp] theorem State.pokeStore_issuer (s : State) (a n x : Nat) : (s.pokeStore a n x).issuer = s.issuer := rfl
@[simp] theorem State.pokeStore_serial (s : State) (a n x : Nat) : (s.pokeStore a n x).serial = s.serial := rfl
@[simp] theorem State.pokeStore_phys (s : State) (a n x : Nat) : (s.pokeStore a n x).mem.phys = s.mem.phys := rfl
@[simp] theorem State.pokeStore_host (s : State) (a n x : Nat) : (s.pokeStore a n x).mem.host = s.mem.host := rfl
@[simp] theorem State.pokeStore_peer (s : State) (a n x : Nat) : (s.pokeStore a n x).mem.peer = s.mem.peer := rfl
@[simp] theorem State.pokeStore_sectorMeta (s : State) (a n x : Nat) : (s.pokeStore a n x).mem.sectorMeta = s.mem.sectorMeta := rfl
@[simp] theorem State.pokeStore_poison (s : State) (a n x : Nat) : (s.pokeStore a n x).mem.poison = s.mem.poison := rfl
@[simp] theorem State.pokeStore_storePoison (s : State) (a n x : Nat) : (s.pokeStore a n x).mem.storePoison = s.mem.storePoison := rfl
@[simp] theorem State.pokeStore_merge (s : State) (a n x : Nat) : (s.pokeStore a n x).mem.merge = s.mem.merge := rfl
@[simp] theorem State.pokeStore_cache (s : State) (a n x : Nat) : (s.pokeStore a n x).mem.cache = s.mem.cache := rfl
@[simp] theorem State.pokeStore_directory (s : State) (a n x : Nat) : (s.pokeStore a n x).mem.directory = s.mem.directory := rfl
@[simp] theorem State.pokeStore_spans (s : State) (a n x : Nat) : (s.pokeStore a n x).mem.spans = s.mem.spans := rfl
@[simp] theorem State.pokeStore_tlb (s : State) (a n x : Nat) : (s.pokeStore a n x).mem.tlb = s.mem.tlb := rfl
@[simp] theorem State.pokeStore_resident (s : State) (a n x : Nat) : (s.pokeStore a n x).mem.resident = s.mem.resident := rfl
@[simp] theorem State.pokeStore_hot (s : State) (a n x : Nat) : (s.pokeStore a n x).mem.hot = s.mem.hot := rfl

@[simp] theorem State.setFdt_hub (s : State) (f : Nat) (e : Dbl) : (s.setFdt f e).hub = s.hub := rfl
@[simp] theorem State.setFdt_work (s : State) (f : Nat) (e : Dbl) : (s.setFdt f e).work = s.work := rfl
@[simp] theorem State.setFdt_eng (s : State) (f : Nat) (e : Dbl) : (s.setFdt f e).eng = s.eng := rfl
@[simp] theorem State.setFdt_rel (s : State) (f : Nat) (e : Dbl) : (s.setFdt f e).rel = s.rel := rfl
@[simp] theorem State.setFdt_out (s : State) (f : Nat) (e : Dbl) : (s.setFdt f e).out = s.out := rfl
@[simp] theorem State.setFdt_aCyc (s : State) (f : Nat) (e : Dbl) : (s.setFdt f e).aCyc = s.aCyc := rfl
@[simp] theorem State.setFdt_fCyc (s : State) (f : Nat) (e : Dbl) : (s.setFdt f e).fCyc = s.fCyc := rfl
@[simp] theorem State.setFdt_agenda (s : State) (f : Nat) (e : Dbl) : (s.setFdt f e).agenda = s.agenda := rfl
@[simp] theorem State.setFdt_issuer (s : State) (f : Nat) (e : Dbl) : (s.setFdt f e).issuer = s.issuer := rfl
@[simp] theorem State.setFdt_serial (s : State) (f : Nat) (e : Dbl) : (s.setFdt f e).serial = s.serial := rfl
@[simp] theorem State.setFdt_store (s : State) (f : Nat) (e : Dbl) : (s.setFdt f e).mem.store = s.mem.store := rfl
@[simp] theorem State.setFdt_host (s : State) (f : Nat) (e : Dbl) : (s.setFdt f e).mem.host = s.mem.host := rfl
@[simp] theorem State.setFdt_peer (s : State) (f : Nat) (e : Dbl) : (s.setFdt f e).mem.peer = s.mem.peer := rfl
@[simp] theorem State.setFdt_sectorMeta (s : State) (f : Nat) (e : Dbl) : (s.setFdt f e).mem.sectorMeta = s.mem.sectorMeta := rfl
@[simp] theorem State.setFdt_poison (s : State) (f : Nat) (e : Dbl) : (s.setFdt f e).mem.poison = s.mem.poison := rfl
@[simp] theorem State.setFdt_storePoison (s : State) (f : Nat) (e : Dbl) : (s.setFdt f e).mem.storePoison = s.mem.storePoison := rfl
@[simp] theorem State.setFdt_merge (s : State) (f : Nat) (e : Dbl) : (s.setFdt f e).mem.merge = s.mem.merge := rfl
@[simp] theorem State.setFdt_cache (s : State) (f : Nat) (e : Dbl) : (s.setFdt f e).mem.cache = s.mem.cache := rfl
@[simp] theorem State.setFdt_directory (s : State) (f : Nat) (e : Dbl) : (s.setFdt f e).mem.directory = s.mem.directory := rfl
@[simp] theorem State.setFdt_spans (s : State) (f : Nat) (e : Dbl) : (s.setFdt f e).mem.spans = s.mem.spans := rfl
@[simp] theorem State.setFdt_tlb (s : State) (f : Nat) (e : Dbl) : (s.setFdt f e).mem.tlb = s.mem.tlb := rfl
@[simp] theorem State.setFdt_resident (s : State) (f : Nat) (e : Dbl) : (s.setFdt f e).mem.resident = s.mem.resident := rfl
@[simp] theorem State.setFdt_hot (s : State) (f : Nat) (e : Dbl) : (s.setFdt f e).mem.hot = s.mem.hot := rfl

@[simp] theorem State.pokePeer_hub (s : State) (key : Nat) (b : Byte) : (s.pokePeer key b).hub = s.hub := rfl
@[simp] theorem State.pokePeer_work (s : State) (key : Nat) (b : Byte) : (s.pokePeer key b).work = s.work := rfl
@[simp] theorem State.pokePeer_eng (s : State) (key : Nat) (b : Byte) : (s.pokePeer key b).eng = s.eng := rfl
@[simp] theorem State.pokePeer_rel (s : State) (key : Nat) (b : Byte) : (s.pokePeer key b).rel = s.rel := rfl
@[simp] theorem State.pokePeer_out (s : State) (key : Nat) (b : Byte) : (s.pokePeer key b).out = s.out := rfl
@[simp] theorem State.pokePeer_aCyc (s : State) (key : Nat) (b : Byte) : (s.pokePeer key b).aCyc = s.aCyc := rfl
@[simp] theorem State.pokePeer_fCyc (s : State) (key : Nat) (b : Byte) : (s.pokePeer key b).fCyc = s.fCyc := rfl
@[simp] theorem State.pokePeer_agenda (s : State) (key : Nat) (b : Byte) : (s.pokePeer key b).agenda = s.agenda := rfl
@[simp] theorem State.pokePeer_issuer (s : State) (key : Nat) (b : Byte) : (s.pokePeer key b).issuer = s.issuer := rfl
@[simp] theorem State.pokePeer_serial (s : State) (key : Nat) (b : Byte) : (s.pokePeer key b).serial = s.serial := rfl
@[simp] theorem State.pokePeer_phys (s : State) (key : Nat) (b : Byte) : (s.pokePeer key b).mem.phys = s.mem.phys := rfl
@[simp] theorem State.pokePeer_store (s : State) (key : Nat) (b : Byte) : (s.pokePeer key b).mem.store = s.mem.store := rfl
@[simp] theorem State.pokePeer_host (s : State) (key : Nat) (b : Byte) : (s.pokePeer key b).mem.host = s.mem.host := rfl
@[simp] theorem State.pokePeer_sectorMeta (s : State) (key : Nat) (b : Byte) : (s.pokePeer key b).mem.sectorMeta = s.mem.sectorMeta := rfl
@[simp] theorem State.pokePeer_poison (s : State) (key : Nat) (b : Byte) : (s.pokePeer key b).mem.poison = s.mem.poison := rfl
@[simp] theorem State.pokePeer_storePoison (s : State) (key : Nat) (b : Byte) : (s.pokePeer key b).mem.storePoison = s.mem.storePoison := rfl
@[simp] theorem State.pokePeer_merge (s : State) (key : Nat) (b : Byte) : (s.pokePeer key b).mem.merge = s.mem.merge := rfl
@[simp] theorem State.pokePeer_cache (s : State) (key : Nat) (b : Byte) : (s.pokePeer key b).mem.cache = s.mem.cache := rfl
@[simp] theorem State.pokePeer_directory (s : State) (key : Nat) (b : Byte) : (s.pokePeer key b).mem.directory = s.mem.directory := rfl
@[simp] theorem State.pokePeer_spans (s : State) (key : Nat) (b : Byte) : (s.pokePeer key b).mem.spans = s.mem.spans := rfl
@[simp] theorem State.pokePeer_tlb (s : State) (key : Nat) (b : Byte) : (s.pokePeer key b).mem.tlb = s.mem.tlb := rfl
@[simp] theorem State.pokePeer_resident (s : State) (key : Nat) (b : Byte) : (s.pokePeer key b).mem.resident = s.mem.resident := rfl
@[simp] theorem State.pokePeer_hot (s : State) (key : Nat) (b : Byte) : (s.pokePeer key b).mem.hot = s.mem.hot := rfl

@[simp] theorem State.setBank_mem (s : State) (cluster bank : Nat) (w : Word) : (s.setBank cluster bank w).mem = s.mem := rfl
@[simp] theorem State.setBank_hub (s : State) (cluster bank : Nat) (w : Word) : (s.setBank cluster bank w).hub = s.hub := rfl
@[simp] theorem State.setBank_work (s : State) (cluster bank : Nat) (w : Word) : (s.setBank cluster bank w).work = s.work := rfl
@[simp] theorem State.setBank_rel (s : State) (cluster bank : Nat) (w : Word) : (s.setBank cluster bank w).rel = s.rel := rfl
@[simp] theorem State.setBank_out (s : State) (cluster bank : Nat) (w : Word) : (s.setBank cluster bank w).out = s.out := rfl
@[simp] theorem State.setBank_aCyc (s : State) (cluster bank : Nat) (w : Word) : (s.setBank cluster bank w).aCyc = s.aCyc := rfl
@[simp] theorem State.setBank_fCyc (s : State) (cluster bank : Nat) (w : Word) : (s.setBank cluster bank w).fCyc = s.fCyc := rfl
@[simp] theorem State.setBank_agenda (s : State) (cluster bank : Nat) (w : Word) : (s.setBank cluster bank w).agenda = s.agenda := rfl
@[simp] theorem State.setBank_issuer (s : State) (cluster bank : Nat) (w : Word) : (s.setBank cluster bank w).issuer = s.issuer := rfl
@[simp] theorem State.setBank_serial (s : State) (cluster bank : Nat) (w : Word) : (s.setBank cluster bank w).serial = s.serial := rfl
@[simp] theorem State.setBank_fill (s : State) (cluster bank : Nat) (w : Word) : (s.setBank cluster bank w).eng.fill = s.eng.fill := rfl
@[simp] theorem State.setBank_fifo (s : State) (cluster bank : Nat) (w : Word) : (s.setBank cluster bank w).eng.fifo = s.eng.fifo := rfl
@[simp] theorem State.setBank_flips (s : State) (cluster bank : Nat) (w : Word) : (s.setBank cluster bank w).eng.flips = s.eng.flips := rfl
@[simp] theorem State.setBank_chans (s : State) (cluster bank : Nat) (w : Word) : (s.setBank cluster bank w).eng.chans = s.eng.chans := rfl
@[simp] theorem State.setBank_gathers (s : State) (cluster bank : Nat) (w : Word) : (s.setBank cluster bank w).eng.gathers = s.eng.gathers := rfl
@[simp] theorem State.setBank_matrices (s : State) (cluster bank : Nat) (w : Word) : (s.setBank cluster bank w).eng.matrices = s.eng.matrices := rfl
@[simp] theorem State.setBank_colls (s : State) (cluster bank : Nat) (w : Word) : (s.setBank cluster bank w).eng.colls = s.eng.colls := rfl
@[simp] theorem State.setBank_views (s : State) (cluster bank : Nat) (w : Word) : (s.setBank cluster bank w).eng.views = s.eng.views := rfl
@[simp] theorem State.setBank_farDesc (s : State) (cluster bank : Nat) (w : Word) : (s.setBank cluster bank w).eng.farDesc = s.eng.farDesc := rfl
@[simp] theorem State.setBank_faults (s : State) (cluster bank : Nat) (w : Word) : (s.setBank cluster bank w).eng.faults = s.eng.faults := rfl
@[simp] theorem State.setBank_scans (s : State) (cluster bank : Nat) (w : Word) : (s.setBank cluster bank w).eng.scans = s.eng.scans := rfl

@[simp] theorem State.setMatrix_mem (s : State) (cluster : Nat) (f : Matrix → Matrix) : (s.setMatrix cluster f).mem = s.mem := rfl
@[simp] theorem State.setMatrix_hub (s : State) (cluster : Nat) (f : Matrix → Matrix) : (s.setMatrix cluster f).hub = s.hub := rfl
@[simp] theorem State.setMatrix_work (s : State) (cluster : Nat) (f : Matrix → Matrix) : (s.setMatrix cluster f).work = s.work := rfl
@[simp] theorem State.setMatrix_rel (s : State) (cluster : Nat) (f : Matrix → Matrix) : (s.setMatrix cluster f).rel = s.rel := rfl
@[simp] theorem State.setMatrix_out (s : State) (cluster : Nat) (f : Matrix → Matrix) : (s.setMatrix cluster f).out = s.out := rfl
@[simp] theorem State.setMatrix_aCyc (s : State) (cluster : Nat) (f : Matrix → Matrix) : (s.setMatrix cluster f).aCyc = s.aCyc := rfl
@[simp] theorem State.setMatrix_fCyc (s : State) (cluster : Nat) (f : Matrix → Matrix) : (s.setMatrix cluster f).fCyc = s.fCyc := rfl
@[simp] theorem State.setMatrix_agenda (s : State) (cluster : Nat) (f : Matrix → Matrix) : (s.setMatrix cluster f).agenda = s.agenda := rfl
@[simp] theorem State.setMatrix_issuer (s : State) (cluster : Nat) (f : Matrix → Matrix) : (s.setMatrix cluster f).issuer = s.issuer := rfl
@[simp] theorem State.setMatrix_serial (s : State) (cluster : Nat) (f : Matrix → Matrix) : (s.setMatrix cluster f).serial = s.serial := rfl
@[simp] theorem State.setMatrix_bank (s : State) (cluster : Nat) (f : Matrix → Matrix) : (s.setMatrix cluster f).eng.bank = s.eng.bank := rfl
@[simp] theorem State.setMatrix_fill (s : State) (cluster : Nat) (f : Matrix → Matrix) : (s.setMatrix cluster f).eng.fill = s.eng.fill := rfl
@[simp] theorem State.setMatrix_fifo (s : State) (cluster : Nat) (f : Matrix → Matrix) : (s.setMatrix cluster f).eng.fifo = s.eng.fifo := rfl
@[simp] theorem State.setMatrix_flips (s : State) (cluster : Nat) (f : Matrix → Matrix) : (s.setMatrix cluster f).eng.flips = s.eng.flips := rfl
@[simp] theorem State.setMatrix_chans (s : State) (cluster : Nat) (f : Matrix → Matrix) : (s.setMatrix cluster f).eng.chans = s.eng.chans := rfl
@[simp] theorem State.setMatrix_gathers (s : State) (cluster : Nat) (f : Matrix → Matrix) : (s.setMatrix cluster f).eng.gathers = s.eng.gathers := rfl
@[simp] theorem State.setMatrix_colls (s : State) (cluster : Nat) (f : Matrix → Matrix) : (s.setMatrix cluster f).eng.colls = s.eng.colls := rfl
@[simp] theorem State.setMatrix_views (s : State) (cluster : Nat) (f : Matrix → Matrix) : (s.setMatrix cluster f).eng.views = s.eng.views := rfl
@[simp] theorem State.setMatrix_farDesc (s : State) (cluster : Nat) (f : Matrix → Matrix) : (s.setMatrix cluster f).eng.farDesc = s.eng.farDesc := rfl
@[simp] theorem State.setMatrix_faults (s : State) (cluster : Nat) (f : Matrix → Matrix) : (s.setMatrix cluster f).eng.faults = s.eng.faults := rfl
@[simp] theorem State.setMatrix_scans (s : State) (cluster : Nat) (f : Matrix → Matrix) : (s.setMatrix cluster f).eng.scans = s.eng.scans := rfl

@[simp] theorem State.setChan_mem (s : State) (cluster ch : Nat) (f : Chan → Chan) : (s.setChan cluster ch f).mem = s.mem := rfl
@[simp] theorem State.setChan_hub (s : State) (cluster ch : Nat) (f : Chan → Chan) : (s.setChan cluster ch f).hub = s.hub := rfl
@[simp] theorem State.setChan_work (s : State) (cluster ch : Nat) (f : Chan → Chan) : (s.setChan cluster ch f).work = s.work := rfl
@[simp] theorem State.setChan_rel (s : State) (cluster ch : Nat) (f : Chan → Chan) : (s.setChan cluster ch f).rel = s.rel := rfl
@[simp] theorem State.setChan_out (s : State) (cluster ch : Nat) (f : Chan → Chan) : (s.setChan cluster ch f).out = s.out := rfl
@[simp] theorem State.setChan_aCyc (s : State) (cluster ch : Nat) (f : Chan → Chan) : (s.setChan cluster ch f).aCyc = s.aCyc := rfl
@[simp] theorem State.setChan_fCyc (s : State) (cluster ch : Nat) (f : Chan → Chan) : (s.setChan cluster ch f).fCyc = s.fCyc := rfl
@[simp] theorem State.setChan_agenda (s : State) (cluster ch : Nat) (f : Chan → Chan) : (s.setChan cluster ch f).agenda = s.agenda := rfl
@[simp] theorem State.setChan_issuer (s : State) (cluster ch : Nat) (f : Chan → Chan) : (s.setChan cluster ch f).issuer = s.issuer := rfl
@[simp] theorem State.setChan_serial (s : State) (cluster ch : Nat) (f : Chan → Chan) : (s.setChan cluster ch f).serial = s.serial := rfl
@[simp] theorem State.setChan_bank (s : State) (cluster ch : Nat) (f : Chan → Chan) : (s.setChan cluster ch f).eng.bank = s.eng.bank := rfl
@[simp] theorem State.setChan_fill (s : State) (cluster ch : Nat) (f : Chan → Chan) : (s.setChan cluster ch f).eng.fill = s.eng.fill := rfl
@[simp] theorem State.setChan_fifo (s : State) (cluster ch : Nat) (f : Chan → Chan) : (s.setChan cluster ch f).eng.fifo = s.eng.fifo := rfl
@[simp] theorem State.setChan_flips (s : State) (cluster ch : Nat) (f : Chan → Chan) : (s.setChan cluster ch f).eng.flips = s.eng.flips := rfl
@[simp] theorem State.setChan_gathers (s : State) (cluster ch : Nat) (f : Chan → Chan) : (s.setChan cluster ch f).eng.gathers = s.eng.gathers := rfl
@[simp] theorem State.setChan_matrices (s : State) (cluster ch : Nat) (f : Chan → Chan) : (s.setChan cluster ch f).eng.matrices = s.eng.matrices := rfl
@[simp] theorem State.setChan_colls (s : State) (cluster ch : Nat) (f : Chan → Chan) : (s.setChan cluster ch f).eng.colls = s.eng.colls := rfl
@[simp] theorem State.setChan_views (s : State) (cluster ch : Nat) (f : Chan → Chan) : (s.setChan cluster ch f).eng.views = s.eng.views := rfl
@[simp] theorem State.setChan_farDesc (s : State) (cluster ch : Nat) (f : Chan → Chan) : (s.setChan cluster ch f).eng.farDesc = s.eng.farDesc := rfl
@[simp] theorem State.setChan_faults (s : State) (cluster ch : Nat) (f : Chan → Chan) : (s.setChan cluster ch f).eng.faults = s.eng.faults := rfl
@[simp] theorem State.setChan_scans (s : State) (cluster ch : Nat) (f : Chan → Chan) : (s.setChan cluster ch f).eng.scans = s.eng.scans := rfl

@[simp] theorem State.setGathers_mem (s : State) (cluster : Nat) (l : List GatherOp) : (s.setGathers cluster l).mem = s.mem := rfl
@[simp] theorem State.setGathers_hub (s : State) (cluster : Nat) (l : List GatherOp) : (s.setGathers cluster l).hub = s.hub := rfl
@[simp] theorem State.setGathers_work (s : State) (cluster : Nat) (l : List GatherOp) : (s.setGathers cluster l).work = s.work := rfl
@[simp] theorem State.setGathers_rel (s : State) (cluster : Nat) (l : List GatherOp) : (s.setGathers cluster l).rel = s.rel := rfl
@[simp] theorem State.setGathers_out (s : State) (cluster : Nat) (l : List GatherOp) : (s.setGathers cluster l).out = s.out := rfl
@[simp] theorem State.setGathers_aCyc (s : State) (cluster : Nat) (l : List GatherOp) : (s.setGathers cluster l).aCyc = s.aCyc := rfl
@[simp] theorem State.setGathers_fCyc (s : State) (cluster : Nat) (l : List GatherOp) : (s.setGathers cluster l).fCyc = s.fCyc := rfl
@[simp] theorem State.setGathers_agenda (s : State) (cluster : Nat) (l : List GatherOp) : (s.setGathers cluster l).agenda = s.agenda := rfl
@[simp] theorem State.setGathers_issuer (s : State) (cluster : Nat) (l : List GatherOp) : (s.setGathers cluster l).issuer = s.issuer := rfl
@[simp] theorem State.setGathers_serial (s : State) (cluster : Nat) (l : List GatherOp) : (s.setGathers cluster l).serial = s.serial := rfl
@[simp] theorem State.setGathers_bank (s : State) (cluster : Nat) (l : List GatherOp) : (s.setGathers cluster l).eng.bank = s.eng.bank := rfl
@[simp] theorem State.setGathers_fill (s : State) (cluster : Nat) (l : List GatherOp) : (s.setGathers cluster l).eng.fill = s.eng.fill := rfl
@[simp] theorem State.setGathers_fifo (s : State) (cluster : Nat) (l : List GatherOp) : (s.setGathers cluster l).eng.fifo = s.eng.fifo := rfl
@[simp] theorem State.setGathers_flips (s : State) (cluster : Nat) (l : List GatherOp) : (s.setGathers cluster l).eng.flips = s.eng.flips := rfl
@[simp] theorem State.setGathers_chans (s : State) (cluster : Nat) (l : List GatherOp) : (s.setGathers cluster l).eng.chans = s.eng.chans := rfl
@[simp] theorem State.setGathers_matrices (s : State) (cluster : Nat) (l : List GatherOp) : (s.setGathers cluster l).eng.matrices = s.eng.matrices := rfl
@[simp] theorem State.setGathers_colls (s : State) (cluster : Nat) (l : List GatherOp) : (s.setGathers cluster l).eng.colls = s.eng.colls := rfl
@[simp] theorem State.setGathers_views (s : State) (cluster : Nat) (l : List GatherOp) : (s.setGathers cluster l).eng.views = s.eng.views := rfl
@[simp] theorem State.setGathers_farDesc (s : State) (cluster : Nat) (l : List GatherOp) : (s.setGathers cluster l).eng.farDesc = s.eng.farDesc := rfl
@[simp] theorem State.setGathers_faults (s : State) (cluster : Nat) (l : List GatherOp) : (s.setGathers cluster l).eng.faults = s.eng.faults := rfl
@[simp] theorem State.setGathers_scans (s : State) (cluster : Nat) (l : List GatherOp) : (s.setGathers cluster l).eng.scans = s.eng.scans := rfl

@[simp] theorem State.setColls_mem (s : State) (hub : Nat) (l : List CollOp) : (s.setColls hub l).mem = s.mem := rfl
@[simp] theorem State.setColls_hub (s : State) (hub : Nat) (l : List CollOp) : (s.setColls hub l).hub = s.hub := rfl
@[simp] theorem State.setColls_work (s : State) (hub : Nat) (l : List CollOp) : (s.setColls hub l).work = s.work := rfl
@[simp] theorem State.setColls_rel (s : State) (hub : Nat) (l : List CollOp) : (s.setColls hub l).rel = s.rel := rfl
@[simp] theorem State.setColls_out (s : State) (hub : Nat) (l : List CollOp) : (s.setColls hub l).out = s.out := rfl
@[simp] theorem State.setColls_aCyc (s : State) (hub : Nat) (l : List CollOp) : (s.setColls hub l).aCyc = s.aCyc := rfl
@[simp] theorem State.setColls_fCyc (s : State) (hub : Nat) (l : List CollOp) : (s.setColls hub l).fCyc = s.fCyc := rfl
@[simp] theorem State.setColls_agenda (s : State) (hub : Nat) (l : List CollOp) : (s.setColls hub l).agenda = s.agenda := rfl
@[simp] theorem State.setColls_issuer (s : State) (hub : Nat) (l : List CollOp) : (s.setColls hub l).issuer = s.issuer := rfl
@[simp] theorem State.setColls_serial (s : State) (hub : Nat) (l : List CollOp) : (s.setColls hub l).serial = s.serial := rfl
@[simp] theorem State.setColls_bank (s : State) (hub : Nat) (l : List CollOp) : (s.setColls hub l).eng.bank = s.eng.bank := rfl
@[simp] theorem State.setColls_fill (s : State) (hub : Nat) (l : List CollOp) : (s.setColls hub l).eng.fill = s.eng.fill := rfl
@[simp] theorem State.setColls_fifo (s : State) (hub : Nat) (l : List CollOp) : (s.setColls hub l).eng.fifo = s.eng.fifo := rfl
@[simp] theorem State.setColls_flips (s : State) (hub : Nat) (l : List CollOp) : (s.setColls hub l).eng.flips = s.eng.flips := rfl
@[simp] theorem State.setColls_chans (s : State) (hub : Nat) (l : List CollOp) : (s.setColls hub l).eng.chans = s.eng.chans := rfl
@[simp] theorem State.setColls_gathers (s : State) (hub : Nat) (l : List CollOp) : (s.setColls hub l).eng.gathers = s.eng.gathers := rfl
@[simp] theorem State.setColls_matrices (s : State) (hub : Nat) (l : List CollOp) : (s.setColls hub l).eng.matrices = s.eng.matrices := rfl
@[simp] theorem State.setColls_views (s : State) (hub : Nat) (l : List CollOp) : (s.setColls hub l).eng.views = s.eng.views := rfl
@[simp] theorem State.setColls_farDesc (s : State) (hub : Nat) (l : List CollOp) : (s.setColls hub l).eng.farDesc = s.eng.farDesc := rfl
@[simp] theorem State.setColls_faults (s : State) (hub : Nat) (l : List CollOp) : (s.setColls hub l).eng.faults = s.eng.faults := rfl
@[simp] theorem State.setColls_scans (s : State) (hub : Nat) (l : List CollOp) : (s.setColls hub l).eng.scans = s.eng.scans := rfl

@[simp] theorem State.setMailbox_mem (s : State) (fn : Nat) (m : Mailbox) : (s.setMailbox fn m).mem = s.mem := rfl
@[simp] theorem State.setMailbox_hub (s : State) (fn : Nat) (m : Mailbox) : (s.setMailbox fn m).hub = s.hub := rfl
@[simp] theorem State.setMailbox_work (s : State) (fn : Nat) (m : Mailbox) : (s.setMailbox fn m).work = s.work := rfl
@[simp] theorem State.setMailbox_eng (s : State) (fn : Nat) (m : Mailbox) : (s.setMailbox fn m).eng = s.eng := rfl
@[simp] theorem State.setMailbox_rel (s : State) (fn : Nat) (m : Mailbox) : (s.setMailbox fn m).rel = s.rel := rfl
@[simp] theorem State.setMailbox_aCyc (s : State) (fn : Nat) (m : Mailbox) : (s.setMailbox fn m).aCyc = s.aCyc := rfl
@[simp] theorem State.setMailbox_fCyc (s : State) (fn : Nat) (m : Mailbox) : (s.setMailbox fn m).fCyc = s.fCyc := rfl
@[simp] theorem State.setMailbox_agenda (s : State) (fn : Nat) (m : Mailbox) : (s.setMailbox fn m).agenda = s.agenda := rfl
@[simp] theorem State.setMailbox_issuer (s : State) (fn : Nat) (m : Mailbox) : (s.setMailbox fn m).issuer = s.issuer := rfl
@[simp] theorem State.setMailbox_serial (s : State) (fn : Nat) (m : Mailbox) : (s.setMailbox fn m).serial = s.serial := rfl

/-! Reading back -/

@[simp] theorem State.putCtx_ctx (s : State) (c : Ctx) : (s.putCtx c).ctx? c.key = some c := Table.look_put_self _ _ _
theorem State.putCtx_ctx_other (s : State) (c : Ctx) {k : Nat} (h : k ≠ c.key) : (s.putCtx c).ctx? k = s.ctx? k := Table.look_put_other _ _ h
@[simp] theorem State.dropCtx_ctx (s : State) (k : Nat) : (s.dropCtx k).ctx? k = none := Table.look_del_self _ _
@[simp] theorem State.changeCtx_ctx (s : State) (k : Nat) (f : Ctx → Ctx) : (s.changeCtx k f).ctx? k = (s.ctx? k).map f :=
  Table.look_change_self _ _ _
theorem State.changeCtx_ctx_other (s : State) (f : Ctx → Ctx) {k j : Nat} (h : j ≠ k) : (s.changeCtx k f).ctx? j = s.ctx? j :=
  Table.look_change_other _ _ h
@[simp] theorem State.setLane_lane (s : State) (k : Nat) (l : Lane) : (s.setLane k l).lane k = l := by simp [State.lane, State.setLane]
theorem State.setLane_lane_other (s : State) (l : Lane) {k j : Nat} (h : j ≠ k) : (s.setLane k l).lane j = s.lane j := by
  simp [State.lane, State.setLane, Table.look_put_other _ _ h]
@[simp] theorem State.changeLane_lane (s : State) (k : Nat) (f : Lane → Lane) : (s.changeLane k f).lane k = f (s.lane k) := State.setLane_lane ..
theorem State.changeLane_lane_other (s : State) (f : Lane → Lane) {k j : Nat} (h : j ≠ k) : (s.changeLane k f).lane j = s.lane j :=
  State.setLane_lane_other _ _ h
@[simp] theorem State.changeLane_ctx (s : State) (k j : Nat) (f : Lane → Lane) : (s.changeLane k f).ctx? j = s.ctx? j := rfl
@[simp] theorem State.setLane_ctx (s : State) (k j : Nat) (l : Lane) : (s.setLane k l).ctx? j = s.ctx? j := rfl
@[simp] theorem State.changeCtx_lane (s : State) (k j : Nat) (f : Ctx → Ctx) : (s.changeCtx k f).lane j = s.lane j := rfl
@[simp] theorem State.putCtx_lane (s : State) (c : Ctx) (j : Nat) : (s.putCtx c).lane j = s.lane j := rfl
@[simp] theorem State.changeNode_node (s : State) (n : Nat) (f : Node → Node) : (s.changeNode n f).node? n = (s.node? n).map f :=
  Table.look_change_self _ _ _
theorem State.changeNode_node_other (s : State) (f : Node → Node) {n m : Nat} (h : m ≠ n) : (s.changeNode n f).node? m = s.node? m :=
  Table.look_change_other _ _ h
@[simp] theorem State.setBank_bankWord (s : State) (c b : Nat) (w : Word) : (s.setBank c b w).bankWord c b = w := by
  simp [State.bankWord, State.setBank]
@[simp] theorem State.setMatrix_matrix (s : State) (c : Nat) (f : Matrix → Matrix) : (s.setMatrix c f).matrix c = f (s.matrix c) := by
  simp [State.matrix, State.setMatrix]
@[simp] theorem State.setChan_chan (s : State) (c ch : Nat) (f : Chan → Chan) : (s.setChan c ch f).chan c ch = f (s.chan c ch) := by
  simp [State.chan, State.setChan]
@[simp] theorem State.setGathers_gathers (s : State) (c : Nat) (l : List GatherOp) : (s.setGathers c l).gathers c = l := by
  cases l <;> simp [State.gathers, State.setGathers]
@[simp] theorem State.setColls_colls (s : State) (h : Nat) (l : List CollOp) : (s.setColls h l).colls h = l := by
  cases l <;> simp [State.colls, State.setColls]
@[simp] theorem State.setMailbox_mailbox (s : State) (fn : Nat) (m : Mailbox) : (s.setMailbox fn m).mailbox fn = m := by
  simp [State.mailbox, State.setMailbox]

end Sys2Proof.Machine
end

