-- ==== Sys2Proof/Laws/Translate.lean ====
section
/-! SUPPORT. What translating an access may change: accessed bits and failed bits in page tables, the translation caches, what home slices
and cluster caches hold; nothing else (R141, R143, R144, R160). -/

namespace Sys2Proof.Machine

/-- State `t` is `s` but for physical memory, whose form is kept, translation caches, cluster caches with their directory, and what the home
slices hold and count. -/
def State.Translated (s t : State) : Prop :=
  ∃ phys cache dir tlb res hot,
    t = { s with mem := { s.mem with phys := phys, cache := cache, directory := dir, tlb := tlb, resident := res, hot := hot } }
      ∧ (s.mem.phys.wf = true → phys.wf = true)

theorem State.Translated.refl (s : State) : s.Translated s := ⟨_, _, _, _, _, _, rfl, id⟩

theorem State.Translated.trans {s t r : State} (h : s.Translated t) (g : t.Translated r) : s.Translated r := by
  obtain ⟨_, _, _, _, _, _, rfl, c⟩ := h; obtain ⟨_, _, _, _, _, _, rfl, f⟩ := g; exact ⟨_, _, _, _, _, _, rfl, f ∘ c⟩

/-- What a translation leaves as it is. -/
theorem State.Translated.fields {s t : State} (h : s.Translated t) : t.work = s.work ∧ t.hub = s.hub ∧ t.eng = s.eng ∧ t.rel = s.rel ∧
    t.out = s.out ∧ t.aCyc = s.aCyc ∧ t.fCyc = s.fCyc ∧ t.agenda = s.agenda ∧ t.issuer = s.issuer ∧ t.serial = s.serial ∧
    t.mem.store = s.mem.store ∧ t.mem.host = s.mem.host ∧ t.mem.peer = s.mem.peer ∧ t.mem.merge = s.mem.merge ∧
    t.mem.storePoison = s.mem.storePoison ∧ t.mem.poison = s.mem.poison ∧ t.mem.sectorMeta = s.mem.sectorMeta := by
  obtain ⟨_, _, _, _, _, _, rfl, _⟩ := h
  exact ⟨rfl, rfl, rfl, rfl, rfl, rfl, rfl, rfl, rfl, rfl, rfl, rfl, rfl, rfl, rfl, rfl, rfl⟩

theorem State.Translated.ctx {s t : State} (h : s.Translated t) (k : Nat) : t.ctx? k = s.ctx? k := by
  obtain ⟨_, _, _, _, _, _, rfl, _⟩ := h; rfl

theorem State.Translated.lane {s t : State} (h : s.Translated t) (k : Nat) : t.lane k = s.lane k := by
  obtain ⟨_, _, _, _, _, _, rfl, _⟩ := h; rfl

theorem State.Translated.wf {s t : State} (h : s.Translated t) (w : s.mem.phys.wf = true) : t.mem.phys.wf = true := by
  obtain ⟨_, _, _, _, _, _, rfl, c⟩ := h; exact c w

/-- A fold of operations that only translate translates. -/
theorem State.foldl_translated {α : Type} {f : State → α → State} (hf : ∀ s x, State.Translated s (f s x)) :
    ∀ (l : List α) (s : State), s.Translated (l.foldl f s)
  | [], s => .refl s
  | x :: r, s => (hf s x).trans (State.foldl_translated hf r _)

theorem State.invalidate_translated (s : State) (q : Nat) (u o : Option Nat) : s.Translated (s.invalidate q u o) :=
  ⟨s.mem.phys, _, _, s.mem.tlb, s.mem.resident, s.mem.hot, rfl, id⟩

theorem State.touchHome_translated (s : State) (q : Nat) : s.Translated (s.touchHome q) :=
  ⟨s.mem.phys, s.mem.cache, s.mem.directory, s.mem.tlb, _, _, rfl, id⟩

/-- A write of the device at its home slices. -/
theorem State.deviceWrite_translated (s : State) (a n x : Nat) : s.Translated (s.deviceWrite a n x) :=
  State.Translated.trans (t := { s with mem := { s.mem with phys := s.mem.phys.pokeNum a n x } })
    ⟨_, s.mem.cache, s.mem.directory, s.mem.tlb, s.mem.resident, s.mem.hot, rfl, fun h => Memory.pokeNum_wf h⟩
    (State.foldl_translated (fun s q => (State.touchHome_translated s q).trans (State.invalidate_translated _ q none none)) _ _)

theorem State.orPte_translated (s : State) (at_ bits : Nat) : s.Translated (s.orPte at_ bits) := State.deviceWrite_translated ..

theorem State.touchWalk_translated (s : State) (tenant va : Nat) : s.Translated (s.touchWalk tenant va) := by
  simp only [State.touchWalk]
  split
  · exact State.foldl_translated (fun s a => State.touchHome_translated s (a / 32)) _ s
  · exact .refl s

theorem State.loadTlb_translated (s : State) (u : TlbUnit) (tenant va : Nat) (e : Pte) (at_ level : Nat) (b : Bool) :
    s.Translated (s.loadTlb u tenant va e at_ level b) :=
  ⟨s.mem.phys, s.mem.cache, s.mem.directory, _, s.mem.resident, s.mem.hot, rfl, id⟩

theorem State.failDesc_translated (s : State) (d : Nat) : s.Translated (s.failDesc d) := by
  refine State.foldl_translated (fun s i => ?_) _ s
  split
  · exact State.deviceWrite_translated ..
  · exact .refl s

theorem State.leafOf_translated (s : State) (q : Requester) (va : Nat) : s.Translated (s.leafOf q va).1 := by
  unfold State.leafOf
  split
  · exact .refl s
  · split
    · dsimp only
      split
      · exact (State.orPte_translated s _ _).trans ⟨_, _, _, _, _, _, rfl, id⟩
      · exact .refl s
    · dsimp only
      split
      · exact (State.touchWalk_translated s _ _).trans ((State.orPte_translated _ _ _).trans (State.loadTlb_translated _ _ _ _ _ _ _ _))
      · exact State.touchWalk_translated s _ _

/-! A write of a chain's block is such a write -/

theorem State.setCcb_translated (s : State) (chain off x : Nat) : s.Translated (s.setCcb chain off x) := State.deviceWrite_translated ..

@[simp] theorem State.setCcb_hub (s : State) (chain off x : Nat) : (s.setCcb chain off x).hub = s.hub :=
  (State.setCcb_translated s chain off x).fields.2.1
@[simp] theorem State.setCcb_work (s : State) (chain off x : Nat) : (s.setCcb chain off x).work = s.work :=
  (State.setCcb_translated s chain off x).fields.1
@[simp] theorem State.setCcb_eng (s : State) (chain off x : Nat) : (s.setCcb chain off x).eng = s.eng :=
  (State.setCcb_translated s chain off x).fields.2.2.1
@[simp] theorem State.setCcb_rel (s : State) (chain off x : Nat) : (s.setCcb chain off x).rel = s.rel :=
  (State.setCcb_translated s chain off x).fields.2.2.2.1
@[simp] theorem State.setCcb_out (s : State) (chain off x : Nat) : (s.setCcb chain off x).out = s.out :=
  (State.setCcb_translated s chain off x).fields.2.2.2.2.1
@[simp] theorem State.setCcb_aCyc (s : State) (chain off x : Nat) : (s.setCcb chain off x).aCyc = s.aCyc :=
  (State.setCcb_translated s chain off x).fields.2.2.2.2.2.1
@[simp] theorem State.setCcb_fCyc (s : State) (chain off x : Nat) : (s.setCcb chain off x).fCyc = s.fCyc :=
  (State.setCcb_translated s chain off x).fields.2.2.2.2.2.2.1
@[simp] theorem State.setCcb_agenda (s : State) (chain off x : Nat) : (s.setCcb chain off x).agenda = s.agenda :=
  (State.setCcb_translated s chain off x).fields.2.2.2.2.2.2.2.1
@[simp] theorem State.setCcb_issuer (s : State) (chain off x : Nat) : (s.setCcb chain off x).issuer = s.issuer :=
  (State.setCcb_translated s chain off x).fields.2.2.2.2.2.2.2.2.1
@[simp] theorem State.setCcb_serial (s : State) (chain off x : Nat) : (s.setCcb chain off x).serial = s.serial :=
  (State.setCcb_translated s chain off x).fields.2.2.2.2.2.2.2.2.2.1
@[simp] theorem State.setCcb_store (s : State) (chain off x : Nat) : (s.setCcb chain off x).mem.store = s.mem.store :=
  (State.setCcb_translated s chain off x).fields.2.2.2.2.2.2.2.2.2.2.1
@[simp] theorem State.setCcb_host (s : State) (chain off x : Nat) : (s.setCcb chain off x).mem.host = s.mem.host :=
  (State.setCcb_translated s chain off x).fields.2.2.2.2.2.2.2.2.2.2.2.1
@[simp] theorem State.setCcb_peer (s : State) (chain off x : Nat) : (s.setCcb chain off x).mem.peer = s.mem.peer :=
  (State.setCcb_translated s chain off x).fields.2.2.2.2.2.2.2.2.2.2.2.2.1
@[simp] theorem State.setCcb_merge (s : State) (chain off x : Nat) : (s.setCcb chain off x).mem.merge = s.mem.merge :=
  (State.setCcb_translated s chain off x).fields.2.2.2.2.2.2.2.2.2.2.2.2.2.1
@[simp] theorem State.setCcb_storePoison (s : State) (chain off x : Nat) : (s.setCcb chain off x).mem.storePoison = s.mem.storePoison :=
  (State.setCcb_translated s chain off x).fields.2.2.2.2.2.2.2.2.2.2.2.2.2.2.1
@[simp] theorem State.setCcb_poison (s : State) (chain off x : Nat) : (s.setCcb chain off x).mem.poison = s.mem.poison :=
  (State.setCcb_translated s chain off x).fields.2.2.2.2.2.2.2.2.2.2.2.2.2.2.2.1
@[simp] theorem State.setCcb_sectorMeta (s : State) (chain off x : Nat) : (s.setCcb chain off x).mem.sectorMeta = s.mem.sectorMeta :=
  (State.setCcb_translated s chain off x).fields.2.2.2.2.2.2.2.2.2.2.2.2.2.2.2.2

theorem State.baseByte_translated (s : State) (q : Requester) (k : Access) (va : Nat) : s.Translated (s.baseByte q k va).1 := by
  have h := State.leafOf_translated s q va
  unfold State.baseByte
  generalize s.leafOf q va = x at *
  obtain ⟨s', w⟩ := x
  dsimp only at h
  cases w with
  | leaf e at_ level =>
    have g : s.Translated (if pteTier e == 3 && pteRepl e && q.unit.isSome then s'.failDesc (pteFrame e * 65536) else s') := by
      split
      · exact h.trans (State.failDesc_translated _ _)
      · exact h
    dsimp only
    generalize (if pteTier e == 3 && pteRepl e && q.unit.isSome then s'.failDesc (pteFrame e * 65536) else s') = t at *
    split <;> exact g
  | _ => exact h

theorem State.indexEntry_translated (s : State) (q : Requester) (v : ViewDesc) (e : Nat) : s.Translated (s.indexEntry q v e).1 := by
  have h := State.baseByte_translated s q .read (v.idxBase + e * v.idxSize)
  simp only [State.indexEntry]
  split
  · exact .refl s
  · split
    · exact .refl s
    · split <;> first | exact h | skip
      split
      · exact h.trans (State.touchHome_translated _ _)
      · exact h

theorem State.mapOffset_translated (s : State) (q : Requester) (v : ViewDesc) (o : Nat) : s.Translated (s.mapOffset q v o).1 := by
  have h := State.indexEntry_translated s q v (o / v.esize)
  simp only [State.mapOffset]
  split
  · exact .refl s
  · split
    · split <;> exact h
    · exact .refl s

theorem State.viewByte_translated (s : State) (q : Requester) (k : Access) (view : View) (o : Nat) :
    s.Translated (s.viewByte q k view o).1 := by
  have h := State.mapOffset_translated s (viewRequester q view) (viewOf view.words) o
  unfold State.viewByte
  generalize viewOf view.words = v at *
  dsimp only
  generalize s.mapOffset (viewRequester q view) v o = x at *
  obtain ⟨s1, r⟩ := x
  rcases r with c | (a | _ | key)
  · exact h
  · dsimp only
    split
    · exact h
    · have g := State.baseByte_translated s1 (viewRequester q view) k a.toNat
      generalize s1.baseByte (viewRequester q view) k a.toNat = y at *
      obtain ⟨s2, b⟩ := y
      cases b <;> exact h.trans g
  · exact h
  · exact h

theorem State.gatherBytes_translated {f : State → Nat → State × ByteResult} (hf : ∀ s i, State.Translated s (f s i).1) :
    ∀ (n : Nat) (s : State) (i : Nat) (t : Target) (bad : Option ByteFault), State.Translated s (s.gatherBytes f n i t bad).1
  | 0, s, _, _, _ => .refl s
  | n + 1, s, i, t, bad => by
    have h := hf s i
    simp only [State.gatherBytes]
    split
    · exact h.trans (State.gatherBytes_translated hf n _ _ _ _)
    · exact h.trans (State.gatherBytes_translated hf n _ _ _ _)

theorem State.globalTarget_translated (s : State) (q : Requester) (k : Access) (aligned : Bool) (a : Int) (n : Nat) :
    s.Translated (s.globalTarget q k aligned a n).1 := by
  simp only [State.globalTarget]
  split
  · exact .refl s
  · split
    · exact .refl s
    · split
      · exact .refl s
      · exact State.gatherBytes_translated (f := fun s i => (s, s.peerByte (a.toNat + i))) (fun s _ => .refl s) n s 0 Target.empty none
  · split
    · exact .refl s
    · split
      · exact .refl s
      · exact State.gatherBytes_translated (f := fun s i => s.baseByte q k (a.toNat + i)) (fun s i => State.baseByte_translated s q k _)
          n s 0 Target.empty none
  · split
    · exact .refl s
    · rename_i view _
      split
      · exact .refl s
      · split
        · exact .refl s
        · split
          · exact .refl s
          · have g := State.gatherBytes_translated (f := fun s i => s.viewByte q k view (a.toNat % 2 ^ 44 + i))
              (fun s i => State.viewByte_translated s q k view _) n s 0 { Target.empty with shadow := some a.toNat } none
            split <;> exact g

theorem State.fetchWord_translated (s : State) (q : Requester) (a : Nat) : s.Translated (s.fetchWord q a).1 := by
  have h := State.globalTarget_translated s q .fetch false (a : Int) 8
  simp only [State.fetchWord]
  split
  · exact h
  · split
    · exact h
    · split
      · exact h
      · split
        · exact h.trans (State.foldl_translated (fun s q => State.touchHome_translated s q) _ _)
        · exact h

theorem State.fetchWords_translated (q : Requester) : ∀ (n : Nat) (s : State) (a : Nat) (acc : List Dbl),
    s.Translated (s.fetchWords q n a acc).1
  | 0, s, _, _ => .refl s
  | n + 1, s, a, acc => by
    have h := State.fetchWord_translated s q a
    simp only [State.fetchWords]
    split
    · exact h.trans (State.fetchWords_translated q n _ _ _)
    · exact h
    · exact h

theorem State.fetchHeader_translated (s : State) (q : Requester) (k : Cls) (pc : Dbl) : s.Translated (s.fetchHeader q k pc).1 := by
  have h := State.fetchWord_translated s q (pc.toNat / 8 * 8)
  simp only [State.fetchHeader]
  split
  · exact h
  · exact h
  · split
    · exact h
    · split
      · split <;> exact h
      · exact h

theorem State.segTarget_translated (s : State) (c : Ctx) (seg : Nat) (k : Access) (aligned : Bool) (off : Int) (n : Nat) :
    s.Translated (s.segTarget c seg k aligned off n).1 := by
  unfold State.segTarget
  dsimp only
  split
  · exact .refl s
  · split
    · exact State.globalTarget_translated ..
    · split
      · exact .refl s
      · split
        · exact .refl s
        · split <;> exact .refl s
    · split
      · exact .refl s
      · split
        · exact .refl s
        · split <;> exact .refl s
    · split
      · exact .refl s
      · split
        · exact .refl s
        · split
          · exact .refl s
          · split <;> exact .refl s
    · split
      · exact .refl s
      · exact State.globalTarget_translated ..
    · exact .refl s

theorem State.targetsFrom_translated (c : Ctx) (seg n : Nat) (k : Access) (aligned : Bool) :
    ∀ (reqs : List Req) (s : State) (ts : List (Req × Target)) (bad : List (Nat × AFault)),
      s.Translated (s.targetsFrom c seg n k aligned reqs ts bad).1
  | [], s, _, _ => .refl s
  | r :: rs, s, ts, bad => by
    have h : s.Translated (match r.got with | some t => (s, Except.ok t) | none => s.segTarget c seg k aligned r.addr n).1 := by
      split
      · exact .refl s
      · exact State.segTarget_translated s c seg k aligned r.addr n
    simp only [State.targetsFrom]
    split
    · exact h.trans (State.targetsFrom_translated c seg n k aligned rs _ _ _)
    · exact h.trans (State.targetsFrom_translated c seg n k aligned rs _ _ _)

/-- A target that may be entered leaves the state but for what its fetch translated (R261). -/
theorem State.checkTarget_translated {s t : State} {u : Issuer} {m : Word} {pc : Dbl} (h : s.checkTarget u m pc = (t, none)) :
    s.Translated t := by
  have g := State.fetchHeader_translated s u.ctx.requester u.cls pc
  unfold State.checkTarget at h
  generalize s.fetchHeader u.ctx.requester u.cls pc = x at *
  obtain ⟨s1, r⟩ := x
  dsimp only at h g
  split at h
  · simp at h
  · simp at h; exact h ▸ g
  · simp at h
  · split at h <;> simp at h
  · split at h
    · simp at h
    · split at h <;> simp at h
  · split at h <;> simp at h

theorem State.checkTargets_translated {u : Issuer} {m : Word} : ∀ {l : List Dbl} {s t : State},
    s.checkTargets u m l = (t, none) → s.Translated t
  | [], s, t, h => by simp only [State.checkTargets, Prod.mk.injEq] at h; exact h.1 ▸ .refl s
  | pc :: r, s, t, h => by
    simp only [State.checkTargets] at h
    split at h
    · rename_i s1 hc; exact (State.checkTarget_translated hc).trans (State.checkTargets_translated h)
    · rename_i hn; cases hx : s.checkTarget u m pc with
      | mk a b => rw [hx] at h; simp at h; obtain ⟨rfl, rfl⟩ := h; exact absurd hx (hn _)

end Sys2Proof.Machine
end

