-- ==== Sys2Proof/Laws/Memories.lean ====
section
/-! SUPPORT. The operations over State that write a memory keep every memory in its canonical form; folds of such operations do too. -/

namespace Sys2Proof.Machine

open Sys2Proof.Safety

theorem memoriesOk_iff {s : State} : memoriesOk s = true ↔
    s.mem.phys.wf = true ∧ s.mem.store.wf = true ∧ s.mem.host.wf = true ∧ s.mem.peer.wf = true := by
  simp [memoriesOk, and_assoc]

/-- What leaves the four memories alone keeps their form. -/
theorem memoriesOk_of_eq {s t : State} (h : memoriesOk s = true) (hp : t.mem.phys = s.mem.phys) (hs : t.mem.store = s.mem.store)
    (hh : t.mem.host = s.mem.host) (he : t.mem.peer = s.mem.peer) : memoriesOk t = true := by
  simpa [memoriesOk, hp, hs, hh, he] using h

theorem memoriesOk_of_mem {s t : State} (h : memoriesOk s = true) (hm : t.mem = s.mem) : memoriesOk t = true := by
  simpa [memoriesOk, hm] using h

/-- A fold of operations that keep a property keeps it. -/
theorem State.foldl_keeps {α : Type} (P : State → Prop) (f : State → α → State) (l : List α) {s : State} (hf : ∀ s x, P s → P (f s x))
    (h : P s) : P (l.foldl f s) := by
  induction l generalizing s with
  | nil => exact h
  | cons x r ih => exact ih (hf s x h)

theorem State.writeStoreWord_ok {s : State} (a : Nat) (x : Word) (h : memoriesOk s = true) : memoriesOk (s.writeStoreWord a x) = true := by
  rw [memoriesOk_iff] at h ⊢
  unfold State.writeStoreWord
  dsimp only
  exact ⟨h.1, Memory.pokeNum_wf h.2.1, h.2.2⟩

theorem State.writeV_ok {s : State} (c : Ctx) (t n : Nat) (x : Word) (h : memoriesOk s = true) : memoriesOk (s.writeV c t n x) = true := by
  unfold State.writeV
  split
  · exact State.writeStoreWord_ok _ _ h
  · exact h

theorem State.pokeStore_ok {s : State} (a n x : Nat) (h : memoriesOk s = true) : memoriesOk (s.pokeStore a n x) = true := by
  rw [memoriesOk_iff] at h ⊢
  unfold State.pokeStore
  dsimp only
  exact ⟨h.1, Memory.pokeNum_wf h.2.1, h.2.2⟩

theorem State.zeroStore_ok {s : State} (c b n : Nat) (h : memoriesOk s = true) : memoriesOk (s.zeroStore c b n) = true := by
  rw [memoriesOk_iff] at h ⊢
  unfold State.zeroStore
  dsimp only
  exact ⟨h.1, Memory.clear_wf h.2.1, h.2.2⟩

/-- A translation keeps the form of every memory. -/
theorem State.Translated.ok {s t : State} (g : s.Translated t) (h : memoriesOk s = true) : memoriesOk t = true := by
  obtain ⟨_, _, _, _, _, _, rfl, c⟩ := g
  rw [memoriesOk_iff] at h ⊢
  exact ⟨c h.1, h.2⟩

theorem State.setCcb_ok {s : State} (c o x : Nat) (h : memoriesOk s = true) : memoriesOk (s.setCcb c o x) = true :=
  (State.setCcb_translated s c o x).ok h

theorem State.setFdt_ok {s : State} (f : Nat) (e : Dbl) (h : memoriesOk s = true) : memoriesOk (s.setFdt f e) = true := by
  rw [memoriesOk_iff] at h ⊢
  unfold State.setFdt
  dsimp only
  exact ⟨Memory.pokeNum_wf h.1, h.2⟩

theorem State.pokePeer_ok {s : State} (k : Nat) (b : Byte) (h : memoriesOk s = true) : memoriesOk (s.pokePeer k b) = true := by
  rw [memoriesOk_iff] at h ⊢
  unfold State.pokePeer
  dsimp only
  exact ⟨h.1, h.2.1, h.2.2.1, Memory.poke_wf h.2.2.2⟩

/-- Dropping cached sectors writes no memory. -/
theorem State.dropSectors_ok {s : State} (p : CacheLine → Nat → Sector → Bool) (h : memoriesOk s = true) : memoriesOk (s.dropSectors p) = true :=
  memoriesOk_of_eq h rfl rfl rfl rfl

theorem State.invalidate_ok {s : State} (q : Nat) (u o : Option Nat) (h : memoriesOk s = true) : memoriesOk (s.invalidate q u o) = true :=
  memoriesOk_of_eq h rfl rfl rfl rfl

theorem State.forgetSector_ok {s : State} (q : Nat) (h : memoriesOk s = true) : memoriesOk (s.forgetSector q) = true :=
  memoriesOk_of_eq h rfl rfl rfl rfl

theorem State.orPte_ok {s : State} (a b : Nat) (h : memoriesOk s = true) : memoriesOk (s.orPte a b) = true :=
  (State.orPte_translated s a b).ok h

theorem State.describe_ok {s : State} (l : List Nat) (h : memoriesOk s = true) : memoriesOk (s.describe l) = true :=
  State.foldl_keeps (fun s => memoriesOk s = true) _ _ (fun _ _ h => State.setFdt_ok _ _ h) h

theorem State.setPoison_ok {s : State} (u : PoisonUnit) (h : memoriesOk s = true) : memoriesOk (s.setPoison u) = true := by
  cases u <;> exact memoriesOk_of_eq h rfl rfl rfl rfl

theorem State.clearPoison_ok {s : State} (u : PoisonUnit) (h : memoriesOk s = true) : memoriesOk (s.clearPoison u) = true := by
  cases u <;> exact memoriesOk_of_eq h rfl rfl rfl rfl

theorem State.settlePoison_ok {s : State} (ws : List (Loc × Bool)) (h : memoriesOk s = true) : memoriesOk (s.settlePoison ws) = true := by
  refine State.foldl_keeps (fun s => memoriesOk s = true) _ _ (fun s u h => ?_) h
  dsimp only
  split
  · exact State.setPoison_ok u h
  · split
    · exact State.clearPoison_ok u h
    · exact h

theorem State.touchHome_ok {s : State} (q : Nat) (h : memoriesOk s = true) : memoriesOk (s.touchHome q) = true :=
  (State.touchHome_translated s q).ok h

/-- Acceptance of a write at its home slices (R115). -/
theorem State.acceptPhys_ok {s : State} (bs : List (Nat × Byte)) (u o : Option Nat) (h : memoriesOk s = true) :
    memoriesOk (s.acceptPhys bs u o) = true := by
  have key : ∀ s : State, memoriesOk s = true → ∀ qs : List Nat,
      memoriesOk (qs.foldl (fun s q => (s.touchHome q).invalidate q u o) s) = true := fun s h qs =>
    State.foldl_keeps (fun s => memoriesOk s = true) _ qs (fun s q h => State.invalidate_ok q u o (State.touchHome_ok q h)) h
  have h1 : memoriesOk (State.settlePoison { s.describe (bs.map (·.1)) with mem := { (s.describe (bs.map (·.1))).mem with
      phys := bs.foldl (fun m b => m.poke b.1 b.2) (s.describe (bs.map (·.1))).mem.phys } } (bs.map fun b => (.phys b.1, false))) = true := by
    refine State.settlePoison_ok _ ?_
    have h0 := memoriesOk_iff.1 (State.describe_ok (bs.map (·.1)) h)
    exact memoriesOk_iff.2 ⟨Memory.foldl_poke_wf bs (·.1) (·.2) h0.1, h0.2⟩
  unfold State.acceptPhys
  dsimp only
  split
  · exact key _ h1 _
  · exact memoriesOk_of_eq (key _ h1 _) rfl rfl rfl rfl

theorem State.pokeHome_ok {s : State} (a n x : Nat) (h : memoriesOk s = true) : memoriesOk (s.pokeHome a n x) = true := State.acceptPhys_ok _ _ _ h
theorem State.putPte_ok {s : State} (a : Nat) (e : Pte) (h : memoriesOk s = true) : memoriesOk (s.putPte a e) = true := State.pokeHome_ok _ _ _ h
theorem State.putFdt_ok {s : State} (f e : Nat) (h : memoriesOk s = true) : memoriesOk (s.putFdt f e) = true := State.pokeHome_ok _ _ _ h

theorem State.forgetSectors_ok {s : State} (f : Nat) (h : memoriesOk s = true) : memoriesOk (s.forgetSectors f) = true :=
  State.foldl_keeps (fun s => memoriesOk s = true) _ _ (fun _ _ h => State.forgetSector_ok _ h) h

theorem State.forgetFrame_mem (s : State) (f : Nat) : (s.forgetFrame f).mem = (s.forgetSectors f).mem := by
  unfold State.forgetFrame
  exact State.setWork_mem _ _

theorem State.forgetFrame_ok {s : State} (f : Nat) (h : memoriesOk s = true) : memoriesOk (s.forgetFrame f) = true :=
  memoriesOk_of_mem (State.forgetSectors_ok f h) (State.forgetFrame_mem s f)

theorem State.zeroFrame_ok {s : State} (f : Nat) (h : memoriesOk s = true) : memoriesOk (s.zeroFrame f) = true := by
  refine State.forgetFrame_ok f ?_
  rw [memoriesOk_iff] at h ⊢
  exact ⟨Memory.clear_wf h.1, h.2⟩

/-- Loss of clusters removes bytes of their stores alone. -/
theorem State.loseClusters_ok {s : State} (on : Nat → Bool) (h : memoriesOk s = true) : memoriesOk (s.loseClusters on) = true := by
  rw [memoriesOk_iff] at h ⊢
  unfold State.loseClusters
  dsimp only
  exact ⟨h.1, Memory.filter_wf _ h.2.1, h.2.2⟩

theorem State.cold_ok {s : State} (h : memoriesOk s = true) : memoriesOk s.cold = true := by
  rw [memoriesOk_iff] at h ⊢
  exact ⟨rfl, rfl, h.2.2⟩

theorem State.warm_ok {s : State} (h : memoriesOk s = true) : memoriesOk s.warm = true := State.cold_ok h

end Sys2Proof.Machine
end

