-- ==== Sys2Proof/Laws/Words.lean ====
section
/-! SUPPORT. A word that passes the checks of issue: what its meaning answers, and what settling it does. -/

namespace Sys2Proof.Machine

open Sys2Proof.Safety

/-- With no register row poisoned, how a word ends is what its body says (R207). -/
theorem State.poisonRead_clean {s : State} (u : Issuer) (i : Instr) (m : Word) (e : Ending) (h : s.mem.storePoison = []) :
    s.poisonRead u i m e = e := by
  cases e with
  | on ws f p => cases p <;> simp [State.poisonRead, h]
  | _ => rfl

/-- A word that passes the checks of issue runs its body on Active(w), and the state settles as the body says (R239, R240, R255, R257). -/
theorem State.issueWord_next {s : State} {i : Instr} {u : Issuer} (body : State → Issuer → Word → State × Ending) (h : Issues s i u) :
    s.issueWord i body = .next ((body s u (activeOf u i)).1.settle u i (body s u (activeOf u i)).2) := by
  have hr := h.room
  have hs := h.settled
  have hm := h.may
  simp only [State.issueWord, h.issuer, h.runs, hm, h.inRange, State.poisonRead_clean u i _ _ h.clean, activeOf] at *
  simp [hr, hs]

/-- Slots of a mask (R36). -/
theorem mem_slotsOf {m : Word} {t : Nat} : t ∈ slotsOf m ↔ t < 32 ∧ m.getLsbD t = true := by simp [slotsOf]

theorem slotsOf_zero : slotsOf 0#32 = [] := by decide

theorem slotsOf_ne_nil {m : Word} (h : m ≠ 0#32) : slotsOf m ≠ [] := by
  intro e
  apply h
  apply BitVec.eq_of_getLsbD_eq
  intro t ht
  cases hb : m.getLsbD t with
  | false => simp
  | true => have : t ∈ slotsOf m := mem_slotsOf.2 ⟨ht, hb⟩; simp [e] at this

/-- A memory word that acts gives what its function gives on its operands (R149, R150). -/
theorem memBody_acts {s : State} {i : Instr} {u : Issuer} {off : Int} {reqs : List Req} (h : Acts s i u off reqs) (act : MemAct) :
    memBody i off act s u (activeOf u i) = match act s u.ctx reqs with
      | (s', .done ws f p) => (s', .on ws f p)
      | (_, .wait) => (s, .hold)
      | (s', .begun) => (s', .hold)
      | (s', .fault f mask a got) =>
        ((s'.logFault u i (withGot reqs got) f mask a).1, .logged (s'.logFault u i (withGot reqs got) f mask a).2) := by
  have hne := h.some_
  have hent : (u.ctx.log.freeBelow 8).isNone = false := by have := h.entry; cases hx : u.ctx.log.freeBelow 8 <;> simp_all
  cases hsl : u.actSlots i (activeOf u i) with
  | nil => exact absurd hsl hne
  | cons a r =>
    have hr := h.captured; rw [hsl] at hr
    simp only [memBody, hsl, ← hr, hent, h.region, Bool.or_self, Bool.false_eq_true, if_false]
    rcases act s u.ctx reqs with ⟨s', _ | _ | _ | _⟩ <;> rfl

end Sys2Proof.Machine
end

