-- ==== Sys2Proof/Laws/Settle.lean ====
section
/-! SUPPORT. Who issues a word, and what the end of a word and of a clause change: the issuing context, its lane, and nothing else. -/

namespace Sys2Proof.Machine

open Sys2Proof.Safety

/-! Masks -/

theorem slotsOf_lt {m : Word} {t : Nat} (h : t ∈ slotsOf m) : t < 32 := (mem_slotsOf.1 h).1

/-- A bit of the mask of a list of slots. -/
theorem maskOf_getLsbD {l : List Nat} (hl : ∀ y ∈ l, y < 32) {x : Nat} (hx : x < 32) : (maskOf l).getLsbD x = decide (x ∈ l) := by
  have aux : ∀ (l : List Nat) (m : Word), (∀ y ∈ l, y < 32) →
      (l.foldl (fun m i => m ||| 1#32 <<< i) m).getLsbD x = (m.getLsbD x || decide (x ∈ l)) := by
    intro l
    induction l with
    | nil => simp
    | cons a r ih =>
      intro m hl
      have hr : ∀ y ∈ r, y < 32 := fun y hy => hl y (by simp [hy])
      simp only [List.foldl_cons, ih _ hr]
      simp only [BitVec.getLsbD_or, BitVec.getLsbD_shiftLeft, List.mem_cons, hx]
      by_cases h : x = a
      · subst h; simp
      · by_cases h2 : x < a
        · simp [h, h2]
        · have : x - a ≠ 0 := by omega
          simp [h, h2, BitVec.getLsbD_one, this]
  simp [maskOf, aux l _ hl]

theorem slotsOf_maskOf {l : List Nat} (hl : ∀ y ∈ l, y < 32) {x : Nat} : x ∈ slotsOf (maskOf l) ↔ x ∈ l := by
  rw [mem_slotsOf]
  constructor
  · rintro ⟨hx, h⟩; rw [maskOf_getLsbD hl hx] at h; simpa using h
  · intro h; exact ⟨hl x h, by rw [maskOf_getLsbD hl (hl x h)]; simpa using h⟩

theorem setBit_getLsbD (m : Word) (t : Nat) (b : Bool) (x : Nat) (ht : t < 32) :
    (setBit m t b).getLsbD x = if x = t then b else m.getLsbD x := by
  by_cases hx : x < 32
  · have h1 : ((1#32 : BitVec 32) <<< t).getLsbD x = decide (x = t) := by
      simp only [BitVec.getLsbD_shiftLeft, BitVec.getLsbD_one, hx]
      by_cases h : x = t
      · subst h; simp
      · by_cases h2 : x < t
        · simp [h, h2]
        · have : x - t ≠ 0 := by omega
          simp [h, h2, this]
    cases b
    · simp only [setBit, Bool.false_eq_true, if_false, BitVec.getLsbD_and, BitVec.getLsbD_not, h1, hx]
      by_cases h : x = t <;> simp [h]
    · simp only [setBit, if_true, BitVec.getLsbD_or, h1]
      by_cases h : x = t <;> simp [h]
  · have : x ≠ t := by omega
    have h1 : ∀ m : Word, m.getLsbD x = false := fun m => by apply BitVec.getLsbD_of_ge; omega
    simp [h1, this]

/-- Active(w) of a warp or compositor is a part of its path's mask (R38). -/
theorem activeOf_subset {u : Issuer} {i : Instr} {x : Nat} (h : (activeOf u i).getLsbD x = true) : u.path.mask.getLsbD x = true := by
  simp only [activeOf, Issuer.active] at h
  by_cases hs : u.symbolic = true
  · simp only [hs, if_true] at h
    revert h
    cases u.sguard i with
    | uni b => cases b <;> simp
    | range k l hi o => simp
  · simp only [hs] at h
    have hx : x < 32 := BitVec.lt_of_getLsbD h
    have := (maskOf_getLsbD (l := (slotsOf u.path.mask).filter fun t => u.ctx.readP t i.guard.1.toNat != (i.guard.2 == 1#1))
      (by intro y hy; exact slotsOf_lt (List.mem_filter.1 hy).1) hx)
    have h' : (maskOf ((slotsOf u.path.mask).filter fun t => u.ctx.readP t i.guard.1.toNat != (i.guard.2 == 1#1))).getLsbD x = true := h
    rw [this] at h'
    exact (mem_slotsOf.1 (List.mem_filter.1 (of_decide_eq_true h')).1).2

/-! The issuer -/

/-- What belongs to an issuer: its context, its lane's clause, its path and its header (R29, R240). -/
structure IssuedBy (s : State) (i : Instr) (u : Issuer) : Prop where
  ctx : s.ctx? u.key = some u.ctx
  clause : (s.lane (u.key / 8)).clause = some u.clause
  path : u.ctx.path? u.path.id = some u.path
  id : u.path.id = u.clause.path
  hdr : parseHeader u.clause.header = some u.hdr
  cls : i.inClass u.ctx.cls = true
  key : u.ctx.key = u.key
  stage : u.clause.stage.isSome = u.symbolic
  boards : u.ctx.sb.length = 6
  bind : u.key % 8 = u.clause.bind
  one : u.ctx.isComp = true → u.path.mask = 1#32

theorem State.issuing_spec {s : State} {i : Instr} {u : Issuer} (h : s.issuing i = some u) : IssuedBy s i u := by
  unfold State.issuing at h
  split at h
  · contradiction
  · split at h
    · contradiction
    · rename_i c l _ _ cl hcl
      split at h
      · rename_i x hd hx hh
        split at h
        · rename_i p hp
          simp only at h
          split at h
          · rename_i hf
            cases h
            simp only [Issuer.fits, Bool.and_eq_true, decide_eq_true_eq, beq_iff_eq, Bool.or_eq_true, Bool.not_eq_true'] at hf
            obtain ⟨hc, ⟨⟨⟨hb, hk⟩, hs⟩, h6⟩, h1⟩ := hf
            have hid : p.id = cl.path := by simpa using List.find?_some hp
            have hkey : ctxKey c l cl.bind / 8 = laneKey c l := by simp [ctxKey]; omega
            have hbind : ctxKey c l cl.bind % 8 = cl.bind := by simp [ctxKey]; omega
            exact { ctx := hx, clause := by simp only [hkey]; exact hcl, path := by simp only [hid]; exact hp, id := hid, hdr := hh, cls := hc,
                    key := hk, stage := hs, boards := h6, bind := hbind,
                    one := by intro hcomp; rcases h1 with h1 | h1
                              · rw [hcomp] at h1; contradiction
                              · exact h1 }
          · contradiction
        · contradiction
      · contradiction

/-! States that differ in contexts and lanes only -/

/-- Only the tables of contexts and of lanes differ. -/
def State.Near (s t : State) : Prop := ∃ ctxs lanes, t = { s with work := { s.work with ctxs := ctxs, lanes := lanes } }

theorem State.Near.refl (s : State) : s.Near s := ⟨s.work.ctxs, s.work.lanes, rfl⟩
theorem State.Near.trans {s t r : State} (h : s.Near t) (g : t.Near r) : s.Near r := by
  obtain ⟨a, b, rfl⟩ := h; obtain ⟨c, d, rfl⟩ := g; exact ⟨c, d, rfl⟩
theorem State.changeCtx_near (s : State) (k : Nat) (f : Ctx → Ctx) : s.Near (s.changeCtx k f) := ⟨_, s.work.lanes, rfl⟩
theorem State.changeLane_near (s : State) (k : Nat) (f : Lane → Lane) : s.Near (s.changeLane k f) := ⟨s.work.ctxs, _, rfl⟩
theorem State.putCtx_near (s : State) (c : Ctx) : s.Near (s.putCtx c) := ⟨_, s.work.lanes, rfl⟩

/-- What such states share. -/
theorem State.Near.fields {s t : State} (h : s.Near t) : t.mem = s.mem ∧ t.hub = s.hub ∧ t.eng = s.eng ∧ t.rel = s.rel ∧ t.out = s.out ∧
    t.aCyc = s.aCyc ∧ t.fCyc = s.fCyc ∧ t.agenda = s.agenda ∧ t.issuer = s.issuer ∧ t.serial = s.serial ∧ t.work.nodes = s.work.nodes ∧
    t.work.groups = s.work.groups ∧ t.work.gangs = s.work.gangs ∧ t.work.trackers = s.work.trackers ∧ t.work.limbQueue = s.work.limbQueue ∧
    t.work.leafSaved = s.work.leafSaved ∧ t.work.units = s.work.units ∧ t.work.saved = s.work.saved := by
  obtain ⟨a, b, rfl⟩ := h; exact ⟨rfl, rfl, rfl, rfl, rfl, rfl, rfl, rfl, rfl, rfl, rfl, rfl, rfl, rfl, rfl, rfl, rfl, rfl⟩

/-! Last-use and reuse bits (R73, R74) -/

/-- The dead rows of a context after a word. -/
def Ctx.deadAfter (c : Ctx) (u : Issuer) (i : Instr) : Table Word :=
  (u.lastUses i).foldl (fun t n => t.put n (((t.look n).getD 0#32) ||| u.path.mask)) c.dead

/-- The bits change tables of contexts and lanes only. -/
theorem State.useBits_near (s : State) (u : Issuer) (i : Instr) : s.Near (s.useBits u i) := by
  simp only [State.useBits]
  cases (u.lastUses i).isEmpty <;> cases u.symbolic <;> cases (u.reuses i).isEmpty <;>
    simp only [if_true, if_false, Bool.false_eq_true] <;> exact ⟨_, _, rfl⟩

theorem State.useBits_ctx {s : State} {u : Issuer} (i : Instr) (hs : u.symbolic = false) :
    (s.useBits u i).ctx? u.key = (s.ctx? u.key).map fun c => { c with dead := c.deadAfter u i } := by
  have e : ((s.changeCtx u.key fun c => { c with dead := c.deadAfter u i }).ctx? u.key)
      = (s.ctx? u.key).map fun c => { c with dead := c.deadAfter u i } := by simp
  have e0 : (u.lastUses i) = [] → (s.ctx? u.key).map (fun c => { c with dead := c.deadAfter u i }) = s.ctx? u.key := by
    intro h; cases hc : s.ctx? u.key <;> simp [Ctx.deadAfter, h]
  simp only [State.useBits, hs]
  cases h1 : (u.lastUses i).isEmpty <;> cases h3 : (u.reuses i).isEmpty <;> simp only [if_true, if_false, Bool.false_eq_true]
  · exact e
  · exact e
  · exact (e0 (by simpa using h1)).symm
  · exact (e0 (by simpa using h1)).symm

theorem State.useBits_ctx_other {s : State} {u : Issuer} (i : Instr) {k : Nat} (h : k ≠ u.key) : (s.useBits u i).ctx? k = s.ctx? k := by
  simp only [State.useBits]
  cases h1 : (u.lastUses i).isEmpty <;> cases h2 : u.symbolic <;> cases h3 : (u.reuses i).isEmpty <;>
    simp only [if_true, if_false, Bool.false_eq_true, State.changeLane_ctx] <;> first | rfl | exact State.changeCtx_ctx_other _ _ h

theorem State.useBits_lane {s : State} {u : Issuer} (i : Instr) (hs : u.symbolic = false) :
    ∃ l, (s.useBits u i).lane (u.key / 8) = { s.lane (u.key / 8) with latch := l } ∧ ((u.reuses i) = [] → l = (s.lane (u.key / 8)).latch) := by
  simp only [State.useBits, hs]
  cases h1 : (u.lastUses i).isEmpty <;> cases h3 : (u.reuses i).isEmpty <;> simp only [if_true, if_false, Bool.false_eq_true, State.changeLane_lane]
  · exact ⟨_, rfl, fun h => by simp [h] at h3⟩
  · exact ⟨_, rfl, fun _ => rfl⟩
  · exact ⟨_, rfl, fun h => by simp [h] at h3⟩
  · exact ⟨_, rfl, fun _ => rfl⟩

theorem State.useBits_lane_other {s : State} {u : Issuer} (i : Instr) {k : Nat} (h : k ≠ u.key / 8) : (s.useBits u i).lane k = s.lane k := by
  simp only [State.useBits]
  cases h1 : (u.lastUses i).isEmpty <;> cases h2 : u.symbolic <;> cases h3 : (u.reuses i).isEmpty <;>
    simp only [if_true, if_false, Bool.false_eq_true, State.changeLane_lane_other _ _ h] <;> rfl

theorem State.useBits_none {s : State} {u : Issuer} {i : Instr} (h1 : (u.lastUses i) = []) (h2 : (u.reuses i) = []) : s.useBits u i = s := by
  simp [State.useBits, h1, h2]

/-! Committing nothing -/

theorem State.commitNone_near (s : State) (k : Nat) : s.Near (s.commitWrites k []) := ⟨_, _, rfl⟩

theorem State.commitNone_ctx (s : State) (k j : Nat) : (s.commitWrites k []).ctx? j = s.ctx? j := by
  refine (Table.look_change s.work.ctxs k j fun c => { c with dead := c.dead }).trans ?_
  split <;> simp [State.ctx?]

theorem State.commitNone_lane (s : State) (k j : Nat) : (s.commitWrites k []).lane j = s.lane j := by
  by_cases h : j = k / 8
  · subst h
    refine (State.changeLane_lane ..).trans ?_
    have : ∀ l : List Latch, latchAfter (k % 8) [] l = l := by simp [latchAfter]
    rw [this]; rfl
  · exact (State.changeLane_lane_other _ _ h).trans rfl

/-! Committing writes (R37) -/

theorem State.commitWrites_ctx_other (s : State) (k : Nat) (ws : List RegWrite) {j : Nat} (h : j ≠ k) :
    (s.commitWrites k ws).ctx? j = (ws.foldl (fun s w => s.applyWrite k w) s).ctx? j := by
  simp only [State.commitWrites, State.changeLane_ctx]; exact State.changeCtx_ctx_other _ _ h

theorem State.commitWrites_ctx (s : State) (k : Nat) (ws : List RegWrite) :
    (s.commitWrites k ws).ctx? k = ((ws.foldl (fun s w => s.applyWrite k w) s).ctx? k).map fun c =>
      { c with dead := ws.foldl (fun t w => w.revive t) c.dead } := by
  simp only [State.commitWrites, State.changeLane_ctx]; exact State.changeCtx_ctx _ _ _

theorem State.commitWrites_clause (s : State) (k : Nat) (ws : List RegWrite) :
    ((s.commitWrites k ws).lane (k / 8)).clause = ((ws.foldl (fun s w => s.applyWrite k w) s).lane (k / 8)).clause := by
  simp only [State.commitWrites, State.changeLane_lane]; rfl

/-- Beside what its writes say, a commit changes contexts and lanes only. -/
theorem State.commitWrites_near (s : State) (k : Nat) (ws : List RegWrite) :
    (ws.foldl (fun s w => s.applyWrite k w) s).Near (s.commitWrites k ws) := ⟨_, _, rfl⟩

/-- A write of a v register changes the cluster store and its poison only. -/
theorem State.writeV_fields (s : State) (c : Ctx) (t n : Nat) (x : Word) : (s.writeV c t n x).work = s.work ∧
    (s.writeV c t n x).hub = s.hub ∧ (s.writeV c t n x).eng = s.eng ∧ (s.writeV c t n x).rel = s.rel ∧ (s.writeV c t n x).out = s.out ∧
    (s.writeV c t n x).mem.phys = s.mem.phys ∧ (s.writeV c t n x).mem.host = s.mem.host ∧ (s.writeV c t n x).mem.peer = s.mem.peer := by
  simp only [State.writeV]; split <;> simp [State.writeStoreWord]

/-! The end of a clause (R239) -/

theorem State.endClause_near (s : State) (u : Issuer) (pc : Dbl) (w : Wait) : s.Near (s.endClause u pc w) := ⟨_, _, rfl⟩

/-- The path of a clause that ends. -/
def Issuer.endPath (u : Issuer) (pc : Dbl) (w : Wait) (p : Path) : Path :=
  { p with pc := pc, came := u.clause.pc, start := 0, skip := 0, wait := w, entry := false }

theorem State.endClause_ctx {s : State} {u : Issuer} {pc : Dbl} {w : Wait} {cl : Clause} (h : (s.lane (u.key / 8)).clause = some cl)
    (hs : cl.stage = none) :
    (s.endClause u pc w).ctx? u.key = (s.ctx? u.key).map fun c => { (c.changePath u.path.id (u.endPath pc w)) with joined := none } := by
  have : (s.lane (u.key / 8)).clause.bind (·.stage) = none := by simp [h, hs]
  show ((s.changeCtx u.key _).changeLane _ _).ctx? u.key = _
  simp only [this, Ctx.commitStage, State.changeLane_ctx]
  exact State.changeCtx_ctx ..

theorem State.endClause_ctx_other {s : State} {u : Issuer} {pc : Dbl} {w : Wait} {k : Nat} (h : k ≠ u.key) :
    (s.endClause u pc w).ctx? k = s.ctx? k := by
  simp only [State.endClause, State.changeLane_ctx]; exact State.changeCtx_ctx_other _ _ h

theorem State.endClause_lane (s : State) (u : Issuer) (pc : Dbl) (w : Wait) :
    (s.endClause u pc w).lane (u.key / 8)
      = { s.lane (u.key / 8) with clause := none, yielded := (s.lane (u.key / 8)).yielded || u.hdr.yield } := by
  show (State.changeLane _ _ _).lane _ = _
  rw [State.changeLane_lane]; rfl

theorem State.endClause_lane_other {s : State} {u : Issuer} {pc : Dbl} {w : Wait} {k : Nat} (h : k ≠ u.key / 8) :
    (s.endClause u pc w).lane k = s.lane k := State.changeLane_lane_other _ _ h

theorem State.advance_near (s : State) (u : Issuer) : s.Near (s.advance u) := by
  simp only [State.advance]; split
  · exact State.changeLane_near _ _ _
  · exact State.endClause_near _ _ _ _

/-- The path after a change of it. -/
theorem Ctx.changePath_path {c : Ctx} {id : Nat} {p : Path} (f : Path → Path) (hf : ∀ q, (f q).id = q.id) (h : c.path? id = some p) :
    (c.changePath id f).path? id = some (f p) := by
  have hid : p.id = id := by simpa using List.find?_some h
  simp only [Ctx.path?, Ctx.changePath] at h ⊢
  generalize c.paths = l at h ⊢
  induction l with
  | nil => simp at h
  | cons a r ih =>
    by_cases ha : a.id = id
    · have : a = p := by simpa [List.find?_cons, ha] using h
      subst this
      simp [ha, hf]
    · have h' : r.find? (fun p => p.id == id) = some p := by simpa [List.find?_cons, ha] using h
      simp only [List.map_cons, if_neg ha]
      rw [List.find?_cons]
      simp only [beq_eq_false_iff_ne.2 ha]
      exact ih h'

/-- A word that ends its clause (R239): its path goes on at `pc`, waiting as said, its flags and registers as before. -/
theorem State.settle_goto {s : State} {i : Instr} {u : Issuer} {pc : Dbl} {w : Wait} (h : IssuedBy s i u) (hs : u.symbolic = false) :
    ∃ t, t = s.settle u i (.goto pc w []) ∧
      t.ctx? u.key = some { ((({ u.ctx with dead := u.ctx.deadAfter u i } : Ctx)).changePath u.path.id (u.endPath pc w)) with
        joined := none, astat := raiseFlags u.ctx.astat 0#32 } ∧
      (∀ k, k ≠ u.key → t.ctx? k = s.ctx? k) ∧ (t.lane (u.key / 8)).clause = none ∧
      (t.lane (u.key / 8)).yielded = ((s.lane (u.key / 8)).yielded || u.hdr.yield) ∧
      (∀ k, k ≠ u.key / 8 → t.lane k = s.lane k) ∧
      s.Near t := by
  refine ⟨_, rfl, ?_⟩
  let s1 := s.useBits u i
  let s2 := (s1.commitWrites u.key []).raise u.key 0#32
  have e : s.settle u i (.goto pc w []) = s2.endClause u pc w := by
    simp only [State.settle, State.commitWord, hs]; rfl
  have hst : u.clause.stage = none := by have := h.stage; rw [hs] at this; simpa using this
  obtain ⟨l1, hl1, _⟩ := State.useBits_lane (s := s) i hs
  have lane2 : ∀ k, s2.lane k = s1.lane k := fun k => State.commitNone_lane s1 u.key k
  have cl2 : (s2.lane (u.key / 8)).clause = some u.clause := by rw [lane2]; show (s1.lane _).clause = _; rw [hl1]; exact h.clause
  have ctx2 : s2.ctx? u.key = some { u.ctx with dead := u.ctx.deadAfter u i, astat := raiseFlags u.ctx.astat 0#32 } := by
    show (State.changeCtx _ _ _).ctx? u.key = _
    rw [State.changeCtx_ctx, State.commitNone_ctx, State.useBits_ctx i hs, h.ctx]; rfl
  refine ⟨?_, ?_, ?_, ?_, ?_, ?_⟩
  · rw [e, State.endClause_ctx cl2 hst, ctx2]; rfl
  · intro k hk
    rw [e, State.endClause_ctx_other hk]
    show (State.changeCtx _ _ _).ctx? k = _
    rw [State.changeCtx_ctx_other _ _ hk, State.commitNone_ctx, State.useBits_ctx_other i hk]
  · rw [e, State.endClause_lane]
  · rw [e, State.endClause_lane, lane2]; simp only; rw [hl1]
  · intro k hk; rw [e, State.endClause_lane_other hk, lane2, State.useBits_lane_other i hk]
  · rw [e]
    exact (State.useBits_near s u i).trans (((State.commitNone_near s1 _).trans (State.changeCtx_near _ _ _)).trans (State.endClause_near _ _ _ _))

/-! What the recorders' operations change -/

/-- A record changes the recorders' rings alone. -/
theorem State.galley_keeps (s : State) (r cls : Nat) (code : BitVec 8) (tenant kind ctx : Nat) (payload : Dbl) :
    ∃ g, s.galley r cls code tenant kind ctx payload = { s with rel := { s.rel with galleys := g } } := by
  unfold State.galley
  dsimp only
  split
  · exact ⟨s.rel.galleys, rfl⟩
  · exact ⟨_, rfl⟩

/-- Receiving a flip changes the recorders' rings and who has received it. -/
theorem State.recvFlip_keeps (s : State) (c : Ctx) (key : Nat) :
    ∃ g h, s.recvFlip c key = { s with rel := { s.rel with galleys := g, heard := h } } := by
  unfold State.recvFlip
  split
  · exact ⟨s.rel.galleys, s.rel.heard, rfl⟩
  · dsimp only
    split
    · exact ⟨s.rel.galleys, s.rel.heard, rfl⟩
    · rename_i t _ _
      obtain ⟨g, e⟩ := State.galley_keeps { s with rel := { s.rel with heard := s.rel.heard.put t (c.core :: (s.rel.heard.look t).getD []) } }
        c.core 2 0x06#8 c.tenant c.recKind c.recCtx (msgPayload t .flip)
      exact ⟨g, _, e⟩

/-- Forgetting who received a message changes nothing else. -/
theorem State.unheard_keeps (s : State) (key : Nat) : ∃ h, s.unheard key = { s with rel := { s.rel with heard := h } } := by
  unfold State.unheard
  split
  · exact ⟨s.rel.heard, rfl⟩
  · exact ⟨_, rfl⟩

end Sys2Proof.Machine
end

