-- ==== Sys2Proof/Tests/Slice0.lean ====
section
/-! SUPPORT. Tests of the model against the spec's own encodings and examples, ill-formed terms that WellFormed refuses, and witnesses of
the hypotheses of the statements. -/

namespace Sys2Proof.Tests

open Sys2Proof Sys2Proof.Machine Sys2Proof.Safety

/-! States and words -/

/-- A warp of 32 slots about to issue a word of CLASS 0. -/
def warp : State := State.reset.withFetchWord 64 0x0000_0000_0001_DC00
/-- A compositor program about to issue `mwait 0`. -/
def comp : State := State.reset.withFetchWord 64 0xA500_0000_0001_DC00

def reg (d a b c fmt mod : Nat) : RegWord :=
  { d := BitVec.ofNat 8 d, a := BitVec.ofNat 8 a, b := BitVec.ofNat 8 b, c := BitVec.ofNat 8 c, mod := BitVec.ofNat 7 mod, gp := 7#3, gn := 0#1,
    sb := 7#3, lu := 0#3, ru := 0#3, fmt := BitVec.ofNat 4 fmt }
def imm (d a i : Nat) : ImmWord :=
  { d := BitVec.ofNat 8 d, a := BitVec.ofNat 8 a, imm := BitVec.ofNat 32 i, gp := 7#3, gn := 0#1, sb := 7#3, lua := 0#1 }
def mem (d a seg off mfmt sb fmt : Nat) : MemWord :=
  { d := BitVec.ofNat 8 d, a := BitVec.ofNat 8 a, seg := BitVec.ofNat 3 seg, off := BitVec.ofNat 14 off, mfmt := BitVec.ofNat 4 mfmt, ord := 0#2,
    gp := 7#3, gn := 0#1, sb := BitVec.ofNat 3 sb, lua := 0#1, lud := 0#1, oen := 0#1, osc := 0#3, fmt := BitVec.ofNat 4 fmt }

/-- The same word with another scoreboard. -/
def sb (n : Nat) (w : RegWord) : RegWord := { w with sb := BitVec.ofNat 3 n }

/-- The context that issues, changed. -/
def on (s : State) (f : Ctx → Ctx) : State := s.changeCtx 0 f
/-- The path that issues, changed. -/
def onPath (s : State) (f : Path → Path) : State := on s fun c => c.changePath 0 f
/-- A register v`n` of slot 0, an s register. -/
def setV (s : State) (t n x : Nat) : State := match s.ctx? 0 with | some c => s.writeV c t n (word x) | none => s
def setS (s : State) (n x : Nat) : State := on s fun c => { c with s := c.s.put n (word x) }

/-- Word `i` passes the checks of issue in `s`, and its issuer has a property. -/
def passes (s : State) (i : Instr) (p : Issuer → Bool) : Bool :=
  match s.issuing i with
  | none => false
  | some u =>
    !u.ctx.stopped && !(i.rules.priv && !u.ctx.priv && u.cls == .vector) && !u.ridx i &&
      !(i.rules.var && decide (i.sbField < 6) && decide (15 ≤ nth u.ctx.sb i.sbField 0)) && !(i.rules.ends && u.path.ctr != 0) &&
      s.mem.storePoison.isEmpty && p u

theorem issues {s : State} {i : Instr} (p : Issuer → Prop) [∀ u, Decidable (p u)] (h : passes s i (fun u => decide (p u)) = true) :
    ∃ u, Issues s i u ∧ p u := by
  unfold passes at h
  split at h
  · contradiction
  · rename_i u hu
    simp only [Bool.and_eq_true, Bool.not_eq_true', List.isEmpty_iff] at h
    obtain ⟨⟨⟨⟨⟨⟨h1, h2⟩, h3⟩, h4⟩, h5⟩, h6⟩, h7⟩ := h
    exact ⟨u, ⟨hu, h1, h2, h3, h4, h5, h6⟩, of_decide_eq_true h7⟩

/-- Word `i` acts in `s` on the operands that it captures, and its issuer and operands have a property. -/
theorem acts {s : State} {i : Instr} (off : Int) (p : Issuer → List Req → Prop) [∀ u r, Decidable (p u r)]
    (h : passes s i (fun u => decide (u.symbolic = false ∧ u.actSlots i (activeOf u i) ≠ [] ∧ (u.ctx.log.freeBelow 8).isSome = true ∧
      u.ctx.regionBusy i (s.capture u i (u.actSlots i (activeOf u i)) off) = false ∧
      p u (s.capture u i (u.actSlots i (activeOf u i)) off))) = true) :
    ∃ u reqs, Acts s i u off reqs ∧ p u reqs := by
  obtain ⟨u, hu, a, b, c, d, e⟩ := issues _ h
  exact ⟨u, _, ⟨hu, a, b, rfl, c, d⟩, e⟩

/-- The hypotheses of most statements about one word: it issues outside a trunk or limb, at some slot. -/
def plain (s : State) (i : Instr) : Bool := passes s i fun u => decide (u.symbolic = false ∧ activeOf u i ≠ 0#32)

theorem plain_spec {s : State} {i : Instr} (h : plain s i = true) : ∃ u, Issues s i u ∧ u.symbolic = false ∧ activeOf u i ≠ 0#32 := issues _ h

/-! Ill-formed words, one for each check of WellFormed -/

theorem test_bad_class : (Instr.mwait (reg 0 0 0 0 0 0)).bad .vector = some .cls := by decide
theorem test_bad_operand : (Instr.iadd (reg 10 2 4 1 8 0)).bad .vector = some .operand := by decide
theorem test_bad_uniform : (Instr.iadd (reg 0xC5 2 4 0 8 0)).bad .vector = some .uniform := by decide
theorem test_bad_modifier : (Instr.and (reg 10 2 4 0 9 1)).bad .vector = some .modifier := by decide
theorem test_bad_format : (Instr.iadd (reg 10 2 4 0 3 0)).bad .vector = some .format := by decide
theorem test_bad_guard : (Instr.iadd { reg 10 2 4 0 8 0 with gn := 1#1 }).bad .vector = some .guard := by decide
theorem test_bad_guard_of_nop : (Instr.nop { reg 0 0 0 0 0 0 with gp := 1#3 }).bad .vector = some .guard := by decide
theorem test_bad_scoreboard : (Instr.iadd { reg 10 2 4 0 8 0 with sb := 2#3 }).bad .vector = some .scoreboard := by decide
theorem test_bad_lastUse : (Instr.iadd { reg 10 2 0xC4 0 8 0 with lu := 2#3 }).bad .vector = some .lastUse := by decide
theorem test_bad_pair_class : ∀ l r, (Instr.pairedWord l r).bad .compositor = some .cls := by intro l r; rfl
theorem test_bad_event : (Instr.codeScan 0x2900000).bad .vector = some .range := by decide
theorem test_bad_header : Header.ok { cls := 3#2, count := 0#4, pairmap := 0#16, wait := 0#6, join := false, yield := false, stall := 0#30 } = false := by
  decide

/-! Words written out from the encodings of chapter 13 (Tables 13.1, 13.2, 13.4, 13.5, 13.8, 13.10) and the entries' own maps -/

/-- Every word of a list decodes to its instruction. -/
def reads (k : Cls) (l : List (Dbl × Instr)) : Bool :=
  l.all fun x => match decode k false x.1 with | .ok i => decide (i = x.2) | .error _ => false

theorem of_reads {k : Cls} {l : List (Dbl × Instr)} (h : reads k l = true) : ∀ x ∈ l, decode k false x.1 = .ok x.2 := by
  intro x hx
  have := List.all_eq_true.1 h x hx
  revert this
  cases decode k false x.1 <;> simp

theorem test_decode_1 : ∀ x ∈ ([
    (0x0000_0000_0001_DC00, .nop (reg 0 0 0 0 0 0)),
    (0x010A_0200_0001_DC09, .mov (reg 10 2 0 0 9 0)),
    (0x020A_0012_3457_DC78, .movi (imm 10 0 0x12345678)),
    (0x030A_029A_BCDF_DCF0, .movhi (imm 10 2 0x9ABCDEF0)),
    (0x040A_0204_0001_DC08, .iadd (reg 10 2 4 0 8 0)),
    (0x050A_0204_0001_DC08, .isub (reg 10 2 4 0 8 0)),
    (0x070A_0204_0001_DC08, .imul (reg 10 2 4 0 8 0)),
    (0x080A_0204_0001_DC08, .imulhi (reg 10 2 4 0 8 0)),
    (0x060A_0204_0601_DC09, .iadd3 (reg 10 2 4 6 9 0)),
    (0x090A_0204_0601_DC0A, .imad (reg 10 2 4 6 10 0)),
    (0x0A0A_0204_0601_DC09, .imadw (reg 10 2 4 6 9 0)),
    (0x0B0A_0200_0003_DC08, .iabs (reg 10 2 0 0 8 1)),
    (0x0C0A_0204_0001_DC08, .imin (reg 10 2 4 0 8 0)),
    (0x0D0A_0204_0001_DC09, .imax (reg 10 2 4 0 9 0)),
    (0x0E0A_0204_0001_C408, .idiv (sb 1 (reg 10 2 4 0 8 0))),
    (0x0F0A_0204_0001_D409, .irem (sb 5 (reg 10 2 4 0 9 0))),
    (0x100A_0204_0001_DC09, .and (reg 10 2 4 0 9 0)),
    (0x110A_0204_0001_DC09, .or (reg 10 2 4 0 9 0)),
    (0x120A_0204_0001_DC09, .xor (reg 10 2 4 0 9 0)),
    (0x150A_0204_0001_DC09, .shl (reg 10 2 4 0 9 0))] : List (Dbl × Instr)), decode .vector false x.1 = .ok x.2 :=
  of_reads (by decide)

theorem test_decode_2 : ∀ x ∈ ([
    (0x160A_0204_0001_DC09, .shr (reg 10 2 4 0 9 0)),
    (0x170A_0204_0001_DC09, .sar (reg 10 2 4 0 9 0)),
    (0x130A_0200_0001_DC0A, .not (reg 10 2 0 0 10 0)),
    (0x140A_0204_061D_DC06, .lop3 (reg 10 2 4 6 6 14)),
    (0x180A_0204_0603_DC09, .shf (reg 10 2 4 6 9 1)),
    (0x190A_0204_0001_DC08, .bfe (reg 10 2 4 0 8 0)),
    (0x1A0A_0204_0601_DC09, .bfi (reg 10 2 4 6 9 0)),
    (0x1B0A_0200_0001_DC09, .brev (reg 10 2 0 0 9 0)),
    (0x1C0A_0200_0001_DC09, .clz (reg 10 2 0 0 9 0)),
    (0x1D0A_0200_0001_DC0A, .ctz (reg 10 2 0 0 10 0)),
    (0x1E0A_0200_0001_DC09, .popc (reg 10 2 0 0 9 0)),
    (0x1F0A_0204_0601_DC09, .prmt (reg 10 2 4 6 9 0)),
    (0x2003_0204_0005_DC08, .icmp (reg 3 2 4 0 8 2)),
    (0x210A_0204_0301_DC09, .sel (reg 10 2 4 3 9 0)),
    (0x220A_0402_0001_DC0A, .lea (reg 10 4 2 0 10 0)),
    (0x230A_0000_0001_DC02, .idx (imm 10 0 2)),
    (0x240A_0204_0001_DC01, .pack (reg 10 2 4 0 1 0)),
    (0x250A_0200_0005_DC03, .unpack (reg 10 2 0 0 3 2)),
    (0x2603_0102_0003_DC00, .pand (reg 3 1 2 0 0 1)),
    (0x270A_0000_00FF_DC00, .pmov (reg 10 0 0 0 0 0x7F))] : List (Dbl × Instr)), decode .vector false x.1 = .ok x.2 :=
  of_reads (by decide)

theorem test_decode_3 : ∀ x ∈ ([
    (0x280A_0200_0001_DC08, .cvt (reg 10 2 0 0 8 0)),
    (0x290A_0500_0001_DC09, .rdsr (reg 10 5 0 0 9 0)),
    (0x2A0C_0000_0003_DC09, .segrd (reg 12 0 0 0 9 1)),
    (0x2B0A_0000_0007_C00A, .rdwp (sb 0 (reg 10 0 0 0 10 3))),
    (0x300A_0204_0009_DC00, .fadd (reg 10 2 4 0 0 4)),
    (0x310A_0204_0009_DC00, .fsub (reg 10 2 4 0 0 4)),
    (0x320A_0204_0009_DC00, .fmul (reg 10 2 4 0 0 4)),
    (0x330A_0204_0607_DC00, .ffma (reg 10 2 4 6 0 3)),
    (0x340A_0204_0001_DC00, .fmin (reg 10 2 4 0 0 0)),
    (0x350A_0204_0001_DC00, .fmax (reg 10 2 4 0 0 0)),
    (0x3603_0204_0005_DC00, .fcmp (reg 3 2 4 0 0 2)),
    (0x370A_0200_0001_DC00, .fclass (reg 10 2 0 0 0 0)),
    (0x380A_0200_0003_DC00, .fround (reg 10 2 0 0 0 1)),
    (0x390A_0204_0001_DC00, .fscale (reg 10 2 4 0 0 0)),
    (0x3A0A_0204_0601_DC01, .fdot2 (reg 10 2 4 6 1 0)),
    (0x3B0A_0204_0601_DC03, .fdot4 (reg 10 2 4 6 3 0)),
    (0x3C0A_0204_0601_DC05, .lgdot4 (reg 10 2 4 6 5 0)),
    (0x3D0A_0204_0001_DC01, .hadd2 (reg 10 2 4 0 1 0)),
    (0x3E0A_0204_0001_DC02, .hmul2 (reg 10 2 4 0 2 0)),
    (0x3F0A_0204_0601_DC01, .hfma2 (reg 10 2 4 6 1 0))] : List (Dbl × Instr)), decode .vector false x.1 = .ok x.2 :=
  of_reads (by decide)

theorem test_decode_4 : ∀ x ∈ ([
    (0x400A_0204_0001_C000, .fdiv (sb 0 (reg 10 2 4 0 0 0))),
    (0x410A_0200_0001_C000, .frcp (sb 0 (reg 10 2 0 0 0 0))),
    (0x420A_0200_0001_C400, .frsq (sb 1 (reg 10 2 0 0 0 0))),
    (0x430A_0200_0001_C800, .fsqrt (sb 2 (reg 10 2 0 0 0 0))),
    (0x440A_0200_0001_CC00, .fexp2 (sb 3 (reg 10 2 0 0 0 0))),
    (0x450A_0200_0001_D000, .flog2 (sb 4 (reg 10 2 0 0 0 0))),
    (0x460A_0200_0001_D400, .fsin (sb 5 (reg 10 2 0 0 0 0))),
    (0x470A_0200_0001_C000, .fcos (sb 0 (reg 10 2 0 0 0 0))),
    (0x480A_0200_0001_C400, .ftanh (sb 1 (reg 10 2 0 0 0 0))),
    (0x5003_0100_0005_DC00, .vote (reg 3 1 0 0 0 2)),
    (0x510A_0100_0001_DC09, .ballot (reg 10 1 0 0 9 0)),
    (0x520C_04C5_0005_DC09, .shfl (reg 12 4 0xC5 0 9 2)),
    (0x5308_0400_0221_DC09, .scan (reg 8 4 0 2 9 16)),
    (0x540A_0400_010D_DC09, .redux (reg 10 4 0 1 9 6)),
    (0x550A_0200_0001_DC09, .matchEq (reg 10 2 0 0 9 0)),
    (0x560A_0204_C501_DC09, .isect (reg 10 2 4 0xC5 9 0)),
    (0x570A_0200_0001_DC03, .bexp (reg 10 2 0 0 3 0)),
    (0x6004_0120_0049_C009, .ld (mem 4 1 1 0 9 0 9)),
    (0x6108_0400_0069_DC09, .st (mem 8 4 0 0 13 7 9)),
    (0x6208_0406_0001_C809, .atom (sb 2 (reg 8 4 6 0 9 0)))] : List (Dbl × Instr)), decode .vector false x.1 = .ok x.2 :=
  of_reads (by decide)

theorem test_decode_5 : ∀ x ∈ ([
    (0x6300_0406_000B_DC09, .red (reg 0 4 6 0 9 5)),
    (0x6400_0406_0001_DC0A, .scat (reg 0 4 6 0 10 0)),
    (0x6500_0400_2001_DC00, .pref (mem 0 4 0 64 0 7 0)),
    (0x6606_0400_0049_CC09, .ldm (mem 6 4 0 0 9 3 9)),
    (0x6706_0400_0049_DC09, .stm (mem 6 4 0 0 9 7 9)),
    (0x6800_0000_0017_DC00, .fence (reg 0 0 0 0 0 11)),
    (0x6900_0400_0001_DC00, .cinv (reg 0 4 0 0 0 0)),
    (0x6A00_0400_0001_DC00, .cwb (reg 0 4 0 0 0 0)),
    (0x7008_0406_0701_DC00, .cpy (reg 8 4 6 7 0 0)),
    (0x7100_0400_0009_DC00, .cpyt (reg 0 4 0 0 0 4)),
    (0x7200_0400_0001_DC00, .gath (reg 0 4 0 0 0 0)),
    (0x7300_0400_0001_DC00, .psel (reg 0 4 0 0 0 0)),
    (0x7400_0406_0001_DC00, .binit (reg 0 4 6 0 0 0)),
    (0x7500_C4C6_0001_DC00, .barv (reg 0 0xC4 0xC6 0 0 0)),
    (0x7609_C4C5_0001_DC00, .bwait (reg 9 0xC4 0xC5 0 0 0)),
    (0x7709_0406_0003_DC00, .btest (reg 9 4 6 0 0 1)),
    (0x7800_C800_0003_DC00, .gbar (reg 0 0xC8 0 0 0 1)),
    (0x7900_0204_0003_DC00, .nbar (reg 0 2 4 0 0 1)),
    (0x8000_00FF_FFFF_DDFE, .bra (imm 0 0 0xFFFFFFFE)),
    (0x8100_0400_0001_DC00, .brx (reg 0 4 0 0 0 0))] : List (Dbl × Instr)), decode .vector false x.1 = .ok x.2 :=
  of_reads (by decide)

theorem test_decode_6 : ∀ x ∈ ([
    (0x8200_0000_0001_DC10, .call (imm 0 0 16)),
    (0x8300_0000_0001_DC00, .ret (reg 0 0 0 0 0 0)),
    (0x8400_0000_0001_DC00, .join (reg 0 0 0 0 0 0)),
    (0x8500_0000_0001_DC00, .exit (reg 0 0 0 0 0 0)),
    (0x8600_0000_0001_DC00, .tail (reg 0 0 0 0 0 0)),
    (0x8700_0000_0001_DC00, .yield (reg 0 0 0 0 0 0)),
    (0x8800_0000_0001_DC4D, .trap (imm 0 0 0x4D)),
    (0x8801_0400_0001_DC00, .trapSet (imm 1 4 0)),
    (0x8900_0000_0003_DC00, .tret (reg 0 0 0 0 0 1)),
    (0x8A00_0000_0001_DC21, .mark (imm 0 0 33)),
    (0x8B00_0204_0001_DC00, .psig (reg 0 2 4 0 0 0)),
    (0x8CC8_0000_0001_DC09, .gang (reg 0xC8 0 0 0 9 0)),
    (0x900C_0200_0001_C409, .chapp (sb 1 (reg 12 2 0 0 9 0))),
    (0x910A_0204_0001_DC0A, .tsub (reg 10 2 4 0 10 0)),
    (0x920A_0200_0001_C00A, .chsq (sb 0 (reg 10 2 0 0 10 0))),
    (0x930A_0204_0001_DC0A, .sqwait (reg 10 2 4 0 10 0)),
    (0x940A_0204_0001_DC00, .vset (reg 10 2 4 0 0 0)),
    (0x950A_0200_0001_DC00, .vclr (reg 10 2 0 0 0 0)),
    (0x9600_0402_0001_DC00, .vinfo (reg 0 4 2 0 0 0)),
    (0x970A_0204_0001_DC00, .pshare (reg 10 2 4 0 0 0))] : List (Dbl × Instr)), decode .vector false x.1 = .ok x.2 :=
  of_reads (by decide)

theorem test_decode_7 : ∀ x ∈ ([
    (0x980A_0200_0001_DC00, .prel (reg 10 2 0 0 0 0)),
    (0x990A_0200_0001_DC00, .rgrow (reg 10 2 0 0 0 0)),
    (0x9A0A_0200_0001_DC00, .rshrink (reg 10 2 0 0 0 0)),
    (0x9B0A_0200_0001_D009, .srd (sb 4 (reg 10 2 0 0 9 0))),
    (0xB00A_0204_0001_DC09, .bmode (reg 10 2 4 0 9 0)),
    (0xB100_0400_0003_DC09, .segld (reg 0 4 0 0 9 1)),
    (0xB20A_0204_0603_DC00, .pgattr (reg 10 2 4 6 0 1)),
    (0xB300_0400_0001_DC00, .tlbi (reg 0 4 0 0 0 0)),
    (0xB400_0204_0001_DC0A, .srw (reg 0 2 4 0 10 0)),
    (0xB500_0000_0001_DC00, .frz (reg 0 0 0 0 0 0)),
    (0xC00A_02FF_FFFF_DDF0, .iaddImm (imm 10 2 0xFFFFFFF0)),
    (0xC10A_02FF_FFFF_DDF0, .isubImm (imm 10 2 0xFFFFFFF0)),
    (0xC20A_02FF_FFFF_DDF0, .imulImm (imm 10 2 0xFFFFFFF0)),
    (0xC30A_02FF_FFFF_DDF0, .iminImm (imm 10 2 0xFFFFFFF0)),
    (0xC40A_02FF_FFFF_DDF0, .imaxImm (imm 10 2 0xFFFFFFF0)),
    (0xC50A_02FF_FFFF_DDF0, .andImm (imm 10 2 0xFFFFFFF0)),
    (0xC60A_02FF_FFFF_DDF0, .orImm (imm 10 2 0xFFFFFFF0)),
    (0xC70A_02FF_FFFF_DDF0, .xorImm (imm 10 2 0xFFFFFFF0)),
    (0xC80A_0200_0001_DC1F, .shlImm (imm 10 2 31)),
    (0xC90A_0200_0001_DC1F, .shrImm (imm 10 2 31))] : List (Dbl × Instr)), decode .vector false x.1 = .ok x.2 :=
  of_reads (by decide)

theorem test_decode_8 : ∀ x ∈ ([
    (0xCA0A_0200_0001_DC1F, .sarImm (imm 10 2 31)),
    (0xCB28_0000_0001_DC20, .icmpImm (imm 40 0 32)),
    (0xCC0A_023F_8001_DC00, .faddImm (imm 10 2 0x3F800000)),
    (0xCD0A_023F_8001_DC00, .fmulImm (imm 10 2 0x3F800000)),
    (0xCE0A_023F_8001_DC00, .fminImm (imm 10 2 0x3F800000)),
    (0xCF0A_023F_8001_DC00, .fmaxImm (imm 10 2 0x3F800000))] : List (Dbl × Instr)), decode .vector false x.1 = .ok x.2 :=
  of_reads (by decide)

theorem test_decode_9 : ∀ x ∈ ([
    (0xA02F_0300_0003_C000, .dld (sb 0 (reg 47 3 0 0 0 1))),
    (0xA100_0320_0001_DC00, .dsv (reg 0 3 32 0 0 0)),
    (0xA220_2122_0001_DC00, .mma (reg 32 33 34 0 0 0)),
    (0xA320_2122_0001_DC00, .mmab (reg 32 33 34 0 0 0)),
    (0xA420_2122_0001_DC00, .mmas (reg 32 33 34 0 0 0)),
    (0xA500_0000_0007_DC00, .mwait (reg 0 0 0 0 0 3)),
    (0xA605_0000_0001_C400, .mprog (sb 1 (reg 5 0 0 0 0 0))),
    (0xA720_0000_0001_DC00, .mzero (reg 32 0 0 0 0 0)),
    (0xA800_0000_0001_DC00, .halt (reg 0 0 0 0 0 0))] : List (Dbl × Instr)), decode .compositor false x.1 = .ok x.2 :=
  of_reads (by decide)

/-- The words of Tables 15.11, 16.7 and 16.20, and others that the entries print. -/
theorem test_decode_printed : ∀ x ∈ ([
    (0xCB68_0000_0001_DC20, .icmpImm (imm 0x68 0 32)), (0x8000_0000_0000_1C0D, .bra { imm 0 0 13 with gp := 0#3 }),
    (0x6102_0160_0049_DC09, .st (mem 2 1 3 0 9 7 9)), (0x6004_0120_0049_C009, .ld (mem 4 1 1 0 9 0 9)),
    (0x520C_04C5_0005_DC09, .shfl (reg 12 4 0xC5 0 9 2)), (0x540D_0400_0701_DC09, .redux (reg 13 4 0 7 9 0)),
    (0x2204_0200_0009_DC0A, .lea (reg 4 2 0 0 10 4)), (0x6108_0401_0069_DC09, .st (mem 8 4 0 512 13 7 9))] : List (Dbl × Instr)),
    decode .vector false x.1 = .ok x.2 := of_reads (by decide)

/-- A paired word: `iadd v10, v2, v4` beside `fmul.ftz v11, v3, v4` (Tables 13.8, 13.9). -/
theorem test_decode_pair : decode .vector true 0x00A0_8400_38B0_C404 = .ok (.pairedWord
    { hop := 0x00#6, d := 10#6, a := 2#6, b := 4#6, lu := 0#2, hmod := 0#6 } { hop := 0x0E#6, d := 11#6, a := 3#6, b := 4#6, lu := 0#2, hmod := 4#6 }) := by
  rfl

/-- The header of Table 16.20: CLASS 0, COUNT 3. -/
theorem test_header : parseHeader 0xF0C0_0000_0000_0000 = some
    { cls := 0#2, count := 3#4, pairmap := 0#16, wait := 0#6, join := false, yield := false, stall := 0#30 } := by decide

/-- An unassigned code, and a header code, are no words (R253). -/
theorem test_unassigned : decode .vector false 0x2C00_0000_0001_DC00 = .error (.unassigned 0x2C#8) ∧
    decode .vector false 0xF000_0000_0001_DC00 = .error .headerCode := ⟨rfl, rfl⟩


/-! Witnesses: the hypotheses of each statement, met together by a concrete state and operands -/

/-- Page tables that map every VA below 2^36 to itself, all rights, at PA 0x4000 and 0x8000; the frame descriptors at PA 0x1000000; frame 1
locked with a clause of four words at its start. -/
def paged (s : State) : State :=
  { s with hub := { s.hub with ptroot := 0x4001#64 :: s.hub.ptroot.drop 1, fdtBase := 0x1000000#64 },
           mem := { s.mem with phys := [(0x4000, 1#8), (0x4008, 2#8), (0x8000, 0xFB#8), (0x8001, 0x80#8), (0x10006, 0xC0#8), (0x10007, 0xF0#8),
                                        (0x100000A, 0x80#8)] } }

/-- A warp whose scratch is 64 KiB at the start of its cluster's store. -/
def scratch : State := on warp fun c => { c with segs := c.segs.set 1 { base := 0#64, limit := 0x10000#32, en := true } }

theorem fst_none {α β : Type} {x : α × Option β} (h : x.2.isNone = true) : ∃ a, x = (a, none) :=
  ⟨x.1, by cases x with | mk a b => cases b <;> simp_all⟩

theorem witness_EncodeDecodeAgree : Instr.layout (.nop (reg 0 0 0 0 0 0)) ≠ .event ∧ (Instr.nop (reg 0 0 0 0 0 0)).wf .vector = true := by decide
theorem witness_EncodingsReadBack : decode .vector false 0x040A_0204_0001_DC08 = .ok (.iadd (reg 10 2 4 0 8 0)) := of_reads (l := [(_, _)])
  (by decide) _ (List.mem_singleton.2 rfl)

/-- A lane whose clause has `iadd` next. -/
def adding : State := State.reset.withFetchWord 64 0x040A_0204_0001_DC08
theorem witness_StepRunsDecodedWord : ∃ (cl : Clause) (c : Ctx) (h : Header), adding.stalled = false ∧
    (adding.lane (laneKey 0 0)).clause = some cl ∧ adding.ctx? (ctxKey 0 0 cl.bind) = some c ∧ parseHeader cl.header = some h ∧
    cl.words[cl.pos - 1]? = some 0x040A_0204_0001_DC08 ∧
    decode c.cls (h.paired cl.pos) 0x040A_0204_0001_DC08 = .ok (.iadd (reg 10 2 4 0 8 0)) ∧ adding.agenda = [] ∧ adding.issuer = some (0, 0) ∧
    ({ adding with agenda := [.lane 0 0] } : State).agenda = .lane 0 0 :: [] :=
  ⟨_, _, _, rfl, rfl, rfl, rfl, rfl, witness_EncodingsReadBack, rfl, rfl, rfl⟩
theorem witness_StepRunsEvents : ∃ s : State, s.agenda = .event (.detect 0 0) :: [] ∧ (Instr.detect 0 0).layout = .event ∧ s.rel.fullFreeze = false ∧
    ∃ t : State, t.agenda = .tick 1 1 :: [] ∧ t.rel.fullFreeze = true :=
  ⟨{ State.reset with agenda := [.event (.detect 0 0)] }, rfl, rfl, rfl,
   { State.reset with agenda := [.tick 1 1], rel := { State.reset.rel with fullFreeze := true } }, rfl, rfl⟩
theorem witness_PlacedWordRuns : parseHeader 0x040A_0204_0001_DC08#64 = none ∧
    decodeTableWord 64 (0x040A_0204_0001_DC08#64 : Dbl).toNat = some (.iadd (reg 10 2 4 0 8 0)) := by decide

/-- A path at PA 0x10000, in a locked frame. -/
def fetching : State := onPath (paged warp) fun p => { p with pc := 0x10000#64 }
theorem witness_ClauseHoldsFetchedWords : ∃ c p, fetching.ctx? 0 = some c ∧ c.key = 0 ∧ c.path? 0 = some p ∧ c.symbolic = false ∧ p.start = 0 ∧
    (match (fetching.fetchHeader c.requester c.cls p.pc) with | (_, .header _ h) => h.n == 4 | _ => false) = true ∧
    (match ((fetching.fetchHeader c.requester c.cls p.pc).1.fetchWords c.requester 4 (p.pc.toNat + 8) []) with
      | (_, .words ws) => ws.length == 4 | _ => false) = true ∧
    (match fetching.fetchWord c.requester 0x10000 with | (_, .words ws) => ws == [0xF0C0_0000_0000_0000#64] | _ => false) = true :=
  ⟨_, _, rfl, rfl, rfl, rfl, rfl, by decide, by decide, by decide⟩

/-! Computed words -/

def computedA : List Instr :=
  [.and (reg 10 2 4 0 9 0), .andImm (imm 10 2 7), .bfe (reg 10 2 4 0 8 0), .bfi (reg 10 2 4 6 9 0), .brev (reg 10 2 0 0 9 0), .clz (reg 10 2 0 0 9 0),
   .ctz (reg 10 2 0 0 9 0), .cvt (reg 10 2 0 0 8 0), .fadd (reg 10 2 4 0 0 0), .faddImm (imm 10 2 7), .fsub (reg 10 2 4 0 0 0),
   .fmul (reg 10 2 4 0 0 0), .fmulImm (imm 10 2 7), .ffma (reg 10 2 4 6 0 0), .fscale (reg 10 2 4 0 0 0), .fround (reg 10 2 0 0 0 0),
   .fmin (reg 10 2 4 0 0 0), .fminImm (imm 10 2 7), .fmax (reg 10 2 4 0 0 0), .fmaxImm (imm 10 2 7), .fclass (reg 10 2 0 0 0 0),
   .fcmp (reg 3 2 4 0 0 0), .fdiv (reg 10 2 4 0 0 0), .frcp (reg 10 2 0 0 0 0), .frsq (reg 10 2 0 0 0 0), .fsqrt (reg 10 2 0 0 0 0),
   .fexp2 (reg 10 2 0 0 0 0), .flog2 (reg 10 2 0 0 0 0), .fsin (reg 10 2 0 0 0 0), .fcos (reg 10 2 0 0 0 0), .ftanh (reg 10 2 0 0 0 0)]
def computedB : List Instr :=
  [.fdot2 (reg 10 2 4 6 1 0), .fdot4 (reg 10 2 4 6 3 0), .lgdot4 (reg 10 2 4 6 5 0), .hadd2 (reg 10 2 4 0 1 0), .hmul2 (reg 10 2 4 0 1 0),
   .hfma2 (reg 10 2 4 6 1 0), .iadd (reg 10 2 4 0 8 0), .iaddImm (imm 10 2 7), .isub (reg 10 2 4 0 8 0), .isubImm (imm 10 2 7),
   .iadd3 (reg 10 2 4 6 8 0), .imul (reg 10 2 4 0 8 0), .imulImm (imm 10 2 7), .imulhi (reg 10 2 4 0 8 0), .imad (reg 10 2 4 6 8 0),
   .imadw (reg 10 2 4 6 8 0), .iabs (reg 10 2 0 0 8 0), .imin (reg 10 2 4 0 8 0), .iminImm (imm 10 2 7), .imax (reg 10 2 4 0 8 0),
   .imaxImm (imm 10 2 7), .idiv (reg 10 2 4 0 8 0), .irem (reg 10 2 4 0 8 0), .icmp (reg 3 2 4 0 8 0), .icmpImm (imm 3 2 7),
   .lea (reg 10 2 4 0 9 0), .lop3 (reg 10 2 4 6 0 0), .mov (reg 10 2 0 0 9 0), .movi (imm 10 0 7), .movhi (imm 10 2 7)]
def computedC : List Instr :=
  [.nop (reg 0 0 0 0 0 0), .not (reg 10 2 0 0 9 0), .or (reg 10 2 4 0 9 0), .orImm (imm 10 2 7), .xor (reg 10 2 4 0 9 0), .xorImm (imm 10 2 7),
   .popc (reg 10 2 0 0 9 0), .shl (reg 10 2 4 0 9 0), .shlImm (imm 10 2 7), .shr (reg 10 2 4 0 9 0), .shrImm (imm 10 2 7), .sar (reg 10 2 4 0 9 0),
   .sarImm (imm 10 2 7), .shf (reg 10 2 4 6 9 0), .prmt (reg 10 2 4 6 9 0), .sel (reg 10 2 4 1 9 0), .pack (reg 10 2 4 0 1 0),
   .unpack (reg 10 2 0 0 1 0), .pand (reg 3 1 2 0 0 0)]
/-- The words whose results are functions of their operands, one of each constructor. -/
def computed : List Instr := computedA ++ computedB ++ computedC
theorem witness_ComputedWordsComplete : ∀ i ∈ computed, (∃ f, aluFn i = some f) ∧ ∃ u, Issues warp i u ∧ u.symbolic = false ∧ activeOf u i ≠ 0#32 := by
  have h : (computed.all fun i => (aluFn i).isSome && plain warp i) = true := by decide
  intro i hi
  have := List.all_eq_true.1 h i hi
  simp only [Bool.and_eq_true] at this
  exact ⟨Option.isSome_iff_exists.1 this.1, plain_spec this.2⟩

/-- A trunk whose row v2 holds a form that differs from item to item, and whose predicate p0 is a range. -/
def trunk : State :=
  (on warp fun c => { c with kind := .trunk, forms := [(2, .form { b := 0#64, c0 := 4#64, c1 := 0#64, c2 := 0#64, c3 := 0#64 })],
                             sp := [(0, .range 0 0 3 false)] }).changeLane 0 fun l =>
    { l with clause := l.clause.map fun c => { c with stage := some { forms := [], sp := [], s := [], flags := 0#32, dead := [] } } }
theorem witness_ComputedWordsKeepForms :
    (∃ u, Issues trunk (.iadd (reg 10 2 2 0 8 0)) u ∧ u.symbolic = true ∧ u.sguard (.iadd (reg 10 2 2 0 8 0)) = .uni true ∧
      ((aluFn (.iadd (reg 10 2 2 0 8 0))).bind fun f => (u.ctx.sym u.clause.stage).alu (.iadd (reg 10 2 2 0 8 0)) f).isSome = true) ∧
    (∃ u, Issues trunk (.idiv (reg 10 2 4 0 8 0)) u ∧ u.symbolic = true ∧
      ((aluFn (.idiv (reg 10 2 4 0 8 0))).bind fun f => (u.ctx.sym u.clause.stage).alu (.idiv (reg 10 2 4 0 8 0)) f).isNone = true) ∧
    (∃ u, Issues trunk (.iadd { reg 10 2 2 0 8 0 with gp := 0#3 }) u ∧ u.symbolic = true ∧
      u.sguard (.iadd { reg 10 2 2 0 8 0 with gp := 0#3 }) = .range 0 0 3 false) :=
  ⟨issues _ (by decide), issues _ (by decide), issues _ (by decide)⟩
theorem witness_WarpWordsMaterialise : Claims.materialises (.ballot (reg 10 0 0 1 0 0)) = true ∧
    ∃ u, Issues trunk (.ballot (reg 10 0 0 1 0 0)) u ∧ u.symbolic = true :=
  ⟨by decide, issues _ (by decide)⟩
theorem witness_SystemWordsOfTrunks :
    (∃ u, Issues trunk (.frz (reg 0 0 0 0 0 0)) u ∧ (u.symbolic = true ∧ u.path.mask ≠ 0#32 ∧ u.sguard (.frz (reg 0 0 0 0 0 0)) = .uni true)) ∧
    (∃ u, Issues trunk (.frz { reg 0 0 0 0 0 0 with gp := 0#3 }) u ∧ (u.symbolic = true ∧
      u.sguard (.frz { reg 0 0 0 0 0 0 with gp := 0#3 }) = .range 0 0 3 false)) ∧
    (∃ u, Issues trunk (.frz { reg 0 0 0 0 0 0 with gn := 1#1 }) u ∧ (u.symbolic = true ∧
      u.sguard (.frz { reg 0 0 0 0 0 0 with gn := 1#1 }) = .uni false)) ∧
    (∃ u, Issues trunk (.bmode (reg 10 0 0 0 0 0)) u ∧ (u.symbolic = true ∧ u.sguard (.bmode (reg 10 0 0 0 0 0)) = .uni true ∧
      ((u.ctx.sym u.clause.stage).value (.src 1) 0#8).isSome = true ∧ slotsOf u.path.mask = 0 :: (slotsOf u.path.mask).drop 1)) ∧
    (∃ u, Issues trunk (.bmode (reg 10 2 0 0 0 0)) u ∧ (u.symbolic = true ∧
      (u.ctx.sym u.clause.stage).value (.src 1) 2#8 = none)) :=
  ⟨issues _ (by decide +kernel), issues _ (by decide +kernel), issues _ (by decide +kernel), issues _ (by decide +kernel), issues _ (by decide +kernel)⟩
theorem witness_ComputedUnscaled : (reg 10 2 4 6 3 0).modAt 21 1 = 0 ∧ (reg 10 2 4 0 9 0).modAt 22 2 = 0 := by decide

theorem witness_ComputedResultReadsBack : warp.mem.store.wf = true ∧ ∃ u, Issues warp (.iadd (reg 10 2 4 0 8 0)) u ∧ (u.ctx.symbolic = false ∧
    u.ctx.isComp = false ∧ (Instr.iadd (reg 10 2 4 0 8 0)).rules.var = false ∧ (Instr.iadd (reg 10 2 4 0 8 0)).rules.d = .dst 1 ∧
    (Instr.iadd (reg 10 2 4 0 8 0)).codes.1 = 10#8 ∧ (activeOf u (.iadd (reg 10 2 4 0 8 0))).getLsbD 31 = true) :=
  ⟨by decide, issues _ (by decide)⟩
theorem witness_ComputedPredicateReadsBack : ∃ u, Issues warp (.icmp (reg 3 2 4 0 8 0)) u ∧ (u.ctx.symbolic = false ∧
    (Instr.icmp (reg 3 2 4 0 8 0)).rules.var = false ∧ (Instr.icmp (reg 3 2 4 0 8 0)).dKind = .predDst) := issues _ (by decide)
theorem witness_CompositorResultReadsBack : ∃ u, Issues comp (.iadd (reg 10 2 4 0 10 0)) u ∧ (u.ctx.isComp = true ∧ u.path.mask = 1#32 ∧
    (Instr.iadd (reg 10 2 4 0 10 0)).rules.var = false ∧ (Instr.iadd (reg 10 2 4 0 10 0)).rules.d = .dst 2 ∧
    activeOf u (.iadd (reg 10 2 4 0 10 0)) = 1#32) := issues _ (by decide)
/-- A lane with two words in its clause. -/
def twoWords : State := warp.changeLane 0 fun l => { l with clause := l.clause.map fun c => { c with words := c.words ++ c.words } }
theorem witness_VariableLatencyWordIsInFlight : ∃ u, Issues twoWords (.idiv (sb 0 (reg 10 2 4 0 8 0))) u ∧ (u.ctx.symbolic = false ∧
    u.ctx.isComp = false ∧ (Instr.idiv (sb 0 (reg 10 2 4 0 8 0))).rules.var = true ∧ u.clause.pos < u.clause.words.length ∧
    (Instr.idiv (sb 0 (reg 10 2 4 0 8 0))).sbField < 6 ∧ u.ctx.sb.length = 6 ∧
    u.actSlots (.idiv (sb 0 (reg 10 2 4 0 8 0))) (activeOf u (.idiv (sb 0 (reg 10 2 4 0 8 0)))) ≠ [] ∧
    (Instr.idiv (sb 0 (reg 10 2 4 0 8 0))).rules.d = .dst 1) := issues _ (by decide)

/-! Words across slots, moves and pairs -/

/-- Words of a warp whose statements ask for no more than that they issue at some slot. -/
def plainWords : List Instr :=
  [.ballot (reg 10 1 0 0 9 0), .vote (reg 3 1 0 0 0 0), .vote (reg 3 1 0 0 0 1), .vote (reg 3 1 0 0 0 2), .matchEq (reg 10 2 0 0 9 0),
   .shfl (reg 12 4 0xC5 0 9 0), .shfl (reg 12 4 0xC5 0 9 1), .shfl (reg 12 4 0xC5 0 9 2), .shfl (reg 12 4 0xC5 0 9 3), .redux (reg 10 4 0 7 9 0),
   .scan (reg 8 4 0 2 9 16), .isect (reg 10 2 4 0xC5 9 0), .bexp (reg 10 2 0 0 3 0), .segrd (reg 12 0 0 0 9 1), .rdwp (reg 10 0 0 0 10 3),
   .rdsr (reg 10 5 0 0 9 0), .rdsr (reg 10 0x11 0 0 9 1), .pmov (reg 0 2 0 0 1 0x7F), .pmov (reg 10 0 0 0 0 0x7F), .idx (imm 10 0 3),
   .fdot4 (reg 10 2 4 6 3 0x10), .lgdot4 (reg 10 2 4 6 5 0x10),
   .pairedWord { hop := 0x00#6, d := 10#6, a := 2#6, b := 4#6, lu := 0#2, hmod := 0#6 } { hop := 0x0E#6, d := 11#6, a := 3#6, b := 4#6, lu := 0#2, hmod := 4#6 },
   .yield (reg 0 0 0 0 0 0), .join (reg 0 0 0 0 0 0), .trapSet (imm 1 4 0), .psig (reg 0 2 4 0 0 0), .trap (imm 0 0 77), .pref (mem 0 4 0 64 0 7 0),
   .fence (reg 0 0 0 0 0 0), .tret (reg 0 0 0 0 0 0), .rgrow (reg 10 2 0 0 0 0), .rshrink (reg 10 2 0 0 0 0), .segld (reg 0 4 0 0 9 1), .mark (imm 0 0 0x21),
   .srd (reg 10 2 0 0 9 0), .srw (reg 0 2 4 0 9 0), .bmode (reg 10 2 4 0 9 0), .frz (reg 0 0 0 0 0 0), .nop (reg 0 0 0 0 0 0), .fclass (reg 10 2 0 0 0 0),
   .exit (reg 0 0 0 0 0 0), .halt (reg 0 0 0 0 0 0)]
/-- BallotAndVoteComplete, MatchCompletes, ShflCompletes, FoldsComplete, ReadsOfSpecialStateComplete, clauses of MovesAndPairsComplete,
ClauseWordsComplete, CacheWordsComplete, FenceCompletes, TretReturns, RegisterGrowthCompletes, SegldAndMarkComplete, SystemWordsAct,
NopChangesNothing, YieldEndsClause, FloatClassAndOrder. -/
theorem witness_plainWords : ∀ i ∈ plainWords, ∃ u, Issues warp i u ∧ u.symbolic = false ∧ activeOf u i ≠ 0#32 :=
  fun i hi => plain_spec (List.all_eq_true.1 (by decide : plainWords.all (plain warp) = true) i hi)
theorem witness_clausePlaces : (∃ u, Issues twoWords (.nop (reg 0 0 0 0 0 0)) u ∧ (u.symbolic = false ∧ u.clause.pos < u.clause.words.length)) ∧
    (∃ u, Issues warp (.nop (reg 0 0 0 0 0 0)) u ∧ (u.symbolic = false ∧ u.clause.words.length ≤ u.clause.pos)) ∧
    (∃ u, Issues trunk (.yield (reg 0 0 0 0 0 0)) u ∧ u.symbolic = true) ∧
    (Instr.nop (reg 0 0 0 0 0 0)).wf .vector = true ∧ (Instr.yield (reg 0 0 0 0 0 0)).wf .vector = true :=
  ⟨issues _ (by decide), issues _ (by decide), issues _ (by decide), by decide, by decide⟩
theorem witness_ReduxMinidx : ([(0, 5), (1, 3), (7, 3)] : List (Nat × Nat)).map (·.1) |>.Pairwise (· < ·) := by decide
theorem witness_SpecialRegistersHold : ∃ c : Ctx, c.trap = none ∧ ∃ x, ({ c with trap := some x } : Ctx).trap = some x :=
  match h : warp.ctx? 0 with
  | some c => ⟨c, by cases h; rfl, ⟨0#8, 0#64, 0#5, 0#64, 0#64, 0#32, 0#4, 0#64, false, 0, 0⟩, rfl⟩
  | none => by cases h
/-- `mov v10, v[2 + s5]` and `mov v[10 + s5], v2`, s5 zero. -/
theorem witness_MovesAndPairs :
    (∃ u, Issues warp (.mov (reg 10 2 0 0xC5 9 0x20)) u ∧ (u.symbolic = false ∧ (reg 10 2 0 0xC5 9 0x20).modAt 22 2 = 1 ∧
      activeOf u (.mov (reg 10 2 0 0xC5 9 0x20)) ≠ 0#32 ∧ movIndex (reg 10 2 0 0xC5 9 0x20) (u.ctx.readS 5) = (2, 10) ∧ 10 < 8 * u.ctx.map.length)) ∧
    (∃ u, Issues warp (.mov (reg 10 2 0 0xC5 9 0x40)) u ∧ (u.symbolic = false ∧ (reg 10 2 0 0xC5 9 0x40).modAt 22 2 = 2 ∧
      activeOf u (.mov (reg 10 2 0 0xC5 9 0x40)) ≠ 0#32 ∧ movIndex (reg 10 2 0 0xC5 9 0x40) (u.ctx.readS 5) = (2, 10) ∧ 10 < 8 * u.ctx.map.length)) ∧
    (reg 10 2 4 6 3 0x10).modAt 21 1 = 1 :=
  ⟨issues _ (by decide), issues _ (by decide), by decide⟩


/-! Transfers, ends of clauses, traps -/

/-- A branch to the next clause, one to another frame, a call, a return, an indexed branch to address 0x10000 with v4:v5 holding it. -/
def far : State := (List.range 32).foldl (fun s t => setV s t 4 0x10000) (onPath (paged warp) fun p => { p with stack := [0x10000#64] })
theorem witness_Transfers :
    (∃ u, Issues warp (.bra (imm 0 0 16)) u ∧ (u.symbolic = false ∧ activeOf u (.bra (imm 0 0 16)) ≠ 0#32 ∧
      sameFrame (directTarget u (imm 0 0 16)) u.clause.pc = true)) ∧
    (∃ u, Issues far (.bra (imm 0 0 0x2000)) u ∧ (u.symbolic = false ∧ activeOf u (.bra (imm 0 0 0x2000)) ≠ 0#32 ∧
      sameFrame (directTarget u (imm 0 0 0x2000)) u.clause.pc = false ∧
      (far.checkTarget u (activeOf u (.bra (imm 0 0 0x2000))) (directTarget u (imm 0 0 0x2000))).2.isNone = true)) ∧
    (∃ u, Issues far (.call (imm 0 0 16)) u ∧ (u.symbolic = false ∧ activeOf u (.call (imm 0 0 16)) ≠ 0#32 ∧ u.path.stack.length < 16 ∧
      sameFrame (directTarget u (imm 0 0 16)) u.clause.pc = true)) ∧
    (∃ u, Issues far (.ret (reg 0 0 0 0 0 0)) u ∧ (u.symbolic = false ∧ activeOf u (.ret (reg 0 0 0 0 0 0)) ≠ 0#32 ∧ u.path.stack = [0x10000#64] ∧
      (far.checkTarget u (activeOf u (.ret (reg 0 0 0 0 0 0))) 0x10000#64).2.isNone = true)) ∧
    (∃ u, Issues far (.brx (reg 0 4 0 0 0 0)) u ∧ (u.symbolic = false ∧ activeOf u (.brx (reg 0 4 0 0 0 0)) ≠ 0#32 ∧
      (far.checkTargets u (activeOf u (.brx (reg 0 4 0 0 0 0))) (targetsOf (fun x => far.argA u (.brx (reg 0 4 0 0 0 0)) x)
        (slotsOf (activeOf u (.brx (reg 0 4 0 0 0 0)))))).2.isNone = true)) :=
  ⟨issues _ (by decide +kernel), issues _ (by decide +kernel), issues _ (by decide +kernel), issues _ (by decide +kernel), issues _ (by decide +kernel)⟩
theorem witness_CallDepth :
    (∃ u, Issues (onPath warp fun p => { p with stack := List.replicate 16 0#64 }) (.call (imm 0 0 16)) u ∧ (u.symbolic = false ∧
      activeOf u (.call (imm 0 0 16)) ≠ 0#32 ∧ 16 ≤ u.path.stack.length)) ∧
    (∃ u, Issues warp (.ret (reg 0 0 0 0 0 0)) u ∧ (u.symbolic = false ∧ activeOf u (.ret (reg 0 0 0 0 0 0)) ≠ 0#32 ∧ u.path.stack = [])) :=
  ⟨issues _ (by decide +kernel), issues _ (by decide +kernel)⟩
/-- Guarded by p0, which is 0 at every slot. -/
theorem witness_EmptyTransfers : ∀ i ∈ ([.bra { imm 0 0 16 with gp := 0#3 }, .call { imm 0 0 16 with gp := 0#3 }, .brx { reg 0 4 0 0 0 0 with gp := 0#3 },
      .ret { reg 0 0 0 0 0 0 with gp := 0#3 }, .trap { imm 0 0 7 with gp := 0#3 }, .trapSet { imm 1 4 0 with gp := 0#3 }] : List Instr),
    ∃ u, Issues warp i u ∧ (u.symbolic = false ∧ activeOf u i = 0#32) := by
  intro i hi
  have h : ([.bra { imm 0 0 16 with gp := 0#3 }, .call { imm 0 0 16 with gp := 0#3 }, .brx { reg 0 4 0 0 0 0 with gp := 0#3 },
      .ret { reg 0 0 0 0 0 0 with gp := 0#3 }, .trap { imm 0 0 7 with gp := 0#3 }, .trapSet { imm 1 4 0 with gp := 0#3 }] : List Instr).all
    (fun i => passes warp i fun u => decide (u.symbolic = false ∧ activeOf u i = 0#32)) = true := by decide
  exact issues _ (List.all_eq_true.1 h i hi)
/-- A group under pre-emption whose context runs its pre-emption handler. -/
def yielding : State :=
  let s := on warp fun c => { c with pre := .handler, trap := some ⟨7#8, 0#64, 0#5, 0#64, 0#64, 0#32, 0xF#4, 0#64, false, 0, 0⟩ }
  { s with work := { s.work with units := [{ node := 0, group := 1, since := some 0, forced := false, growth := false }] } }
theorem witness_ClauseWords :
    (∃ u, Issues yielding (.psig (reg 0 2 4 0 0 0)) u ∧ (u.symbolic = false ∧ slotsOf (activeOf u (.psig (reg 0 2 4 0 0 0))) ≠ [] ∧
      u.ctx.trap.map (·.code) = some 0x07#8 ∧ u.ctx.pre = .handler ∧ yielding.underPreemption u.ctx = true ∧ (yielding.node? u.ctx.node).isSome = true)) ∧
    (∃ u, Issues warp (.psig (reg 0 2 4 0 0 0)) u ∧ (u.symbolic = false ∧ u.ctx.pre = .none)) ∧
    (∃ u, Issues comp (.halt (reg 0 0 0 0 0 0)) u ∧ u.ctx.isComp = true) :=
  ⟨issues _ (by decide +kernel), issues _ (by decide +kernel), issues _ (by decide +kernel)⟩
theorem witness_SlotEnds :
    (∃ u, Issues warp (.exit (reg 0 0 0 0 0 0)) u ∧ (u.symbolic = false ∧ u.ctx.log = [] ∧ warp.mem.merge = [])) ∧
    (∃ u, Issues (on warp fun c => { c with p := c.p.put 0 1#32 }) (.tail { reg 0 0 0 0 0 0 with gp := 0#3 }) u ∧ (u.symbolic = false ∧
      u.ctx.log = [] ∧ u.ctx.live &&& ~~~activeOf u (.tail { reg 0 0 0 0 0 0 with gp := 0#3 }) ≠ 0#32)) ∧
    (∃ u, Issues warp (.tail (reg 0 0 0 0 0 0)) u ∧ (u.symbolic = false ∧ u.ctx.log = [] ∧
      u.ctx.live &&& ~~~activeOf u (.tail (reg 0 0 0 0 0 0)) = 0#32 ∧ (warp.work.trackers.filter fun x => x.cluster == u.ctx.cluster).length < 16)) ∧
    (∃ u, Issues warp (.halt (reg 0 0 0 0 0 0)) u ∧ u.ctx.isComp = false) :=
  ⟨issues _ (by decide +kernel), issues _ (by decide +kernel), issues _ (by decide +kernel), issues _ (by decide +kernel)⟩
/-- A warp with a trap handler; one at user level; one of a single granule; one that holds a trap of a precise word. -/
def handled : State := on warp fun c => { c with thand := 0x10000#64 }
def user : State := on handled fun c => { c with priv := false }
def small : State := on handled fun c => { c with map := [0] }
def held (code : BitVec 8) (word : BitVec 5) (log : BitVec 4) : State :=
  on handled fun c => { c with trap := some { code := code, pc := 0#64, word := word, addr := 0#64, bva := 0#64, mask := 1#32, log := log, ret := 16#64 } }
theorem witness_TrapsEnterHandler :
    (∃ u, Issues handled (.trap (imm 0 0 77)) u ∧ (u.symbolic = false ∧ activeOf u (.trap (imm 0 0 77)) ≠ 0#32 ∧ u.ctx.trap = none ∧ u.ctx.thand ≠ 0#64)) ∧
    (∃ u, user.issuing (.halt (reg 0 0 0 0 0 0)) = some u ∧ u.ctx.stopped = false ∧ u.ctx.trap = none ∧ u.ctx.thand ≠ 0#64 ∧
      (Instr.halt (reg 0 0 0 0 0 0)).rules.priv = true ∧ u.ctx.priv = false ∧ u.cls = .vector) ∧
    (∃ u, small.issuing (.iadd (reg 10 2 4 0 8 0)) = some u ∧ u.ctx.stopped = false ∧ u.ctx.trap = none ∧ u.ctx.thand ≠ 0#64 ∧
      (Instr.iadd (reg 10 2 4 0 8 0)).rules.priv = false ∧ activeOf u (.iadd (reg 10 2 4 0 8 0)) ≠ 0#32 ∧ u.ridx (.iadd (reg 10 2 4 0 8 0)) = true) :=
  ⟨issues _ (by decide +kernel), ⟨_, rfl, by decide +kernel⟩, ⟨_, rfl, by decide +kernel⟩⟩
theorem witness_TrapWithoutHandler :
    (∃ u, Issues warp (.trap (imm 0 0 77)) u ∧ (u.symbolic = false ∧ activeOf u (.trap (imm 0 0 77)) ≠ 0#32 ∧ u.ctx.thand = 0#64 ∧
      (warp.work.nodes.look u.ctx.node).map (·.code) = some 0#8)) ∧
    (∃ u, Issues (held 1 1 0xF) (.trap (imm 0 0 77)) u ∧ (u.ctx.trap.isSome = true ∧ ((held 1 1 0xF).work.nodes.look u.ctx.node).map (·.code) = some 0#8)) :=
  ⟨issues _ (by decide +kernel), issues _ (by decide +kernel)⟩
/-- A warp with a logged load, delivered to its handler. -/
def logged : State :=
  let e : LogEntry := { serial := 0, word := .ld (mem 4 1 1 0 9 0 9), reqs := [], path := 0, pc := 0#64, pos := 1, sb := 0, state := .held, code := 0x18#8,
                        addr := 0#64, bva := 0#64, mask := 1#32, active := 1#32, guarded := 1#32 }
  on (held 0x18 1 0) fun c => { c with log := [(0, e)], sb := c.sb.set 0 1 }
theorem witness_TretReturns :
    (∃ u, Issues (held 1 1 0xF) (.tret (reg 0 0 0 0 0 0)) u ∧ (u.symbolic = false ∧
      (u.ctx.trap.map fun x => decide (x.word ≠ 0#5 ∧ x.log = 0xF#4 ∧ x.code ≠ 0x06#8 ∧ x.code ≠ 0x07#8)) = some true)) ∧
    (∃ u, Issues warp (.tret (reg 0 0 0 0 0 0)) u ∧ u.ctx.trap = none) ∧
    (∃ u, Issues logged (.tret (reg 0 0 0 0 0 1)) u ∧ (u.symbolic = false ∧ (reg 0 0 0 0 0 1).modAt 17 1 = 1 ∧
      (u.ctx.trap.map fun x => decide (x.log ≠ 0xF#4 ∧ x.code ≠ 0x06#8 ∧ ((u.ctx.log.look x.log.toNat).map fun e => decide (e.sb < 6)) = some true)) = some true)) :=
  ⟨issues _ (by decide +kernel), issues _ (by decide +kernel), issues _ (by decide +kernel)⟩

/-! Words with operands in memory -/

/-- Slot 0 alone is live: words act on one request. -/
def one (s : State) : State := on (onPath s fun p => { p with mask := 1#32 }) fun c => { c with launched := 1#32 }
/-- Bank 0 of cluster 0 in FIFO mode, its segment enabled, two words waiting. -/
def fifo : State :=
  let s := one (on warp fun c => { c with segs := c.segs.set 5 { base := 0#64, limit := 0x10000#32, en := true } })
  { s with eng := { s.eng with bank := [(0, 3#32)], fifo := [(0, [(5#32, false), (6#32, false)])] } }
/-- Bank 0 of cluster 0 in scratch mode. -/
def scr (s : State) : State := { s with eng := { s.eng with bank := [(0, 1#32)] } }
/-- v4 of slot 0 set to 0x30000, a frame without a locked page. -/
def data : State := one (setV (paged warp) 0 4 0x30000)

theorem witness_LoadsComplete :
    (∃ u reqs, Acts scratch (.ld (mem 4 1 1 0 9 0 9)) u (mem 4 1 1 0 9 0 9).offset reqs ∧ ((mem 4 1 1 0 9 0 9).oen = 0#1 ∧
      (mem 4 1 1 0 9 0 9).seg.toNat ≠ 5 ∧ u.ctx.windowWaits 1 reqs = false ∧ (scratch.targetsFrom u.ctx 1 4 .read false reqs [] []).2.2 = [] ∧
      ((scratch.targetsFrom u.ctx 1 4 .read false reqs [] []).1.loadAll u.ctx (scratch.targetsFrom u.ctx 1 4 .read false reqs [] []).2.1).2.2 = none)) ∧
    (∃ u reqs, Acts data (.ld { mem 4 4 0 0 9 0 9 with oen := 1#1, ord := 3#2, osc := 5#3 }) u 0 reqs ∧ (u.ctx.windowWaits 0 reqs = false ∧
      data.releaseWaits u.ctx = false ∧ (data.targetsFrom u.ctx 0 4 .read false reqs [] []).2.2 = [] ∧
      (((data.targetsFrom u.ctx 0 4 .read false reqs [] []).1.fenceBy u.ctx 3 5).loadAll u.ctx (data.targetsFrom u.ctx 0 4 .read false reqs [] []).2.1).2.2 = none)) ∧
    (∃ u reqs, Acts fifo (.ld (mem 4 1 5 0 9 0 9)) u (mem 4 1 5 0 9 0 9).offset reqs ∧ (u.ctx.windowWaits 5 reqs = false ∧
      (fifo.fifoBanks u.ctx false 4 reqs).2 = [] ∧
      batchFits (fifo.fifoBanks u.ctx false 4 reqs).1 4 (fun b => (fifo.fifo u.ctx.cluster b).length) = true ∧
      (fifo.popBatch u.ctx 4 (fifo.fifoBanks u.ctx false 4 reqs).1).2.2 = false)) ∧
    (∃ u reqs, Acts data (.ldm (mem 6 4 0 0 9 3 9)) u (mem 6 4 0 0 9 3 9).offset reqs ∧ ((∀ r ∈ reqs, spaceOf r.addr ≠ .shadow ∧ spaceOf r.addr = spaceOf (r.addr + 3)) ∧
      (data.targetsFrom u.ctx 0 1 .read false reqs [] []).2.2 = [])) :=
  ⟨acts _ _ (by decide +kernel), acts _ _ (by decide +kernel), acts _ _ (by decide +kernel), acts _ _ (by decide +kernel)⟩
theorem witness_StoresComplete :
    (∃ u reqs, Acts scratch (.st (mem 8 1 1 0 9 7 9)) u (mem 8 1 1 0 9 7 9).offset reqs ∧ (u.ctx.windowWaits 1 reqs = false ∧
      (scratch.targetsFrom u.ctx 1 4 .write false reqs [] []).2.2 = [])) ∧
    (∃ u reqs, Acts fifo (.st (mem 8 1 5 0 9 7 9)) u (mem 8 1 5 0 9 7 9).offset reqs ∧ (u.ctx.windowWaits 5 reqs = false ∧
      (fifo.fifoBanks u.ctx true 4 reqs).2 = [] ∧
      batchFits (fifo.fifoBanks u.ctx true 4 reqs).1 4 (fun b => 8192 - (fifo.fifo u.ctx.cluster b).length) = true)) ∧
    (∃ u reqs, Acts { data with mem := { data.mem with phys := data.mem.phys ++ [(0x100001A, 0x40#8)] } } (.stm (mem 6 4 0 0 9 7 9)) u 0 reqs ∧
      (reqs.length = 1 ∧ (∀ r ∈ reqs, spaceOf r.addr ≠ .shadow ∧ spaceOf r.addr = spaceOf (r.addr + 3)) ∧ (data.targetsFrom u.ctx 0 1 .write false reqs [] []).2.2 = [] ∧
      (({ data with mem := { data.mem with phys := data.mem.phys ++ [(0x100001A, 0x40#8)] } } : State).metaOf (.phys 0x30000)).2 = 28)) :=
  ⟨acts _ _ (by decide +kernel), acts _ _ (by decide +kernel), acts _ _ (by decide +kernel)⟩
/-- The last four bytes of the scratch, a boundary of both clauses. -/
def edge : State := setV (one scratch) 0 1 0xFFFC
theorem witness_ScratchBytes :
    edge.mem.store.wf = true ∧
    (∃ u reqs, Acts edge (.st (mem 8 1 1 0 9 7 9)) u (mem 8 1 1 0 9 7 9).offset reqs ∧ (reqs.length = 1 ∧ u.ctx.isComp = false ∧ edge.overfull u.ctx.core = false ∧ (u.ctx.seg 1).en = true ∧
      reqs.map (·.addr) = [0xFFFC] ∧ 0xFFFC + typeBytes 9 ≤ (u.ctx.seg 1).limit.toNat)) ∧
    (∃ u reqs, Acts (edge.changeLane 0 fun l => { l with clause := l.clause.map fun c => { c with words := c.words ++ c.words } }) (.ld (mem 4 1 1 0 9 0 9)) u
      (mem 4 1 1 0 9 0 9).offset reqs ∧ (reqs.length = 1 ∧ u.ctx.isComp = false ∧ reqs.map (·.addr) = [0xFFFC] ∧
      0xFFFC + typeBytes 9 ≤ (u.ctx.seg 1).limit.toNat ∧ u.clause.pos < u.clause.words.length ∧ (mem 4 1 1 0 9 0 9).sb.toNat < 6)) :=
  ⟨by decide +kernel, acts _ _ (by decide +kernel), acts _ _ (by decide +kernel)⟩
theorem witness_AtomicsComplete :
    (∃ u reqs, Acts data (.atom (reg 8 4 6 0 9 0)) u 0 reqs ∧ ((data.targetsFrom u.ctx 0 4 .atomic true reqs [] []).2.2 = [] ∧
      (Instr.atom (reg 8 4 6 0 9 0)).memSeg = 0 ∧ atomBytes (reg 8 4 6 0 9 0) = 4)) ∧
    (∃ u reqs, Acts data (.red (reg 0 4 6 0 9 5)) u 0 reqs ∧ ((data.targetsFrom u.ctx 0 4 .atomic true reqs [] []).2.2 = [] ∧
      (Instr.red (reg 0 4 6 0 9 5)).memSeg = 0)) ∧
    (∃ u reqs, Acts data (.scat (reg 0 4 6 0 9 0)) u 0 reqs ∧ (data.targetsFrom u.ctx 0 4 .atomic true reqs [] []).2.2 = []) :=
  ⟨acts _ _ (by decide +kernel), acts _ _ (by decide +kernel), acts _ _ (by decide +kernel)⟩
/-- A load beyond the limit of SEG.S: code 0x10 goes to software. -/
theorem witness_FaultedLoadIsLogged : ∃ u reqs, Acts (setV (one (scratch.changeLane 0 fun l => { l with clause := l.clause.map fun c =>
      { c with words := c.words ++ c.words } })) 0 1 0x10000) (.ld (mem 4 1 1 0 9 0 9)) u 0 reqs ∧ (reqs.length = 1 ∧ u.ctx.windowWaits 1 reqs = false ∧
      ((setV (one scratch) 0 1 0x10000).targetsFrom u.ctx 1 4 .read false reqs [] []).2.1 = [] ∧
      (((setV (one scratch) 0 1 0x10000).targetsFrom u.ctx 1 4 .read false reqs [] []).2.2.map fun x =>
        (x.2.code, decide ((setV (one scratch) 0 1 0x10000).resolver u.ctx.tenant x.2 = .software))) = [(0x10, true)] ∧
      u.clause.pos < u.clause.words.length) := acts _ _ (by decide +kernel)
theorem witness_CacheWords :
    (∃ u, Issues data (.cinv (reg 0 4 0 0 0 0)) u ∧ (u.symbolic = false ∧ slotsOf (activeOf u (.cinv (reg 0 4 0 0 0 0))) = [0] ∧
      ((data.cacheTarget u.ctx (data.argA u (.cinv (reg 0 4 0 0 0 0)) 0)).map fun g => (g.shadow, g.bytes.take 1)) = some (none, [.phys 0x30000]))) ∧
    (∃ u, Issues data (.cwb (reg 0 4 0 0 0 0)) u ∧ (u.symbolic = false ∧ slotsOf (activeOf u (.cwb (reg 0 4 0 0 0 0))) = [0])) :=
  ⟨issues _ (by decide +kernel), issues _ (by decide +kernel)⟩


/-! Barriers, objects, chains, the matrix unit -/

theorem witness_GroupBarriers :
    (∃ u, Issues warp (.gang (reg 10 0 0 0 0 0)) u ∧ (u.symbolic = false ∧ warp.releaseWaits u.ctx = false ∧
      ((warp.releaseCore u.ctx 2).gangKey u.ctx).isSome = true ∧ ((warp.releaseCore u.ctx 2).gangOf u.ctx).isSome = true)) ∧
    (∃ u, Issues warp (.gbar (reg 0 0 0 0 0 0)) u ∧ (u.symbolic = false ∧ (reg 0 0 0 0 0 0).modAt 17 1 = 0 ∧ warp.releaseWaits u.ctx = false ∧
      u.ctx.group.isSome = true ∧ ((warp.releaseCore u.ctx 1).groupOf u.ctx).isSome = true)) ∧
    (∃ u, Issues warp (.gbar (reg 0 2 0 0 0 1)) u ∧ (u.symbolic = false ∧ (reg 0 2 0 0 0 1).modAt 17 1 = 1 ∧
      (slotsOf (activeOf u (.gbar (reg 0 2 0 0 0 1)))).take 1 = [0] ∧ (warp.gangKey u.ctx).isSome = true ∧
      ((warp.gangOf u.ctx).map fun g => decide (((warp.argA u (.gbar (reg 0 2 0 0 0 1)) 0).setWidth 32 : Word) = g.gen)) = some true ∧
      warp.releaseWaits u.ctx = false)) ∧
    (∃ u, Issues (setV warp 0 2 7) (.gbar (reg 0 2 0 0 0 1)) u ∧ (u.symbolic = false ∧
      (slotsOf (activeOf u (.gbar (reg 0 2 0 0 0 1)))).take 1 = [0] ∧
      (((setV warp 0 2 7).gangOf u.ctx).map fun g => decide ((((setV warp 0 2 7).argA u (.gbar (reg 0 2 0 0 0 1)) 0).setWidth 32 : Word) = g.gen))
        = some false)) ∧
    (∃ u, Issues warp (.nbar (reg 0 2 4 0 0 0)) u ∧ (u.symbolic = false ∧ (slotsOf (activeOf u (.nbar (reg 0 2 4 0 0 0)))).take 1 = [0] ∧
      warp.releaseWaits u.ctx = false ∧ u.ctx.group.isSome = true ∧ warp.mem.merge = [] ∧ (warp.groupOf u.ctx).isSome = true)) :=
  ⟨issues _ (by decide +kernel), issues _ (by decide +kernel), issues _ (by decide +kernel), issues _ (by decide +kernel), issues _ (by decide +kernel)⟩
/-- The counts at which the clauses of NamedBarrierCounts meet. -/
theorem witness_NamedBarrierCounts : ({ exp := 0, cnt := 0, gen := 0#32 } : Named).cnt = 0 ∧ min 32 1024 ≤ 32 ∧ 31 < min 32 1024 ∧
    0 < ({ exp := 64, cnt := 32, gen := 0#32 } : Named).cnt ∧ ({ exp := 64, cnt := 32, gen := 0#32 } : Named).exp ≤ 32 + 32 ∧
    32 + 31 < ({ exp := 64, cnt := 32, gen := 0#32 } : Named).exp := by decide
/-- Scratch in a bank of scratch mode; its object at offset 0 has phase 0. -/
def objects : State := (scr scratch).changeGroup 1 fun g => { g with kib := 64 }
theorem witness_ObjectWords :
    (∃ u reqs, Acts objects (.binit (reg 0 1 4 0 0 0)) u 0 reqs ∧ ((reqs.head?.map fun r => (objects.objectAt u.ctx false r.addr.toNat).isSome) = some true)) ∧
    (∃ u reqs, Acts objects (.barv (reg 0 1 4 0 0 0)) u 0 reqs ∧ (objects.releaseWaits u.ctx = false ∧
      (reqs.head?.map fun r => ((objects.objectAt u.ctx false r.addr.toNat).map fun k => (objects.releaseCore u.ctx 2).ownScratch u.ctx k)) = some (some true))) ∧
    (∃ u reqs, Acts objects (.btest (reg 10 1 4 0 0 0)) u 0 reqs ∧
      ((reqs.head?.map fun r => (objects.objectAt u.ctx false r.addr.toNat).map fun k => decide (objects.objPhase k = r.b.getLsbD 0)) = some (some true))) ∧
    (∃ u reqs, Acts (setV objects 0 4 1) (.btest (reg 10 1 4 0 0 0)) u 0 reqs ∧
      ((reqs.head?.map fun r => ((setV objects 0 4 1).objectAt u.ctx false r.addr.toNat).map fun k => decide ((setV objects 0 4 1).objPhase k = r.b.getLsbD 0))
        = some (some false))) ∧
    (∃ u, Issues objects (.bwait (reg 10 1 4 0 0 0)) u ∧ (u.symbolic = false ∧ (slotsOf (activeOf u (.bwait (reg 10 1 4 0 0 0)))).take 1 = [0] ∧
      (objects.objectAt u.ctx false ((objects.argA u (.bwait (reg 10 1 4 0 0 0)) 0).toNat % 2 ^ 32)).isSome = true)) :=
  ⟨acts _ _ (by decide +kernel), acts _ _ (by decide +kernel), acts _ _ (by decide +kernel), acts _ _ (by decide +kernel), issues _ (by decide +kernel)⟩
/-- An object with expectation 2: one byte, two bytes, three bytes. -/
def counted : State := State.reset.initObj { recorder := 0, tenant := 0, kind := 0, ctx := 0 } 0 2
theorem witness_BarrierObjects : counted.mem.store.wf = true ∧ counted.objArr 0 + 1 < counted.objExp 0 ∧ counted.objExp 0 = counted.objArr 0 + 2 ∧
    counted.objExp 0 < counted.objArr 0 + 3 ∧ 3 < 2 ^ 32 := by decide +kernel
/-- Page tables, scratch, a descriptor of zeros at 0x30000 in v4, a size of 64 bytes in v6. -/
def copying : State := setV (setV (one ((scr { paged scratch with eng := warp.eng }).changeGroup 1 fun g => { g with kib := 64 })) 0 4 0x30000) 0 6 64
theorem witness_AsynchronousWords :
    (∃ u reqs, Acts copying (.cpy (reg 4 4 6 1 0 0)) u 0 reqs ∧ ((reg 4 4 6 1 0 0).modAt 17 2 = 0 ∧
      (reqs.head?.map fun r => decide ((copying.objectAt u.ctx ((reg 4 4 6 1 0 0).modAt 21 1 == 1) (r.c.toNat % 2 ^ 32)).isSome ∧
        r.b.toNat % 2 ^ 32 ≠ 0)) = some true ∧ (copying.chan u.ctx.cluster ((reg 4 4 6 1 0 0).modAt 19 2)).queue.length < 16 ∧
      copying.releaseWaits u.ctx = false)) ∧
    (∃ u reqs, Acts copying (.cpyt (reg 0 4 0 0 0 0)) u 0 reqs ∧ (reqs ≠ [] ∧
      (copying.chan u.ctx.cluster ((reg 0 4 0 0 0 0).modAt 19 2)).queue.length < 16 ∧ copying.releaseWaits u.ctx = false)) ∧
    (∀ i ∈ ([.gath (reg 0 4 0 0 0 0), .psel (reg 0 4 0 0 0 0)] : List Instr), ∃ u reqs, Acts copying i u 0 reqs ∧ (reqs.length = 1 ∧
      ∀ r ∈ reqs, r.a.toNat % 64 = 0 ∧
        match copying.targetsFrom u.ctx 0 16 .read false ((List.range 4).map fun j => { r with addr := ((r.a.toNat + 16 * j : Nat) : Int) }) [] [] with
        | (s1, ts, fs) => fs = [] ∧ (s1.readRecords u.ctx ts).2 = List.replicate 64 0#8 ∧
          ((s1.readRecords u.ctx ts).1.objectAt u.ctx false 0).isSome = true ∧ ((s1.readRecords u.ctx ts).1.gathers u.ctx.cluster).length < 16 ∧
          (s1.readRecords u.ctx ts).1.releaseWaits u.ctx = false)) := by
  refine ⟨acts _ _ (by decide +kernel), acts _ _ (by decide +kernel), ?_⟩
  intro i hi
  simp only [List.mem_cons, List.not_mem_nil, or_false] at hi
  rcases hi with rfl | rfl
  · exact acts _ _ (by decide +kernel)
  · exact acts _ _ (by decide +kernel)
/-- Chain 0 a device chain of sixteen entries, empty; the same chain full. -/
def chained : State := ((one warp).setCcb 0 0 0x40000).setCcb 0 8 0x104
def full : State := chained.setCcb 0 0x10 16
theorem witness_ChappReserves :
    (chained.mem.phys.wf = true ∧ full.mem.phys.wf = true) ∧
    (∃ u reqs, Acts chained (.chapp (reg 4 2 0 0 0 0)) u 0 reqs ∧ (reqs.length = 1 ∧ ∀ r ∈ reqs, chained.chainBad u.ctx true r.addr.toNat = false ∧
      chained.chainTail r.addr.toNat - chained.chainSeq r.addr.toNat ≠ chained.chainRing r.addr.toNat ∧ chained.chainTail r.addr.toNat < 2 ^ 64 - 1)) ∧
    (∃ u reqs, Acts full (.chapp (reg 4 2 0 0 0 0)) u 0 reqs ∧ (reqs.length = 1 ∧ ∀ r ∈ reqs, full.chainBad u.ctx true r.addr.toNat = false ∧
      full.chainTail r.addr.toNat - full.chainSeq r.addr.toNat = full.chainRing r.addr.toNat)) :=
  ⟨by decide +kernel, acts _ _ (by decide +kernel), acts _ _ (by decide +kernel)⟩
theorem witness_ChainReads :
    (∃ u reqs, Acts chained (.chsq (reg 4 2 0 0 10 0)) u 0 reqs ∧ (reqs ≠ [] ∧ ∀ r ∈ reqs, chained.chainBad u.ctx false r.addr.toNat = false)) ∧
    (∃ u, Issues chained (.sqwait (reg 10 2 4 0 0 0)) u ∧ (u.symbolic = false ∧ slotsOf (activeOf u (.sqwait (reg 10 2 4 0 0 0))) = [0] ∧
      chained.chainBad u.ctx false ((chained.argA u (.sqwait (reg 10 2 4 0 0 0)) 0).toNat % 2 ^ 32) = false)) ∧
    (∃ u reqs, Acts chained (.tsub (reg 8 2 4 0 10 0)) u 0 reqs ∧ (reqs.length = 1 ∧ chained.releaseWaits u.ctx = false ∧
      ∀ r ∈ reqs, chained.chainBad u.ctx true r.addr.toNat = false ∧ ((chained.releaseCore u.ctx 5).reserve u.ctx r.addr.toNat).2.isSome = true)) :=
  ⟨acts _ _ (by decide +kernel), issues _ (by decide +kernel), acts _ _ (by decide +kernel)⟩
/-- A compositor program with scratch in a bank of scratch mode; in slot 1 a record of an `mzero` of eight rows and columns. -/
def compScr : State := scr (comp.changeCtx 4096 fun c => { c with segs := c.segs.set 1 { base := 0x40#64, limit := 0x40#32, en := true } })
theorem witness_DescriptorWords :
    compScr.mem.store.wf = true ∧
    (∀ i ∈ ([.dld (reg 1 2 0 0 0 1), .dsv (reg 0 2 1 0 0 1)] : List Instr), ∃ u reqs, Acts compScr i u 0 reqs ∧ (reqs.map (·.addr) = [0] ∧
      u.ctx.isComp = true ∧ compScr.overfull u.ctx.core = false ∧ (u.ctx.seg 1).en = true ∧ (u.ctx.seg 1).base.toNat = 0x40 ∧ 0 + 64 ≤ (u.ctx.seg 1).limit.toNat ∧
      bankMode (compScr.bankWord u.ctx.cluster 0) = 1 ∧ bankState (compScr.bankWord u.ctx.cluster 0) = 0)) := by
  refine ⟨by decide +kernel, ?_⟩
  intro i hi
  simp only [List.mem_cons, List.not_mem_nil, or_false] at hi
  rcases hi with rfl | rfl
  · exact acts _ _ (by decide +kernel)
  · exact acts _ _ (by decide +kernel)
/-- A matrix record: base, CTL, strides, rows, columns, AUX. -/
def rec_ (base ctl stride rows cols aux : Nat) : Slot512 :=
  BitVec.ofNat 512 (base + aux * 2 ^ 64 + ctl * 2 ^ 256 + stride * 2 ^ 320 + rows * 2 ^ 416 + cols * 2 ^ 448)
/-- C of 8 by 8 f32 in slot 1, A of 8 by 32 and B of 32 by 8 in f16 in slots 2 and 3, all in scratch; slot 4 is zero. -/
def mats : State := scr (comp.changeCtx 4096 fun c => { c with d :=
  [(1, rec_ 0 0x885 32 8 8 0), (2, rec_ 0x400 0x800 64 8 32 0x2000), (3, rec_ 0x800 0x840 16 32 8 0)] })
/-- A word of three records, with slot `d` for C. -/
def mm (d : Nat) : RegWord := reg d 2 3 0 0 0
theorem witness_MatrixWords :
    (∀ x ∈ ([(.mma (mm 1), .dense), (.mmab (mm 1), .block), (.mmas (mm 1), .sparse)] : List (Instr × MatForm)), ∃ u, Issues mats x.1 u ∧ (activeOf u x.1 ≠ 0#32 ∧
      mats.okMat u.ctx.cluster x.2 (matDesc (u.ctx.readD 1)) (matDesc (u.ctx.readD 2)) (matDesc (u.ctx.readD 3)) = true ∧
      (mats.matrix u.ctx.cluster).queue.length < 4 ∧ mats.releaseWaits u.ctx = false)) ∧
    (∃ u, Issues mats (.mzero (reg 1 0 0 0 0 0)) u ∧ (activeOf u (.mzero (reg 1 0 0 0 0 0)) ≠ 0#32 ∧
      mats.okC u.ctx.cluster (matDesc (u.ctx.readD 1)) = true)) ∧
    (∃ u, Issues mats (.mma (mm 4)) u ∧ (activeOf u (.mma (mm 4)) ≠ 0#32 ∧
      mats.okMat u.ctx.cluster .dense (matDesc (u.ctx.readD 4)) (matDesc (u.ctx.readD 2)) (matDesc (u.ctx.readD 3)) = false)) ∧
    (∃ u, Issues comp (.mwait (reg 0 0 0 0 0 3)) u ∧ activeOf u (.mwait (reg 0 0 0 0 0 3)) ≠ 0#32) ∧
    (∃ u, Issues comp (.mprog (reg 5 0 0 0 10 0)) u ∧ activeOf u (.mprog (reg 5 0 0 0 10 0)) ≠ 0#32) := by
  refine ⟨?_, issues _ (by decide +kernel), issues _ (by decide +kernel), issues _ (by decide +kernel), issues _ (by decide +kernel)⟩
  intro x hx
  simp only [List.mem_cons, List.not_mem_nil, or_false] at hx
  rcases hx with rfl | rfl | rfl
  · exact issues _ (by decide +kernel)
  · exact issues _ (by decide +kernel)
  · exact issues _ (by decide +kernel)

/-! Registers of the context and of the device, pages and views -/

/-- Growth by 23 granules, the most a lane of one context of one granule could grant; beyond 24; by zero; and a warp of 8 granules whose
group's other contexts hold the rest of the lane. -/
def grows (n : Nat) (held : Nat) : State := setV (on warp fun c => { c with map := List.range held }) 0 2 n
def shared : State := match (grows 8 2).ctx? 0 with
  | some c => (grows 8 2).putCtx { c with bind := 1, uid := 9, map := (List.range 24).map (8 + ·) }
  | none => grows 8 2
theorem witness_RegisterGrowth :
    (∃ u, Issues shared (.rgrow (reg 4 2 0 0 0 0)) u ∧ (u.ctx.map.length + 8 ≤ 24 ∧ (shared.argA u (.rgrow (reg 4 2 0 0 0 0)) 0).toNat = 8 ∧
      32 < u.ctx.map.length + 8 + shared.groupGranules u.ctx)) ∧
    (∃ u, Issues (grows 24 1) (.rgrow (reg 4 2 0 0 0 0)) u ∧ (u.symbolic = false ∧ (slotsOf (activeOf u (.rgrow (reg 4 2 0 0 0 0)))).take 1 = [0] ∧
      24 < u.ctx.map.length + ((grows 24 1).argA u (.rgrow (reg 4 2 0 0 0 0)) 0).toNat % 2 ^ 32)) ∧
    (∃ u, Issues (grows 0 24) (.rgrow (reg 4 2 0 0 0 0)) u ∧ (u.ctx.map.length ≤ 24 ∧ ((grows 0 24).argA u (.rgrow (reg 4 2 0 0 0 0)) 0).toNat = 0)) ∧
    (∃ u, Issues (grows 2 2) (.rgrow (reg 4 2 0 0 0 0)) u ∧ (u.ctx.map.length + 2 ≤ 24 ∧
      ((grows 2 2).argA u (.rgrow (reg 4 2 0 0 0 0)) 0).toNat = 2 ∧ u.ctx.map.length + 2 + (grows 2 2).groupGranules u.ctx ≤ 32)) ∧
    (∃ u, Issues (setV warp 0 2 0) (.rshrink (reg 4 2 0 0 0 0)) u ∧ (u.symbolic = false ∧
      max 1 (((setV warp 0 2 0).argA u (.rshrink (reg 4 2 0 0 0 0)) 0).toNat % 2 ^ 32) = 1)) :=
  ⟨issues _ (by decide +kernel), issues _ (by decide +kernel), issues _ (by decide +kernel), issues _ (by decide +kernel), issues _ (by decide +kernel)⟩
/-- v2 of slot 0 holds an address of the register space: READY, PWR.LIMIT, nothing, a bank of the own cluster. -/
def regs (a : Nat) : State := setV (one warp) 0 2 a
theorem witness_SystemWords :
    (∃ u, Issues (regs 0x18) (.srd (reg 4 2 0 0 10 0)) u ∧ (u.symbolic = false ∧ slotsOf (activeOf u (.srd (reg 4 2 0 0 10 0))) = [0] ∧
      regAt (some u.ctx.cluster) ((regs 0x18).argA u (.srd (reg 4 2 0 0 10 0)) 0).toNat = some .ready ∧ RegName.ready.wide = ((reg 4 2 0 0 10 0).fmt == 0xA#4) ∧
      u.ctx.priv = true)) ∧
    (∃ u, Issues (regs 0x500000) (.srd (reg 4 2 0 0 10 0)) u ∧ (slotsOf (activeOf u (.srd (reg 4 2 0 0 10 0))) = [0] ∧
      regAt (some u.ctx.cluster) ((regs 0x500000).argA u (.srd (reg 4 2 0 0 10 0)) 0).toNat = none)) ∧
    (∃ u, Issues (on (regs 0x38) fun c => { c with priv := false }) (.srd (reg 4 2 0 0 10 0)) u ∧ (slotsOf (activeOf u (.srd (reg 4 2 0 0 10 0))) = [0] ∧
      regAt (some u.ctx.cluster) ((on (regs 0x38) fun c => { c with priv := false }).argA u (.srd (reg 4 2 0 0 10 0)) 0).toNat = some .pwr ∧
      u.ctx.priv = false ∧ RegName.pwr.userRead u.ctx.tenant = false)) ∧
    (∃ u, Issues (regs 0x38) (.srw (reg 0 2 4 0 10 0)) u ∧ (u.symbolic = false ∧ slotsOf (activeOf u (.srw (reg 0 2 4 0 10 0))) = [0] ∧
      regAt (some u.ctx.cluster) ((regs 0x38).argA u (.srw (reg 0 2 4 0 10 0)) 0).toNat = some .pwr ∧ RegName.pwr.wide = ((reg 0 2 4 0 10 0).fmt == 0xA#4))) :=
  ⟨issues _ (by decide +kernel), issues _ (by decide +kernel), issues _ (by decide +kernel), issues _ (by decide +kernel)⟩
/-- The last bank and the last mode, and the first number beyond each; a bank in scratch mode; one that drains. -/
theorem witness_BankRequest : (511 < 512 ∨ 3 < 0) ∧ (511 < 511 ∨ 3 < 4) ∧ 511 ≤ 511 ∧ 3 ≤ 3 ∧ bankState (bankWordOf 0 1 1) ≠ 0 ∧ bankState (State.reset.bankWord 127 511) = 0 ∧
    bankMode (State.reset.bankWord 127 511) = 0 ∧ bankMode (State.reset.bankWord 127 511) ≠ 3 := by decide +kernel
theorem witness_RegisterWrites : Writer.device ≠ .root ∧ (1#64 : Dbl).setWidth 32 ≠ 0#32 ∧ 800 ≤ 2400 := by decide
/-- A recorder that has stopped, one with room, a full one. -/
theorem witness_GalleyKeepsNewest : Recorder.fresh.recs.length < ringCap 0 ∧ Recorder.fresh.stopped = false ∧
    (List.replicate (ringCap 0) ({ cls := 0, code := 0#8, tenant := 0, cyc := 0#32, kind := 0, ctx := 0, payload := 0#64 } : Rec)).length = ringCap 0 :=
  ⟨by decide, rfl, List.length_replicate ..⟩

/-- v4 a page, v6 another, v8 their new state; slots 0-15 belong to tenant 0; the descriptor of a view of 32 words at 0x30000. -/
def viewing : State :=
  let s := setV (setV data 0 6 0x50000) 0 8 0x30000
  let m := (s.mem.phys.pokeNum 0x30000 8 0x60000).pokeNum 0x30008 8 0x8E00010200
  let m := m.pokeNum 0x30010 24 (32 + 2 ^ 32 + 2 ^ 64 + 2 ^ 96 + 2 ^ 128 + 2 ^ 160)
  { s with hub := { s.hub with vquota := s.hub.vquota.set 0 0x100000#32 }, mem := { s.mem with phys := m } }
/-- The same range as the page of 2^36 bytes that maps it. -/
def range : State := setV (setV (setV (setV data 0 4 0) 0 6 0) 0 7 16) 0 8 1
theorem witness_PageWords :
    (∀ k ∈ [0, 1, 2], ∃ u reqs, Acts viewing (.tlbi (reg 0 4 0 0 0 (16 * k))) u 0 reqs ∧ (reqs.length = 1 ∧ (reg 0 4 0 0 0 (16 * k)).modAt 21 2 = k ∧
      ∀ r ∈ reqs, r.a.toNat < 2 ^ 56)) ∧
    (∃ u reqs, Acts viewing (.pgattr (reg 10 4 6 8 0 0)) u 0 reqs ∧ (reqs.length = 1 ∧ ∀ r ∈ reqs, spaceOf (r.a.toNat : Int) ≠ .shadow ∧
      (viewing.pgattrBad r.a.toNat r.b.toNat r.c.toNat 0 (viewing.rangePages 0 (r.a.toNat + r.b.toNat) (r.b.toNat / 65536 + 1) r.a.toNat)).isSome = true)) ∧
    (∃ u reqs, Acts range (.pgattr (reg 10 4 6 8 0 0)) u 0 reqs ∧ (reqs.length = 1 ∧ ∀ r ∈ reqs,
      range.pgattrBad r.a.toNat r.b.toNat r.c.toNat 0 (range.rangePages 0 (r.a.toNat + r.b.toNat) (r.b.toNat / 65536 + 1) r.a.toNat) = none)) ∧
    (∃ u reqs, Acts viewing (.pshare (reg 10 4 6 0 0 0)) u 0 reqs ∧ (reqs.length = 1 ∧ ∀ r ∈ reqs, spaceOf (r.a.toNat : Int) ≠ .shadow ∧
      spaceOf (r.b.toNat : Int) ≠ .shadow)) ∧
    (∃ u reqs, Acts viewing (.prel (reg 10 4 0 0 0 0)) u 0 reqs ∧ (reqs.length = 1 ∧ ∀ r ∈ reqs, spaceOf (r.a.toNat : Int) ≠ .shadow)) := by
  refine ⟨?_, acts _ _ (by decide +kernel), acts _ _ (by decide +kernel), acts _ _ (by decide +kernel), acts _ _ (by decide +kernel)⟩
  intro k hk
  simp only [List.mem_cons, List.not_mem_nil, or_false] at hk
  rcases hk with rfl | rfl | rfl
  · exact acts _ _ (by decide +kernel)
  · exact acts _ _ (by decide +kernel)
  · exact acts _ _ (by decide +kernel)
/-- A node of tenant 0 whose footprint names slot 0. -/
def busy : State := { viewing with work := { viewing.work with nodes := viewing.work.nodes.map fun (k, n) => (k, { n with slots := [0], state := .running }) } }
theorem witness_ViewWords :
    (∃ u reqs, Acts viewing (.vset (reg 10 2 4 0 0 0)) u 0 reqs ∧ (reqs.length = 1 ∧ ∀ r ∈ reqs, viewing.slotOwner (r.a.toNat % 2 ^ 32) = some u.ctx.tenant ∧
      r.b.toNat % 128 = 0 ∧ viewing.slotBusy u.ctx.tenant (r.a.toNat % 2 ^ 32) = false ∧
      match viewing.targetsFrom u.ctx 0 16 .read false (eightReqs r r.b) [] [] with
      | (s1, ts, fs) => fs = [] ∧
        ((s1.readRecords u.ctx ts).1.peerMessage u.ctx ts).viewCheck (doublesOf (s1.readRecords u.ctx ts).2 16) = none)) ∧
    (∃ u reqs, Acts data (.vclr (reg 10 2 0 0 0 0)) u 0 reqs ∧ (∀ r ∈ reqs, data.slotOwner (r.a.toNat % 2 ^ 32) ≠ some u.ctx.tenant)) ∧
    (∃ u reqs, Acts viewing (.vclr (reg 10 2 0 0 0 0)) u 0 reqs ∧ (reqs.length = 1 ∧ ∀ r ∈ reqs, viewing.slotOwner (r.a.toNat % 2 ^ 32) = some u.ctx.tenant ∧
      viewing.slotBusy u.ctx.tenant (r.a.toNat % 2 ^ 32) = false)) ∧
    (∃ u reqs, Acts busy (.vclr (reg 10 2 0 0 0 0)) u 0 reqs ∧ (reqs.length = 1 ∧ ∀ r ∈ reqs, busy.slotOwner (r.a.toNat % 2 ^ 32) = some u.ctx.tenant ∧
      busy.slotBusy u.ctx.tenant (r.a.toNat % 2 ^ 32) = true)) ∧
    (∃ u reqs, Acts viewing (.vinfo (reg 0 8 2 0 0 0)) u 0 reqs ∧ (reqs.length = 1 ∧ ∀ r ∈ reqs, viewing.slotOwner (r.b.toNat % 2 ^ 32) = some u.ctx.tenant ∧
      r.a.toNat % 128 = 0 ∧ match viewing.targetsFrom u.ctx 0 16 .write false (eightReqs r r.a) [] [] with
      | (s1, ts, fs) => fs = [] ∧ ts.length = 8 ∧ ((ts.zipIdx).foldl (fun s x => s.storeTarget u.ctx.storer x.1.2 (List.replicate 16 0#8) []) s1).overfull u.ctx.core = false)) :=
  ⟨acts _ _ (by decide +kernel), acts _ _ (by decide +kernel), acts _ _ (by decide +kernel), acts _ _ (by decide +kernel), acts _ _ (by decide +kernel)⟩

/-! Events -/

/-- A merge line of core 0: byte 1 of line 5 written, at a-cycle 0; and a state in which 4,096 a-cycles have passed since. -/
def line : MergeLine := { core := 0, space := 0, tenant := 0, line := 5, stores := [{ off := 1, byte := 7#8, owner := 1, priv := true, bad := false }], since := 0 }
def merging (t : Nat) : State := { warp with mem := { warp.mem with merge := [line] }, aCyc := t }
theorem witness_Drains : ∃ m, (merging 4096).mergeFind 0 0 5 = some m ∧ (merging 4096).mergeNth 0 0 = some m ∧ (merging 4095).mergeNth 0 0 = some m ∧ m.since + 4096 ≤ (merging 4096).aCyc ∧
    (merging 4095).aCyc < m.since + 4096 ∧ (merging 4096).mem.phys.wf = true ∧ m.space = 0 := ⟨line, by decide⟩
theorem witness_OutsideWrites : State.reset.mem.phys.wf = true ∧ 1 ≠ State.reset.hub.peerSelf.toNat ∧ State.reset.isMemory 0 = true ∧
    State.reset.locked 0 = false ∧ (merging 0).bar2Reaches 0 = false := by decide +kernel
theorem witness_PeerReads : 1 ≠ State.reset.hub.peerSelf.toNat ∧ (∀ i, i < peerWidth 9 → State.reset.isMemory (0x100 + i) = true ∧
    State.reset.locked (0x100 + i) = false) ∧ 511 < 512 ∧ 511 ≠ State.reset.hub.peerSelf.toNat := by decide +kernel
theorem witness_PowerAndResets : 99 < 100 := by decide
/-- A freeze under way that recorder 3 started, every recorder stopped; a half-rate window at its end. -/
def freezing : State :=
  { State.reset with rel := { State.reset.rel with freezing := some (5, 3, 1), halves := [(2, 0)] } }
def frozen : State :=
  { freezing with rel := { freezing.rel with galleys := freezing.recorders.map fun r => (r, { Recorder.fresh with stopped := true }) } }
theorem witness_FreezeMakesProof :
    State.reset.rel.proof = none ∧ State.reset.rel.freezing = none ∧ (5 : Nat) ≠ 4 ∧ freezing.rel.halves.look 2 = some 0 ∧
    freezing.rel.freezing = some (5, 3, 1) ∧ ((freezing.rel.galleys.look 3).getD Recorder.fresh).stopped = false ∧ frozen.proofHeld = false ∧
    frozen.rel.freezing = some (5, 3, 1) :=
  ⟨rfl, rfl, by decide, rfl, rfl, rfl, rfl, rfl⟩
theorem look_all {α : Type} (x : α) (r : Nat) : ∀ l : List Nat, r ∈ l → Table.look (l.map fun k => (k, x)) r = some x
  | k :: l, h => by
    by_cases e : k = r
    · simp [Table.look, e]
    · simpa [Table.look, e] using look_all x r l ((List.mem_cons.1 h).resolve_left fun h => e h.symm)
theorem witness_FreezeAllStopped : ∀ r ∈ frozen.recorders, ∃ g, frozen.rel.galleys.look r = some g ∧ g.stopped = true :=
  fun r hr => by
    have e : frozen.rel.galleys = freezing.recorders.map fun k => (k, { Recorder.fresh with stopped := true }) := by simp only [frozen]
    have h : frozen.recorders = freezing.recorders := by simp only [State.recorders, State.dieDropped, State.clusterDropped, frozen]
    exact ⟨_, by rw [e]; exact look_all _ r _ (h ▸ hr), rfl⟩
/-- Mailbox 0 busy with a command. -/
def boxes (cmd : Dbl) (p : Option Proof) : State :=
  { State.reset with out := { State.reset.out with mailboxes := [(0, { cmd := cmd, busy := true, err := 0, result := 0#32, data := [] })] },
                     rel := { State.reset.rel with proof := p } }
def proof : Proof := { pseq := 1, cause := 5, origin := 3, gen := 0#16, later := 0, acked := false, recorders := [] }
theorem witness_MailboxCommands :
    (State.reset.mailbox 0).busy = false ∧ ((boxes 1#64 none).mailbox 0).busy = true ∧ (boxes 1#64 (some proof)).rel.proof = some proof ∧
    ((boxes 1#64 none).mailbox 0).cmd.toNat % 256 = 1 ∧ ((boxes 2#64 none).mailbox 0).cmd.toNat % 256 = 2 ∧
    ((boxes 2#64 none).mailbox 0).cmd.toNat / 2 ^ 32 * 4096 < proofSize ∧
    proofSize ≤ ((boxes 0xFFFFFFFF00000002#64 none).mailbox 0).cmd.toNat / 2 ^ 32 * 4096 ∧ ((boxes 3#64 none).mailbox 0).cmd.toNat % 256 = 3 := by decide +kernel

/-- Page tables of four levels of tenant 0: the leaf of VA 0 stands at 0x10000 and holds `lo`, `hi`; frame 9 is in the fast pool; a fault of
code `code` waits for VA 0. -/
def pages4 (lo hi : Nat) (code : BitVec 8) : State :=
  let m := ([(0x4000, 1), (0x4008, 2), (0x8000, 1), (0x8008, 3), (0xC000, 1), (0xC008, 4), (0x10000, lo), (0x10008, hi)] : List (Nat × Nat)).foldl
    (fun (m : Memory) x => m.pokeNum x.1 8 x.2) []
  let f : PFault := { who := .walker 0, code := code, tenant := 0, va := 0#64, addr := 0#64, access := 1, toDriver := false, queued := none }
  { State.reset with hub := { State.reset.hub with ptroot := 0x4001#64 :: State.reset.hub.ptroot.drop 1, fdtBase := 0x40000#64, fast := [9] },
                     mem := { State.reset.mem with phys := m }, eng := { State.reset.eng with faults := [(0, f)] } }
/-- A page in capacity memory; one that was never filled; one that is copied on write and whose frame has two references, or one, or none. -/
def capacity : State := pages4 0x480FB 0x1000000 0x19#8
def unfilled : State := pages4 0x20008 0 0x18#8
def cow (refs : Nat) : State :=
  let s := pages4 0xA0FB 7 0x1A#8
  { s with mem := { s.mem with phys := s.mem.phys.pokeNum (0x40000 + 56) 8 refs } }
def isLeaf (w : Walked) (p : Pte → Bool) : Bool := match w with | .leaf e 0x10000 3 => p e | _ => false
theorem witness_Resolutions :
    ((capacity.deviceFault 0 0x19#8).map (·.va)) = some 0#64 ∧ isLeaf (capacity.walk 0 0) (fun e => pteTier e == 1) = true ∧ capacity.hub.fast = [9] ∧
    (unfilled.deviceFault 0 0x18#8).isSome = true ∧ unfilled.walk 0 0 = .absent 0x10000 3 true ∧ ((cow 2).deviceFault 0 0x1A#8).isSome = true ∧
    isLeaf ((cow 2).walk 0 0) (fun e => pteCow e && decide (1 < fdtRcnt ((cow 2).fdt (pteFrame e)))) = true ∧
    isLeaf ((cow 1).walk 0 0) (fun e => pteCow e && decide (fdtRcnt ((cow 1).fdt (pteFrame e)) = 1)) = true ∧
    isLeaf ((cow 0).walk 0 0) (fun e => pteCow e && decide (fdtRcnt ((cow 0).fdt (pteFrame e)) = 0)) = true ∧
    isLeaf ((pages4 0x80FB 7 0x1A#8).walk 0 0) (fun e => !pteCow e) = true := by decide +kernel
/-- The driver's ring holds answer `a` at its position 0, which parked fault 0 waits for. -/
def answered (a : Nat) : State :=
  let f : PFault := { who := .walker 0, code := 0x14#8, tenant := 0, va := 0#64, addr := 0#64, access := 0, toDriver := true, queued := some 0 }
  { State.reset with mem := { State.reset.mem with phys := State.reset.mem.phys.pokeNum 0x18 8 a }, hub := { State.reset.hub with fqTail := 1#64 },
                     eng := { State.reset.eng with faults := [(0, f)] } }
/-- A warp whose logged load of scratch is resolved. -/
def resolved : State :=
  let r : Req := { slot := 0, addr := 0, a := 0#64, b := 0#64, c := 0#64, data := 0#128 }
  let e : LogEntry := { serial := 0, word := .ld (mem 4 1 1 0 9 0 9), reqs := [r], path := 0, pc := 0#64, pos := 1, sb := 0, state := .resolved,
                        code := 0x14#8, addr := 0#64, bva := 0#64, mask := 1#32, active := 1#32, guarded := 1#32 }
  on scratch fun c => { c with log := [(0, e)], sb := c.sb.set 0 1 }
theorem witness_AnswersAndReplays :
    State.reset.eng.faults = [] ∧ (1#64 : Dbl).toNat = (answered 1).hub.fqHead.toNat + 1 ∧ (1#64 : Dbl).toNat ≤ (answered 1).hub.fqTail.toNat ∧
    ((answered 1).answer 0).eng.faults = [] ∧ ((answered 1).eng.faults.find? fun (_, f) => f.queued == some 0).isSome = true ∧
    (answered 1).mem.phys.num ((answered 1).hub.fqBase.toNat + 32 * (0 % (answered 1).fqSize) + 0x18) 8 = 1 ∧
    (answered 2).mem.phys.num ((answered 2).hub.fqBase.toNat + 32 * (0 % (answered 2).fqSize) + 0x18) 8 = 2 ∧
    ((resolved.ctx? 0).map fun c => ((c.log.look 0).map fun e => decide (e.state = .resolved ∧ c.oldest e = true ∧ c.stopped = false) &&
      match memFn e.word with
      | some act => match act resolved { c with log := [] } e.reqs with | (_, .done _ _ none) => true | _ => false
      | none => false)) = some (some true) ∧
    ((List.map (·.1) ([(0, 8), (1, 3)] : Table Nat)).Nodup ∧ (nth State.reset.hub.hotCtl 0 0#32).toNat % 256 ≠ 0 ∧
      (nth State.reset.hub.hotCtl 0 0#32).toNat / 2 ^ 16 % 2 = 0) := by decide +kernel
/-- A word in flight on scoreboard 0; a context at a join since a-cycle 0; one with no live slot; a tracker entry of it. -/
def flying : State := on warp fun c => { c with sb := c.sb.set 0 1, inflight := [{ serial := 5, sb := 0, path := 0, writes := [.v 0 4 1#32], flags := 0#32, poison := none }] }
def joining : State := { on trunk fun c => { c with joinAt := [(c.pcOf.toNat, 0)], paths := c.paths.map fun p => { p with wait := .joining } } with aCyc := 4096 }
def ended : State :=
  let s := on warp fun c => { c with exited := 0xFFFFFFFF#32 }
  { s with work := { s.work with trackers := [{ cluster := 0, owner := 9, node := 0, group := none }] } }
theorem witness_LaneEvents :
    (!State.reset.stalled && (State.reset.lane 5).clause.isNone) = true ∧
    ((flying.ctx? 0).map fun c => !c.stopped && (c.inflight.map fun e => (e.serial, e.sb)) == [(5, 0)] && c.inflight.all (·.poison.isNone) && c.sb.length == 6) = some true ∧
    ((joining.ctx? 0).map fun c => c.joinAt.look c.pcOf.toNat == some 0 && c.atJoin && decide (0 + 4096 ≤ joining.aCyc)) = some true ∧
    ((ended.ctx? 0).map fun c => c.live == 0#32 && !c.isComp && c.inflight.isEmpty && c.log.isEmpty && !ended.storesOf c.uid && !ended.copiesOf c.uid) = some true ∧
    ((ended.work.trackers.filter fun t => t.cluster == 0)[0]?.map fun x => !ended.storesOf x.owner && !ended.copiesOf x.owner) = some true := by
  decide +kernel
/-- Lane 0 idle, its one context ready with a path of its own; a clause in progress; a lane of two ready bindings. -/
def idle : State := warp.changeLane 0 fun l => { l with clause := none }
theorem witness_Opportunities :
    (idle.stalled, (idle.lane (laneKey 0 0)).clause.isNone, (warp.lane (laneKey 0 0)).clause.isSome, State.reset.readyBinds 0) = (false, true, true, []) ∧
    ((chooseBind (idle.lane 0) (idle.readyBinds 0)).map (·.1)) = some 0 ∧
    (let s1 := (idle.finishWaits 0).mergePaths 0
     (s1.ctx? 0).map fun c => (choosePath (c.kind == .leaf) c.running (s1.readyPaths 0)).map (·.id)) = some (some 0) ∧
    (chooseBind { last := 1, yielded := false, run := 7, clause := none, latch := [] } [0, 1]).map (·.1) = some 1 ∧
    (chooseBind { last := 1, yielded := false, run := 8, clause := none, latch := [] } [0, 1]).map (·.1) = some 0 ∧
    (chooseBind { last := 1, yielded := true, run := 2, clause := none, latch := [] } [0, 1]).map (·.1) = some 0 := by decide +kernel
theorem saveLeaf_idle : ∀ b, b < 8 → (idle.ctx? (8 * 0 + b)).map (·.kind == .leaf) ≠ some true := by decide +kernel
/-- Two paths of one leaf: one that runs, one of a lower pc; one whose counter has reached 256. -/
def twoPaths (age : Nat) : List Path :=
  match warp.ctx? 0 with
  | some c => c.paths.flatMap fun p => [{ p with id := 0, pc := 64#64, mask := 1#32 }, { p with id := 1, pc := 8#64, mask := 2#32, age := age }]
  | none => []
theorem witness_ChoosePath : (choosePath true (some 0) (twoPaths 0)).map (·.id) = some 0 ∧ (choosePath false none (twoPaths 0)).map (·.id) = some 1 ∧
    (choosePath true (some 0) (twoPaths 256)).map (·.id) = some 1 ∧ ((twoPaths 256).any fun q => q.age == 256) = true ∧
    ((twoPaths 0).all fun q => q.age != 256) = true := by decide +kernel
/-- A word in flight with two writes to one register. -/
theorem witness_CommitsWriteRegisters :
    ((flying.ctx? 0).map fun c => c.key == 0 && !c.stopped && c.map.eraseDups.length == c.map.length && c.sb.length == 6 &&
      c.inflight.all fun e => e.poison.isNone && decide (Claims.lastV (e.writes ++ [.v 0 4 9#32]) 0 4 = some 9#32)) = some true ∧
    flying.mem.store.wf = true ∧ Claims.lastP [.p 3 1 true, .p 3 1 false] 3 1 = some false ∧ Claims.lastX [.mprog 5] 7#64 5 = some 7#64 ∧
    Claims.lastS [.s 4 1#32] 4 = some 1#32 ∧ Claims.lastD [] 0 = none := by decide +kernel
/-- A path that waits for the scan of frame 1, which holds a clause of no words that is no code; frame 2 is all code. -/
def scanning (f : Nat) : State :=
  let s := onPath (paged warp) fun p => { p with wait := .fetching (some f) }
  { s with eng := { s.eng with scans := [f] } }
theorem witness_CodeScan : (scanning 1).mem.phys.wf = true ∧ 1 ∈ (scanning 1).eng.scans ∧ 
    ((scanning 1).ctx? 0).map (fun c => c.paths.map (·.wait)) = some [.fetching (some 1)] ∧
    (scanFrame ((scanning 1).mem.phys.clear 0x10000 8) 1).isSome = true := by decide +kernel
/-- One limb waits for a binding; a leaf warp is saved; a warp asks for one granule; a kernel with nothing left in its box. -/
def queued : State := { State.reset with work := { State.reset.work with limbQueue :=
  [Ctx.fresh 7 .limb 0 (Node.blank .kernel) 0 0 0 { lo := quadOf fun _ => 0, hi := quadOf fun _ => 0 } [0, 1] 0#64] } }
def leafOut : State := { State.reset with work := { State.reset.work with leafSaved := queued.work.limbQueue.map fun c => { ctx := c, rows := [], bad := [] } } }
def asking : State := onPath (on warp fun c => { c with map := [0] }) fun p => { p with wait := .grow 31 4#8 1#32 0 }
def emptied : State := { State.reset with work := { State.reset.work with nodes := [(0, Node.blank .kernel)] } }
theorem witness_Placements :
    (queued.work.limbQueue.find? fun c => c.cluster == 0).map (fun c => ((queued.freeBinding 0 c.map.length).isSome, c.part)) = some (true, none) ∧
    (leafOut.work.leafSaved[0]?.map fun x => ((leafOut.freeBinds x.ctx.cluster x.ctx.lane x.ctx.map.length).contains x.ctx.bind,
      ((leafOut.groupOf x.ctx).map (·.saved)).getD false, x.ctx.paths.all (leafOut.onBarrier x.ctx))) = some (true, false, false) ∧
    ((emptied.node? 0).map fun n => (decide (0 < n.nlev), n.kind, n.state, emptied.boxDrained 0 (n.boxAt 0 0))) = some (true, .kernel, .running, true) ∧
    (emptied.mem.merge = [] ∧ emptied.eng.chans = []) ∧
    ((asking.onLane 0 0).map fun c => (c.paths.map (·.wait), c.stopped, decide (31 ≤ (asking.freeGranules 0 0).length))) = [([.grow 31 4#8 1#32 0], false, true)] := by
  decide +kernel
/-- Bank 3 of cluster 0 asked to leave mode 0 for mode 1; the bank as it fills since a-cycle 0. -/
def draining : State := { State.reset with eng := { State.reset.eng with bank := [(3, bankWordOf 0 1 1)] } }
def filling : State := { State.reset with eng := { State.reset.eng with bank := [(3, bankWordOf 0 1 2)], fill := [(3, 0)] }, aCyc := 256 }
theorem witness_BankModes : State.reset.clusterDropped 127 = false ∧ bankState (draining.bankWord 0 3) = 1 ∧ draining.bankLeft 0 3 = true ∧
    bankState (filling.bankWord 0 3) = 2 ∧ filling.eng.fill.look (512 * 0 + 3) = some 0 ∧ 0 + 256 ≤ filling.aCyc := by decide +kernel
/-- The first frame of each tier, their descriptors written. -/
def given : State := { State.reset with mem := { State.reset.mem with described := [0, 8 * fastFrames] }, hub := { State.reset.hub with fdtOn := true } }
theorem witness_RegisterEvents : regAt none (0x38#32 : Word).toNat = some .pwr ∧ RegName.pwr.wide = true ∧
    ((0#64 : Dbl).toNat % 65536 = 0 ∧ (given.frameHub 0).isSome = true ∧ decide (0 < fastFrames) = true ∧ fdtFree (given.fdt 0) = false) ∧
    ((dbl (65536 * fastFrames)).toNat / 65536 = fastFrames ∧ (given.frameHub fastFrames).isSome = true ∧ decide (fastFrames < fastFrames) = false ∧
      fdtFree (given.fdt fastFrames) = false) ∧
    fdtFree (State.reset.fdt 0) = true ∧ regAt none (0x500000#32 : Word).toNat = none ∧ 3 < State.reset.hub.hotSkip.length := by decide +kernel
/-- Slot 0 of tenant 0 holds a view of words at 0x60000, at home, or in package 3. -/
def viewed (ctl : Dbl) : State := { State.reset with
  hub := { State.reset.hub with vquota := State.reset.hub.vquota.set 0 0x100000#32 },
  eng := { State.reset.eng with views := [(0, { words := [0x60000#64, ctl, 0x100000020#64, 0x100000001#64, 0x100000001#64], asid := 0 })] } }
theorem witness_ViewRequests :
    (((viewed 0x8E00010200#64).viewAt 0 (2 ^ 56)).map fun v => (viewOf v.words).remote) = some false ∧ (viewed 0x8E00010200#64).clusterDropped 0 = false ∧
    (((viewed 0x3808E00010200#64).viewAt 0 (2 ^ 56)).map fun v => ((viewOf v.words).remote, (viewOf v.words).pkg, (viewed 0#64).peerDown (viewOf v.words).pkg))
      = some (true, 3, false) := by decide +kernel
/-- A copy of 64 bytes within the store of cluster 0, from 0x100 to 0x200; bank 0 is in scratch mode. -/
def copy : CopyOp :=
  { src := .store 0 0x100, dst := .store 0 0x200, sstride := 0, dstride := 0, rowb := 64, rows := 1, wp := 0, started := true, record := none, obj := none,
    issued := 0, node := 0, group := none, owner := 1, tenant := 0, priv := true, recorder := 0, held := false }
def copies : State := let s := scr State.reset; { s with eng := { s.eng with chans := [(0, { queue := [copy], wp := 0, count := 0 })] } }
theorem witness_CopyUnitMovesBytes :
    ((copies.chan 0 0).queue.map fun op => !op.held && op.started && op.record.isNone && op.unit == (0, 0, 64)) = [true] ∧ copies.rel.fullFreeze = false ∧
    (match (copies.walkAhead (engineRequester 0 0 true) copy.ahead).moveBytes (engineRequester 0 0 true) 0 copy.src copy.dst 0 0 64 with | (_, .done) => true | _ => false) = true ∧
    copies.mem.store.wf = true ∧ (0 < 64 ∧ 0x200 % 128 + 64 ≤ 128) := by decide +kernel

/-- A gather of one word from a vector at 0x30000 (index 0 at 0x50000) to 0x60000, none of its units done, or all; a selection that has ranked. -/
def gathering (units : List Nat) (psel : Bool) (phase : Nat) : GatherOp :=
  { psel := psel, words := [0x30000#64, 0x50000#64, 0x60000#64, 0#64, if psel then 0x20000000000#64 else 0x200000001#64, if psel then 0x100#64 else 0#64, 0#64, 0#64],
    va := 0#64, units := units, phase := phase, chosen := [], obj := none, failed := none, linkLost := false, node := 0, isNode := false, group := none, owner := 1,
    tenant := 0, priv := true, recorder := 0, held := false }
def gathers (op : GatherOp) : State := let s := paged State.reset; { s with eng := { s.eng with gathers := [(0, [op])] } }
theorem witness_GatherEvents :
    (((gathers (gathering [] false 0)).gatherHead 0).map fun op => !op.psel && op.going && unitOf op.dstAt (op.count * op.size) 0 == (0, 4) && !op.units.contains 0 &&
      (gathers op).gatherPlace op == some (.va 0x60000)) = some true ∧
    (match ((gathers (gathering [] false 0)).walkAhead (engineRequester 0 0 true) ((gathering [] false 0).ahead (0 / 4))).gatherElements
        (engineRequester 0 0 true) (gathering [] false 0) (0 / 4) ((0 + 4 - 1) / 4 + 1 - 0 / 4) [] [] with
      | (s1, .ok (bs, _)) => (match s1.engineWrite (engineRequester 0 0 true) (some 0) (.va 0x60000) 0 ((bs.drop 0).take 4) with | (_, .ok ()) => true | _ => false)
      | _ => false) = true ∧
    (((gathers (gathering [0] false 0)).gatherHead 0).map fun op => op.going && op.at_ 0x18 8 == 0 && decide (op.units.length = unitCount op.dstAt (op.count * op.size)))
      = some true ∧
    (((gathers (gathering [] true 0)).gatherHead 0).map fun op => op.psel && op.going && op.phase == 0) = some true ∧
    (((gathers (gathering [] true 1)).gatherHead 0).map fun op => op.going && op.phase == 1 && !op.copies) = some true := by decide +kernel
/-- A collective of one word from 0x50000 to 0x60000, in a package alone in its domain. -/
def collective : CollOp := { node := 0, words := [0x50000#64, 0x60000#64, 1#64, 0#64, 0#64, 0#64, 0#64, 0#64], tenant := 0, priv := true, held := false }
def colls : State := let s := paged State.reset; { s with eng := { s.eng with colls := [(1, [collective])] } }
theorem witness_CollRun : ((colls.colls 1).map (·.held)) = [false] ∧ colls.rel.fullFreeze = false ∧ colls.rel.halted = false ∧
    (∀ p, p < colls.hub.peerDom.toNat → p ≠ colls.hub.peerSelf.toNat → colls.peerDown p = false) ∧
    (match ({ colls with serial := colls.serial + 1 } : State).collLoop (hubRequester 0 1 true) collective colls.serial 0 (collective.at_ 2 * 1) with
      | (_, .ok (), n) => n == 1 | _ => false) = true := by decide +kernel
/-- An `mzero` of eight rows and columns at the head of the queue, before its start, in progress, finished. -/
def matrixOp : MatOp :=
  { form := .zero, c := BitVec.ofNat 512 (0x885 * 2 ^ 256 + 32 * 2 ^ 320 + 8 * 2 ^ 416 + 8 * 2 ^ 448), a := 0#512, b := 0#512, pc := 0#64, pos := 1, next := 16#64,
    node := 0, tenant := 0, priv := true }
def matrixAt (started finished : Bool) : State :=
  let m : Matrix := { Matrix.fresh with queue := [matrixOp], started := started, finished := finished, mprog := mprogOf 0 0 1 }
  { scr State.reset with eng := { (scr State.reset).eng with matrices := [(0, m)] } }
theorem witness_MatrixEvents :
    (((matrixAt false false).matrix 0).started = false ∧ ((matrixAt false false).matrix 0).trapped = false ∧ ((matrixAt false false).matrix 0).held = false ∧
      (matrixAt false false).rel.fullFreeze = false ∧ (matrixAt false false).rel.halted = false ∧ (matrixAt false false).rel.tooHot = false) ∧
    (((matrixAt true false).matrix 0).queue.map fun op => decide (op.form ≠ .sparse)) = [true] ∧ ((matrixAt true false).matrix 0).finished = false ∧
    (matrixAt true false).matrixFree ((matrixAt true false).matrix 0) = true ∧
    (match (matrixAt true false).passValues 0 matrixOp (bandRows 8 0 0 1) (bandCols 8 0) with | (_, .ok rows) => rows.length == 8 | _ => false) = true ∧
    ((matrixAt true true).matrix 0).finished = true ∧ (matrixAt true true).matrixFree ((matrixAt true true).matrix 0) = true := by decide +kernel
/-- Chain 0 of the host, of sixteen entries, the chip up; a device chain. -/
def hosted (ctl : Nat) : State := { (State.reset.setCcb 0 0 0x40000).setCcb 0 8 ctl with hub := { State.reset.hub with ready := 1#64 } }
theorem witness_ChainRegisters : (hosted 4).mem.phys.wf = true ∧ (hosted 4).hub.ready ≠ 0#64 ∧ (hosted 4).reaches 0 0 = true ∧ (hosted 4).reaches 1 0 = true ∧
    (hosted 4).chainDevice 0 = false ∧ (hosted 4).chainTail 0 ≤ (16#64 : Dbl).toNat ∧ (16#64 : Dbl).toNat ≤ (hosted 4).chainSeq 0 + (hosted 4).chainRing 0 ∧
    (hosted 4).chainSeq 0 + (hosted 4).chainRing 0 < (17#64 : Dbl).toNat ∧ (hosted 0x104).chainDevice 0 = true ∧ (1#64 : Dbl).getLsbD 0 = true ∧
    (hosted 4).reaches 2 255 = false := by decide +kernel
/-- One entry published on chain 0, of phase 1; it lies at VA 0x40000. -/
def published : State :=
  let s := paged State.reset
  let s := ((s.setCcb 0 0 0x40000).setCcb 0 8 4).setCcb 0 0x10 1
  { s with mem := { s.mem with phys := s.mem.phys.pokeNum 0x40008 8 1 } }
theorem witness_ChainAccept : published.chainHead 0 = 0 ∧ 0 < published.chainTail 0 ∧ published.walkerWaits 0 = false ∧
    published.work.nodes.freeBelow 4096 = some 0 ∧
    (match published.globalTarget (published.chainRequester 0) .read false ((published.chainBase 0 + 16 * (0 % published.chainRing 0) : Nat) : Int) 16 with
      | (s1, .ok t) => (match s1.readHome t with | (_, bs, _) => decide (fieldOf bs 8 8 % 2 = 1 - 0 / published.chainRing 0 % 2)) | _ => false) = true := by decide +kernel
/-- A state with one node, at f-cycle 2^21. -/
def noded (n : Node) : State := { paged State.reset with work := { State.reset.work with nodes := [(3, n)] }, fCyc := 2 ^ 21 }
def ready : Node := { Node.blank .kernel with state := .ready, prio := 2, place := 1#128 }
theorem witness_NodeEvents :
    ((noded ready).pool .kernel).map (·.1) = [3] ∧ (noded ready).placeless ready = false ∧ ((noded ready).startNode 3 ready).isSome = true ∧
    (ready.state = .ready ∧ 1 < ready.prio ∧ ready.readyAt + 2 ^ 21 ≤ (noded ready).fCyc) ∧
    (({ ready with passedAt := some 0 } : Node).passedAt = some 0 ∧ 0 + 2 ^ 21 ≤ (noded ready).fCyc ∧ ready.blocking = false ∧
      (noded ready).work.ctxs.isEmpty = true) ∧
    (let n : Node := { Node.blank .kernel with state := .finished, crec := some 0x50000#64 };
      (noded n).nodeDone 3 n = true ∧ n.engineFail = none ∧ n.code = 0#8 ∧ (noded n).mem.merge = [] ∧ n.noRecord = none ∧
      (match (noded n).writeRecord 3 n with | (_, .done) => true | _ => false) = true ∧
      (match (noded n).globalTarget { tenant := n.tenant, priv := n.priv, cluster := none, unit := some (.hub 0) } .write false (0x50000 : Int) 16 with
        | (_, .ok _) => true | _ => false) = true) := by decide +kernel
/-- The warp's gang under pre-emption, forced; its context is quiet. -/
def preempted : State := { warp.changeLane 0 fun l => { l with clause := none } with
  work := { (warp.changeLane 0 fun l => { l with clause := none }).work with units := [{ node := 0, group := 1, since := some 0, forced := true, growth := false }] } }
/-- The compositor's program, its clause over. -/
def restingComp : State := let s := comp.changeLane 512 fun l => { l with clause := none }
  { s with work := { s.work with units := [{ node := 0, group := 0, since := some 0, forced := true, growth := false }] } }
/-- A saved unit of one group and no context; a saved program. -/
def savedUnit (comp : Bool) : SavedUnit :=
  { node := 0, groups := if comp then [] else warp.work.groups, ctxs := if comp then (restingComp.work.ctxs.map fun (_, c) => { ctx := c, rows := [], bad := [] }) else [],
    cluster := 0, matrix := if comp then some Matrix.fresh else none, growth := false }
def saved (comp : Bool) : State := { State.reset with work := { State.reset.work with nodes := warp.work.nodes.map fun (k, n) => (k, { n with place := 1#128 }), saved := [savedUnit comp] } }
/-- Two groups on one cluster, each of one context that waits for registers. -/
def stuck : State := match (grows 8 24).ctx? 0 with
  | some c =>
    let p := c.paths.map fun p => { p with wait := .grow 8 4#8 1#32 0 }
    let s := ((grows 8 24).putCtx { c with paths := p }).putCtx { c with paths := p, bind := 1, uid := 9, group := some 2 }
    match s.work.groups.look 1 with
    | some g => { s with work := { s.work with groups := [(1, { g with age := 5 }), (2, { g with age := 3 })] } }
    | none => s
  | none => State.reset
/-- The same unit before its first PREEMPT trap. -/
def fresh : State := { warp with work := { warp.work with units := [{ node := 0, group := 1, since := none, forced := false, growth := false }] } }
theorem witness_PreemptRequest : (warp.unitOf 0 1 = some 1 ∧ (warp.preUnit 1).isNone = true ∧ (warp.node? 0).isSome = true) ∧
    ((yielding.preUnit 1).map fun u => (u.node, u.forced)) = some (0, false) ∧ 0 + 60000 ≤ ({ yielding with aCyc := 60000 } : State).aCyc ∧
    ((yielding.preUnit 1).map (·.since)) = some (some 0) ∧ ((fresh.preUnit 1).map (·.since)) = some none ∧
    ((fresh.ctx? 0).map fun c => c.group == some 1 && c.paths.all (fun p => p.id == 0 && p.deliver.isNone) && (c.pendingLog 0).isNone &&
      (fresh.gangMembers 1).contains 1) = some true := by decide +kernel
theorem witness_UnitSave :
    ((preempted.work.units.find? fun u => u.node == 0 && (u.group == 1 || (preempted.gangMembers u.group).contains 1)).map fun u =>
      (preempted.unitReady u, (preempted.compOf u.node).isNone, (preempted.drainCores (nubNat ((preempted.unitCtxs u.group).map Ctx.core))).2))
      = some (true, true, true) ∧
    ((restingComp.work.units.find? fun u => u.node == 0 && (u.group == 0 || (restingComp.gangMembers u.group).contains 0)).bind fun u =>
      (restingComp.compOf u.node).map fun c => (restingComp.atRest c, c.stopped, (restingComp.drainCores [c.core]).2)) = some (true, false, true) := by
  decide +kernel
theorem witness_UnitResume :
    ((saved false).work.saved[0]?.map fun u => (u.matrix.isNone, ((saved false).findHome u).isSome)) = some (true, true) ∧
    ((saved true).work.saved[0]?.map fun u => (u.matrix.isSome, u.ctxs.length, (saved true).clusterDropped u.cluster, ((saved true).ctx? (ctxKey u.cluster 512 0)).isNone))
      = some (true, 1, false, true) := by decide +kernel
theorem witness_GrowthDeadlock :
    (((stuck.work.ctxs.map (·.2)).filter fun c => c.cluster == 0 && !c.isComp && c.live != 0#32 && !c.stopped).map fun c => c.paths.map (·.wait))
      = [[.grow 8 4#8 1#32 0], [.grow 8 4#8 1#32 0]] ∧
    (match stuck.work.groups.look 1, stuck.work.groups.look 2 with | some g1, some g2 => g2.older g1 | _, _ => false) = true ∧ stuck.work.units = [] := by decide +kernel
/-- The second of the two waits at its group's barrier, or for nothing. -/
def stuckAt (w : Wait) : State := stuck.changeCtx 1 fun c => { c with paths := c.paths.map fun p => { p with wait := w } }
theorem witness_GrowthDeadlockOfOne :
    ((((stuckAt (.groupBar 0#32)).work.ctxs.map (·.2)).filter fun c => c.cluster == 0 && !c.isComp).map fun c => (c.paths.map (·.wait), c.lane, c.stopped))
      = [([.grow 8 4#8 1#32 0], 0, false), ([.groupBar 0#32], 0, false)] ∧
    ((stuckAt (.groupBar 0#32)).work.groups.look 2).map (·.gen) = some 0#32 ∧
    ((((stuckAt .none).work.ctxs.map (·.2)).filter fun c => c.cluster == 0 && !c.isComp).map fun c => c.paths.map fun p => (stuckAt .none).fifoHeld c p)
      = [[false], [false]] := by decide +kernel
/-- A kill that waits for node 0, whose gangs may be relaunched (RELAUNCH in CTRL), or may not. -/
def struck (relaunch : Bool) : State :=
  let n := Node.blank .kernel
  let n := if relaunch then { n with payload := n.payload.set 1 ((nth n.payload 1 0#64) ||| dbl (2 ^ 26)) } else n
  { State.reset with work := { State.reset.work with nodes := [(0, n)] },
                     rel := { State.reset.rel with kills := [{ node := 0, box := n.boxAt 0 0, cause := 1, cluster := 0, sector := 0 }] } }
/-- Seven dies dropped. -/
def sevenDropped : State := { State.reset with hub := { State.reset.hub with drop := 0x7F#64 } }
/-- Tower 1 has lost its dies. -/
def towerGone : State := { State.reset with hub := { State.reset.hub with drop := 0xC#64 } }
theorem witness_GangKill : ∀ b : Bool,
    (((struck b).rel.kills.filter fun k => k.node == 0)[0]?.bind fun k => ((struck b).node? 0).map fun n =>
      let u : State := { struck b with rel := { (struck b).rel with kills := (struck b).rel.kills.filter (· != k) } }
      (decide (n.kind ≠ .comp), u.mayRelaunch 0 n (u.struck 0 n k.box), n.code)) = some (true, b, 0#8) := by
  intro b; cases b <;> decide +kernel
theorem witness_Drops : State.reset.dieDropped 7 = false ∧ 0 ≠ 7 ∧ State.reset.dieDropped 0 = false ∧ sevenDropped.dieDropped 7 = false ∧
    (∀ d, d < 8 → d ≠ 7 → sevenDropped.dieDropped d = true) ∧ towerGone.hub.drop.toNat / 2 ^ 16 % 16 = 0 ∧ (towerGone.clearedHub 1).isSome = true ∧
    (towerGone.work.ctxs.isEmpty && towerGone.work.groups.isEmpty && towerGone.work.limbQueue.isEmpty && towerGone.work.saved.isEmpty &&
      towerGone.mem.merge.isEmpty) = true ∧ towerGone.dieDropped 2 = true ∧ towerGone.dieDropped 3 = true := by decide +kernel
/-- A page of 2^36 bytes in capacity frames, of which hub 1 homes some, and no free frame: the hub cannot go. -/
def bigPage : State :=
  let s := paged State.reset
  { s with mem := { s.mem with phys := (s.mem.phys.pokeNum 0x8000 8 0x480FB).pokeNum 0x8008 8 0x1000000 } }
theorem mem_entriesBelow_leaf {m : Memory} {fuel level table va i : Nat} (hi : i < 1024)
    (h : (let e : Pte := BitVec.ofNat 128 (m.num (table + 16 * i) 16); pteV e && pteLeaf e && !pteBad level e) = true) :
    (level, va + i * 2 ^ levelBits level, table + 16 * i, (BitVec.ofNat 128 (m.num (table + 16 * i) 16) : Pte)) ∈ entriesBelow m (fuel + 1) level table va := by
  simp only [entriesBelow, List.mem_flatMap, List.mem_range]
  exact ⟨i, hi, by simp only [Bool.and_eq_true, Bool.not_eq_true'] at h; simp [h]⟩
theorem mem_entriesBelow_below {m : Memory} {fuel level table va i : Nat} {x : Nat × Nat × Nat × Pte} (hi : i < 1024)
    (h : (let e : Pte := BitVec.ofNat 128 (m.num (table + 16 * i) 16); pteV e && !pteLeaf e && decide (level < 3)) = true)
    (hx : x ∈ entriesBelow m fuel (level + 1) ((BitVec.ofNat 128 (m.num (table + 16 * i) 16) : Pte).toNat / 2 ^ 64 % 2 ^ 50 * 2 ^ 14)
      (va + i * 2 ^ levelBits level)) : x ∈ entriesBelow m (fuel + 1) level table va := by
  simp only [entriesBelow, List.mem_flatMap, List.mem_range]
  exact ⟨i, hi, by simp only [Bool.and_eq_true, Bool.not_eq_true', decide_eq_true_eq] at h; simpa [h, Nat.not_le.2 h.2] using hx⟩
/-- A hub does not go while a page is in frames that go and no frame is free. -/
theorem clearHub_none {s : State} {h n : Nat} {p : PageAt} (hp : p ∈ s.pagesAt)
    (hg : ((List.range p.frames).any fun i => !s.stays h (p.frame + i)) = true) (hf : s.hub.fast = []) (hc : s.hub.cap = []) :
    s.clearHub h (n + 1) = none := by
  have t : ∀ f k, takeRun f k [] = none := fun f k => rfl
  unfold State.clearHub
  split
  · rename_i e
    exact absurd hg (by simpa using List.find?_eq_none.1 e p hp)
  · simp only [hf, hc, t]
    split
    · rfl
    · split
      · split <;> simp_all
      · rfl
def bigEntry : Pte := BitVec.ofNat 128 (bigPage.mem.phys.num 0x8000 16)
theorem witness_HubStays : bigPage.clearedHub 1 = none ∧ bigPage.hub.drop.toNat / 2 ^ 16 % 16 = 0 := by
  refine ⟨clearHub_none (p := { tenant := 0, level := 1, va := 0, at_ := 0x8000, entry := bigEntry }) ?_
    (List.any_eq_true.2 ⟨8, List.mem_range.2 (by decide +kernel), by decide +kernel⟩) rfl rfl, by decide +kernel⟩
  simp only [State.pagesAt, List.mem_flatMap, List.mem_range]
  refine ⟨0, by decide, ?_⟩
  rw [if_pos (by decide +kernel), List.mem_filterMap]
  exact ⟨(1, 0, 0x8000, bigEntry), mem_entriesBelow_below (fuel := 3) (i := 0) (by decide) (by decide +kernel)
    (mem_entriesBelow_leaf (fuel := 2) (i := 0) (by decide) (by decide +kernel)), if_neg (by decide +kernel)⟩

/-! Further clauses of events -/

/-- A view line of slot 0, and a line of package 3, in the buffer of core 0. -/
def viewLine : MergeLine := { line with space := 1, line := 2 ^ 49 }
def peerLine : MergeLine := { line with space := 2, line := 3 * 2 ^ 41 }
def holding (s : State) (m : MergeLine) : State := { s with mem := { s.mem with merge := [m] } }
/-- A view of words at VA 0, a page of capacity memory. -/
def capView : State := { capacity with
  hub := { capacity.hub with vquota := capacity.hub.vquota.set 0 0x100000#32 },
  eng := { capacity.eng with views := [(0, { words := [0#64, 0x8E00010200#64, 0x100000020#64, 0x100000001#64, 0x100000001#64], asid := 0 })] } }
theorem witness_ViewDrains :
    (let s := holding (paged (viewed 0x8E00010200#64)) viewLine
     s.mergeNth 0 0 = some viewLine ∧ s.mergeFind 0 1 (2 ^ 49) = some viewLine ∧ s.farLine viewLine = false ∧
       (match s.remapLine viewLine with | .to _ ph _ _ bad => ph.map (·.1) == [0x60001] && bad.isEmpty | .held .. => false) = true) ∧
    (let s := holding capView viewLine
     s.farLine viewLine = false ∧ (match s.remapLine viewLine with | .held f _ => f.code == 0x19 | .to .. => false) = true) ∧
    (let s := holding State.reset peerLine
     s.mergeNth 0 0 = some peerLine ∧ s.mergeFind 0 2 (3 * 2 ^ 41) = some peerLine ∧ s.peerDown (3 * 2 ^ 41 * 128 / 2 ^ 48) = false) := by decide +kernel
/-- A guest descriptor of 32 words at PA 0x60000: its last word is there, the one after it faults. -/
def guest : List Dbl := [0x60000#64, 0x8E00010200#64, 0x100000020#64, 0x100000001#64, 0x100000001#64]
theorem witness_GuestViews : (match State.reset.guestTarget (viewOf guest) .read 124 4 with | .ok t => t.bytes.length == 4 | .error _ => false) = true ∧
    (match State.reset.guestTarget (viewOf guest) .read 128 4 with | .ok _ => false | .error c => c == 0x15) = true ∧
    State.reset.eng.guests.look (4096 * 1 + 4095) = none := by decide +kernel
theorem witness_Bar0 : (hosted 4).reaches 1 0 = true ∧ (hosted 4).reaches 16 255 = false ∧ (16 : Nat) ≤ 16 ∧ (255 : Nat) < 256 ∧
    ([0#8, 0#8, 0#8, 0#8, 0#8, 0#8, 0#8, 0#8] : List Byte).length = 8 ∧ (16 : Nat) ≠ 0 ∧ (0x180000 : Nat) ≤ 0x180000 := by decide +kernel
theorem witness_UnknownCommand : ((boxes 0#64 none).mailbox 0).cmd.toNat % 256 ∉ [1, 2, 3] ∧ ((boxes 4#64 none).mailbox 0).cmd.toNat % 256 ∉ [1, 2, 3] ∧
    ((boxes 4#64 none).mailbox 0).busy = true := by decide +kernel
theorem witness_ProofHeldAndH0 : State.reset.proofHeld = false ∧ State.reset.rel.h0Lost = false ∧ (boxes 0#64 (some proof)).proofHeld = true ∧
    ¬((4 : Nat) = 4 ∧ 3 = hubRecorder 0) ∧ ({ State.reset with rel := { State.reset.rel with h0Lost := true } } : State).rel.h0Lost = true := by decide +kernel
theorem witness_Epochs : State.reset.fCyc < nth State.reset.hub.epoch 0 0 + (nth State.reset.hub.hotCtl 0 0#32).toNat % 256 * 2 ^ 16 ∧
    (let s : State := { State.reset with fCyc := 0x40 * 2 ^ 16 }
     nth s.hub.epoch 0 0 + (nth s.hub.hotCtl 0 0#32).toNat % 256 * 2 ^ 16 ≤ s.fCyc) := by decide +kernel
/-- A pinned page of capacity memory, one that is not pinned, and one that lies in fast memory by now. -/
theorem witness_PinnedResolutions :
    isLeaf (((pages4 0x4C0FB 0x1000000 0x19#8).walk 0 0)) (fun e => ptePin e && pteTier e == 1) = true ∧
    isLeaf (capacity.walk 0 0) (fun e => !ptePin e) = true ∧
    isLeaf ((pages4 0x80FB 7 0x19#8).walk 0 0) (fun e => pteTier e != 1) = true := by decide +kernel
/-- A kernel of priority 2 passed over since f-cycle 0, beside one of priority 3 whose group runs. -/
def passedOver : State := { warp with fCyc := 2 ^ 21, work := { warp.work with
  nodes := (warp.work.nodes.map fun (k, n) => (k, { n with prio := 3 })) ++ [(3, { ready with passedAt := some 0 })] } }
theorem witness_PassedOver : ((passedOver.node? 3).map fun n => (n.state, n.passedAt, n.kind, n.prio)) = some (.ready, some 0, .kernel, 2) ∧
    passedOver.work.units = [] ∧ 0 + 2 ^ 21 ≤ passedOver.fCyc ∧
    (pickGroup (fun a b => b.older a) (passedOver.work.groups.filter fun x =>
      (match passedOver.node? x.2.node with | some m => m.kind == .kernel && decide (2 < m.prio) | none => false) && !x.2.freed && !x.2.saved &&
       (passedOver.work.ctxs.any fun y => y.2.group == some x.1) && passedOver.permits ready x.2.cluster)).map (·.1) = some 1 ∧
    (noded ready).fCyc < 1 + 2 ^ 21 := by decide +kernel
/-- Two warps of two groups on lane 0 that ask for a granule each, that of group 1 the older; one that asks beyond 24. -/
def twoAsk : State :=
  let s := onPath (on warp fun c => { c with map := [0] }) fun p => { p with wait := .grow 1 4#8 1#32 0 }
  match s.ctx? 0, s.work.groups.look 1 with
  | some c, some g => ({ s with work := { s.work with groups := s.work.groups.put 2 { g with number := 1, age := 5 } } }).putCtx
      { c with bind := 1, uid := 9, map := [1], group := some 2 }
  | _, _ => s
theorem witness_TwoRequests : ((twoAsk.onLane 0 0).map fun c => (c.group, c.paths.map (·.wait), c.stopped, decide (c.map.length + 1 ≤ 24)))
      = [(some 1, [.grow 1 4#8 1#32 0], false, true), (some 2, [.grow 1 4#8 1#32 0], false, true)] ∧
    (match twoAsk.work.groups.look 1, twoAsk.work.groups.look 2 with | some a, some b => a.older b | _, _ => false) = true ∧
    1 ≤ (twoAsk.freeGranules 0 0).length ∧
    ((onPath (on warp fun c => { c with map := List.range 24 }) fun p => { p with wait := .grow 1 4#8 1#32 0 }).onLane 0 0).map
      (fun c => decide (24 < c.map.length + 1)) = [true] := by decide +kernel
theorem witness_MatrixFree : (matrixAt false false).matrixPreempted 0 = false ∧ (matrixAt true false).matrixPreempted 0 = false ∧
    (match ((matrixAt true false).walkAhead (matrixOp.requester 0) (matrixOp.ahead (bandRows 8 0 0 1) (bandCols 8 0))).passValues 0 matrixOp
      (bandRows 8 0 0 1) (bandCols 8 0) with | (_, .ok rows) => rows.length == 8 | _ => false) = true := by decide +kernel
theorem witness_FoundErrors : ({ State.reset with agenda := [.error true (2 ^ 31 - 4) 0] } : State).agenda = .error true (2 ^ 31 - 4) 0 :: [] ∧
    ({ State.reset with agenda := [.error true 3 1] } : State).rel.fullFreeze = false ∧ (State.reset.homeHub (5 * 32)).isSome = true ∧
    ({ State.reset with rel := { State.reset.rel with fullFreeze := true } } : State).rel.fullFreeze = true := by decide +kernel

/-! Operands of computed words, memory, reset -/

theorem witness_UnassignedCodes : (0x2C00_0000_0000_0000#64 : Dbl).toNat / 2 ^ 56 ∈ Claims.unassignedCodes ∧
    (0xEF00_0000_0000_0000#64 : Dbl).toNat / 2 ^ 56 ∈ Claims.unassignedCodes ∧ 0xF0 ≤ (0xF000_0000_0000_0000#64 : Dbl).toNat / 2 ^ 56 ∧
    0 ∉ Claims.unassignedCodes ∧ 0xCF ∉ Claims.unassignedCodes := by decide
/-- A body word of code 0x2C next on the lane. -/
def unassigned : State := warp.changeLane 0 fun l => { l with clause := l.clause.map fun c => { c with words := [0x2C00_0000_0000_0000#64] } }
theorem witness_UnassignedStep : ∃ cl c h, unassigned.stalled = false ∧ (unassigned.lane (laneKey 0 0)).clause = some cl ∧
    unassigned.ctx? (ctxKey 0 0 cl.bind) = some c ∧ parseHeader cl.header = some h ∧ cl.words[cl.pos - 1]? = some 0x2C00_0000_0000_0000#64 ∧
    h.paired cl.pos = false := ⟨_, _, _, rfl, rfl, rfl, rfl, rfl, rfl⟩
/-- Operands at the ends of the clauses: of 32 and 64 bits, with the formats that the clauses ask for. -/
def args (a b : Nat) : Args := { cls := .vector, a := dbl a, b := dbl b, c := 0#64, d := 0#64 }
theorem witness_IntegerOperands :
    (reg 10 2 4 0 8 0).fmt = 8#4 ∧ (reg 10 2 4 0 9 0).fmt = 9#4 ∧ (reg 10 2 4 0 10 0).fmt = 10#4 ∧ (reg 10 2 4 0 8 0).sat = false ∧ (reg 10 2 4 0 8 1).sat = true ∧
    (let x := args 0x80000000 0xFFFFFFFF; ((x.a.setWidth 32 : Word).toInt + (x.b.setWidth 32 : Word).toInt < -2147483648) ∧ (x.a.setWidth 32 : Word).toInt = -2147483648 ∧
      (x.b.setWidth 32 : Word) = 0xFFFFFFFF#32 ∧ 2 ^ 32 ≤ (x.a.setWidth 32 : Word).toNat * (x.b.setWidth 32 : Word).toNat ∧
      (x.a.setWidth 32 : Word).toNat < (x.b.setWidth 32 : Word).toNat) ∧
    (let x := args 0x7FFFFFFF 1; 2147483647 < (x.a.setWidth 32 : Word).toInt + (x.b.setWidth 32 : Word).toInt ∧ (x.b.setWidth 32 : Word).toNat ≤ (x.a.setWidth 32 : Word).toNat ∧
      (x.b.setWidth 32 : Word) ≠ 0#32) ∧
    (let x := args 0x7FFFFFFE 1; (x.a.setWidth 32 : Word).toInt + (x.b.setWidth 32 : Word).toInt = 2147483647) ∧
    ((args 0 0).b = 0#64 ∧ ((args 0 0).b.setWidth 32 : Word) = 0#32 ∧ (args (2 ^ 63) (2 ^ 64 - 1)).a = 0x8000000000000000#64 ∧
      (args (2 ^ 63) (2 ^ 64 - 1)).b = 0xFFFFFFFFFFFFFFFF#64) := by decide +kernel
/-- One raw encoding of each class, and signalling and quiet NaNs. -/
theorem witness_FloatOperands :
    (let cls := fun z : Word => (z.extractLsb' 23 8, z.extractLsb' 0 23 == 0#23, z.getLsbD 31, z.getLsbD 22);
      [cls 0x7F800001#32, cls 0x7FC00000#32, cls 0xFF800000#32, cls 0xBF800000#32, cls 0x80000001#32, cls 0x00000001#32, cls 0x3F800000#32, cls 0x7F800000#32]) =
    [(255#8, false, false, false), (255#8, false, false, true), (255#8, true, true, false), (127#8, true, true, false), (0#8, false, true, false),
     (0#8, false, false, false), (127#8, true, false, false), (255#8, true, false, false)] ∧
    (reg 10 2 4 0 0 0).ftz = false ∧ (Instr.fclass (reg 10 2 0 0 0 0)).wf .vector = true := by decide
/-- FunctionsFollowSpecialOperands: a signalling and a quiet NaN, a number below zero, and quotients by zeros. -/
theorem witness_FunctionOperands :
    ((0x7F800001#32 : Word).extractLsb' 23 8 = 255#8 ∧ (0x7F800001#32 : Word).extractLsb' 0 23 ≠ 0#23 ∧ (0x7FC00000#32 : Word).extractLsb' 0 23 ≠ 0#23) ∧
    ((0xBF800000#32 : Word).getLsbD 31 = true ∧ (0xBF800000#32 : Word).extractLsb' 23 8 ≠ 255#8 ∧ (0xBF800000#32 : Word).extractLsb' 23 8 ≠ 0#8) ∧
    ((0x80000000#32 : Word).extractLsb' 23 8 ≠ 255#8 ∧ (0x80000000#32 : Word).extractLsb' 0 31 = 0#31 ∧ (0x3F800000#32 : Word).extractLsb' 23 8 ≠ 0#8) := by
  decide
/-- `shf.l`, `shf.r`, `lop3` of truth table 0x80. -/
theorem witness_LogicOperands : (reg 10 2 4 6 9 0).modAt 17 1 = 0 ∧ (reg 10 2 4 6 9 1).modAt 17 1 = 1 ∧ (reg 10 2 4 6 0 8).modAt 17 4 * 16 + 0 = 0x80 := by decide
theorem witness_MemoryReadsBack : Memory.wf [(3, 1#8), (5, 2#8)] = true ∧ Memory.wf [] = true := by decide
theorem witness_StepKeepsMemories : memoriesOk adding = true ∧ ∃ t, step adding = .next t :=
  ⟨by decide +kernel, (match h : step adding with
    | .next t => ⟨t, rfl⟩
    | .fault _ => by have : (match step adding with | .fault _ => true | _ => false) = false := by decide +kernel
                     rw [h] at this; contradiction
    | .refused _ => by have : (match step adding with | .refused _ => true | _ => false) = false := by decide +kernel
                       rw [h] at this; contradiction)⟩

/-! Witnesses of further clauses -/


theorem witness_PairsAndUniformResults :
    (warp.mem.store.wf = true ∧ ∃ u, Issues warp (.isub (reg 10 2 4 0 10 0)) u ∧ (u.ctx.symbolic = false ∧ u.ctx.isComp = false ∧
      (Instr.isub (reg 10 2 4 0 10 0)).rules.var = false ∧ (Instr.isub (reg 10 2 4 0 10 0)).rules.d = .dst 2 ∧
      (Instr.isub (reg 10 2 4 0 10 0)).codes.1 = 10#8 ∧ (activeOf u (.isub (reg 10 2 4 0 10 0))).getLsbD 31 = true)) ∧
    (∃ u, Issues warp (.iadd (reg 0xC5 0xC0 0xC1 0 8 0)) u ∧ (u.ctx.symbolic = false ∧ u.ctx.isComp = false ∧
      (Instr.iadd (reg 0xC5 0xC0 0xC1 0 8 0)).rules.d = .dst 1 ∧ slotsOf (activeOf u (.iadd (reg 0xC5 0xC0 0xC1 0 8 0))) ≠ [])) ∧
    (∃ u, Issues warp (.iadd { reg 0xC6 0xC0 0xC2 0 10 0 with gp := 0#3 }) u ∧ (u.ctx.symbolic = false ∧
      (Instr.iadd { reg 0xC6 0xC0 0xC2 0 10 0 with gp := 0#3 }).rules.d = .dst 2 ∧
      (Instr.iadd { reg 0xC6 0xC0 0xC2 0 10 0 with gp := 0#3 }).codes.1 = 0xC6#8 ∧
      slotsOf (activeOf u (.iadd { reg 0xC6 0xC0 0xC2 0 10 0 with gp := 0#3 })) = [])) :=
  ⟨⟨by decide, issues _ (by decide)⟩, issues _ (by decide), issues _ (by decide)⟩
/-- With scoreboard field 7, as the last word of its clause; and in a compositor program. -/
theorem witness_VariableLatencyForms :
    (∃ u, Issues warp (.idiv (reg 10 2 4 0 8 0)) u ∧ (u.symbolic = false ∧ (Instr.idiv (reg 10 2 4 0 8 0)).sbField = 7 ∧
      u.actSlots (.idiv (reg 10 2 4 0 8 0)) (activeOf u (.idiv (reg 10 2 4 0 8 0))) ≠ [] ∧ u.clause.words.length ≤ u.clause.pos)) ∧
    (∃ u, Issues comp (.mprog (reg 5 0 0 0 0 0)) u ∧ (activeOf u (.mprog (reg 5 0 0 0 0 0)) ≠ 0#32 ∧ (Instr.mprog (reg 5 0 0 0 0 0)).sbField = 7 ∧
      u.clause.words.length ≤ u.clause.pos)) ∧
    (∃ u, Issues comp (.mprog (sb 5 (reg 5 0 0 0 0 0))) u ∧ (activeOf u (.mprog (sb 5 (reg 5 0 0 0 0 0))) ≠ 0#32 ∧ (Instr.mprog (sb 5 (reg 5 0 0 0 0 0))).sbField < 6)) :=
  ⟨issues _ (by decide), issues _ (by decide), issues _ (by decide)⟩


/-- Losses of a hub next on the agenda: of H0, and of another, and the recorder that sees them. -/
theorem witness_HubLoss : ({ State.reset with agenda := [.hubLoss 0 1152] } : State).agenda = .hubLoss 0 1152 :: [] ∧
    ({ State.reset with agenda := [.hubLoss 0 1152] } : State).proofHeld = false ∧
    ({ State.reset with agenda := [.hubLoss 3 7] } : State).agenda = .hubLoss 3 7 :: [] := ⟨rfl, rfl, rfl⟩
/-- Reads of ASTAT beside a word in flight, and with none. -/
theorem witness_AstatReads :
    (∃ u, Issues flying (.rdsr (reg 10 0x11 0 0 9 0)) u ∧ (u.symbolic = false ∧ activeOf u (.rdsr (reg 10 0x11 0 0 9 0)) ≠ 0#32 ∧
      u.ctx.flagsOpen u.path.id = true)) ∧
    (∃ u, Issues warp (.rdsr (reg 10 0x11 0 0 9 1)) u ∧ (u.symbolic = false ∧ u.ctx.flagsOpen u.path.id = false ∧ (reg 10 0x11 0 0 9 1).modAt 17 1 = 1)) :=
  ⟨issues _ (by decide), issues _ (by decide)⟩
/-- A program that the matrix unit's stop has trapped. -/
def stopped (code : BitVec 8) : State := comp.changeCtx 4096 fun c =>
  { c with thand := 0x10000#64
           trap := some { code := code, pc := 0#64, word := 1#5, addr := 0#64, bva := 0#64, mask := 1#32, log := 0xF#4, ret := 16#64 } }
theorem witness_TretOfOthers :
    (∃ u, Issues (held 0x07 1 0xF) (.tret (reg 0 0 0 0 0 0)) u ∧ (u.symbolic = false ∧
      (u.ctx.trap.map fun x => (x.code, x.log)) = some (0x07#8, 0xF#4))) ∧
    (∃ u, Issues logged (.tret (reg 0 0 0 0 0 0)) u ∧ (u.symbolic = false ∧ (reg 0 0 0 0 0 0).modAt 17 1 = 0 ∧
      (u.ctx.trap.map fun x => decide (x.log ≠ 0xF#4 ∧ x.code ≠ 0x06#8) && (u.ctx.log.look x.log.toNat).isSome) = some true)) ∧
    (∃ u, Issues (stopped 6) (.tret (reg 0 0 0 0 0 1)) u ∧ (u.symbolic = false ∧ (reg 0 0 0 0 0 1).modAt 17 1 = 1 ∧ u.ctx.trap.map (·.code) = some 6#8)) ∧
    (∃ u, Issues (stopped 6) (.tret (reg 0 0 0 0 0 0)) u ∧ (u.symbolic = false ∧ u.ctx.trap.map (·.code) = some 6#8 ∧
      (stopped 6).releaseWaits u.ctx = false)) :=
  ⟨issues _ (by decide +kernel), issues _ (by decide +kernel), issues _ (by decide +kernel), issues _ (by decide +kernel)⟩

/-- A load and a store of slot 0 beyond the limit of SEG.S go to software (code 0x10), an atomic of an absent page to the driver (0x16 or 0x14);
fields below 6 and 7, in the clause's last word. -/
def beyond : State := setV (one scratch) 0 1 0x10000
def capWarp : State := one { warp with mem := capacity.mem, hub := capacity.hub }
def noTables : State := { data with hub := { data.hub with ptroot := [] } }
/-- v4:v5 of slot 0 the start of the shadow space; the last bytes before it. -/
def atShadow : State := setV (setV data 0 4 0) 0 5 0x1000000
def atEnd : State := setV (setV data 0 4 0xFFFFFFFD) 0 5 0xFFFFFF
theorem witness_FaultedWords :
    (∃ u reqs, Acts beyond (.st (mem 8 1 1 0 9 7 9)) u 0 reqs ∧ ((Instr.st (mem 8 1 1 0 9 7 9)).sbField = 7 ∧ u.clause.words.length ≤ u.clause.pos ∧
      (memFn (.st (mem 8 1 1 0 9 7 9))).isSome = true ∧ (match stAct (mem 8 1 1 0 9 7 9) beyond u.ctx reqs with
        | (s1, .fault f m a got) => f.code == 0x10 && m == 1#32 && a == .write && got.isEmpty && decide (s1.resolver u.ctx.tenant f = .software)
        | _ => false) = true ∧ ((((stAct (mem 8 1 1 0 9 7 9) beyond u.ctx reqs).1).rel.galleys.look u.ctx.core).getD Recorder.fresh).stopped = false)) ∧
    (∃ u reqs, Acts beyond (.ld (mem 8 1 1 0 9 2 9)) u (mem 8 1 1 0 9 2 9).offset reqs ∧ ((Instr.ld (mem 8 1 1 0 9 2 9)).sbField < 6 ∧
      (match ldAct (mem 8 1 1 0 9 2 9) beyond u.ctx reqs with
        | (s1, .fault f _ _ _) => f.code == 0x10 && decide (s1.resolver u.ctx.tenant f = .software) | _ => false) = true)) ∧
    (∃ u reqs, Acts capWarp (.ld (mem 8 4 0 0 9 2 9)) u (mem 8 4 0 0 9 2 9).offset reqs ∧ ((match ldAct (mem 8 4 0 0 9 2 9) capWarp u.ctx reqs with
        | (s1, .fault f _ _ _) => f.code == 0x19 && decide (s1.resolver u.ctx.tenant f = .device) | _ => false) = true)) ∧
    (∃ u reqs, Acts noTables (.red (reg 0 4 6 0 9 5)) u 0 reqs ∧ ((memFn (.red (reg 0 4 6 0 9 5))).isSome = true ∧
      (noTables.targetsFrom u.ctx (Instr.atom (reg 0 4 6 0 9 5)).memSeg (atomBytes (reg 0 4 6 0 9 5)) .atomic true reqs [] []).2.2.map (·.2.code) = [0x16])) ∧
    (∃ u reqs, Acts noTables (.stm (mem 6 4 0 0 9 7 9)) u 0 reqs ∧ (reqs.map (fun r => decide (spaceOf r.addr ≠ .shadow ∧ spaceOf r.addr = spaceOf (r.addr + 3))) = [true] ∧
      (noTables.targetsFrom u.ctx 0 1 .write false reqs [] []).2.2.map (·.2.code) = [0x16] ∧ (noTables.targetsFrom u.ctx 0 1 .write false reqs [] []).2.1 = [])) ∧
    (∃ u reqs, Acts atShadow (.ldm (mem 6 4 0 0 9 7 9)) u 0 reqs ∧ ((u.ctx.seg 0).en = true ∧ reqs.map (fun r => decide (spaceOf r.addr = .shadow)) = [true])) ∧
    (∃ u reqs, Acts atEnd (.ldm (mem 6 4 0 0 9 7 9)) u 0 reqs ∧ ((u.ctx.seg 0).en = true ∧
      reqs.map (fun r => decide (spaceOf r.addr ≠ .shadow ∧ spaceOf r.addr ≠ spaceOf (r.addr + 3))) = [true])) :=
  ⟨acts _ _ (by decide +kernel), acts _ _ (by decide +kernel), acts _ _ (by decide +kernel), acts _ _ (by decide +kernel), acts _ _ (by decide +kernel),
   acts _ _ (by decide +kernel), acts _ _ (by decide +kernel)⟩


/-- A cluster with a bank of cache mode. -/
def caching : State := { data with eng := { data.eng with bank := [(0, 2#32)] }, hub := { data.hub with peerDom := 2#64 } }
/-- A line of core 0, another core's line, a view line of core 0; sectors of a page with software coherence, and of another. -/
def fenced : State := { data with mem := { data.mem with
  merge := [line, { line with core := 1 }],
  cache := [{ cluster := 0, way := 0, view := none, line := 9, sectors := [(0, { bytes := [], lo := 36, hi := 36, swc := true }), (1, { bytes := [], lo := 37, hi := 37, swc := false })] },
            { cluster := 1, way := 0, view := none, line := 9, sectors := [(0, { bytes := [], lo := 36, hi := 36, swc := true })] }] } }
theorem witness_PrefetchesAndFences :
    ((caching.ctx? 0).map fun c => (match (caching.globalTarget c.requester.peek .read false 0x30000 1).2 with
        | .ok t => !t.isPeer && t.shadow.isNone && t.bytes == [.phys 0x30000] | .error _ => false) && (c.seg 0).en &&
      ([0, 1, 2, 3] : List Nat).all (fun k => caching.mayKeep c.cluster (0x30000 / 128 * 4 + k) && (caching.cached c.cluster none (0x30000 / 128) k).isNone)) = some true ∧
    ((caching.ctx? 0).map fun c => (match (caching.globalTarget c.requester.peek .read false (2 ^ 56 - 1) 1).2 with | .ok _ => false | .error _ => true)) = some true ∧
    ((caching.ctx? 0).map fun c => (match (caching.globalTarget c.requester.peek .read false (2 ^ 57 + 2 ^ 48) 1).2 with | .ok t => t.isPeer | .error _ => false)) = some true ∧
    ((fenced.ctx? 0).map fun c => (c.core, (fenced.mem.merge.filter (·.core == c.core)) == [line], fenced.mem.merge.length, c.cluster)) = some (0, true, 2, 0) ∧
    (line.space = 0 ∧ (line.core = 0)) := by decide +kernel

/-- Both phases: the awaited one is 0, as it stands, or 1. -/
theorem witness_WaitsForObjects :
    (∃ u, Issues objects (.bwait (reg 10 1 4 0 0 0)) u ∧ (u.symbolic = false ∧ (slotsOf (activeOf u (.bwait (reg 10 1 4 0 0 0)))).take 1 = [0] ∧
      ((objects.objectAt u.ctx false ((objects.argA u (.bwait (reg 10 1 4 0 0 0)) 0).toNat % 2 ^ 32)).map fun k =>
        decide (objects.objPhase k = (objects.argB u (.bwait (reg 10 1 4 0 0 0)) 0).getLsbD 0)) = some true)) ∧
    (∃ u, Issues (setV objects 0 4 1) (.bwait (reg 10 1 4 0 0 0)) u ∧ (u.symbolic = false ∧ (slotsOf (activeOf u (.bwait (reg 10 1 4 0 0 0)))).take 1 = [0] ∧
      (((setV objects 0 4 1).objectAt u.ctx false (((setV objects 0 4 1).argA u (.bwait (reg 10 1 4 0 0 0)) 0).toNat % 2 ^ 32)).map fun k =>
        decide ((setV objects 0 4 1).objPhase k = ((setV objects 0 4 1).argB u (.bwait (reg 10 1 4 0 0 0)) 0).getLsbD 0)) = some false)) ∧
    (0 : Nat) < 2 ^ 32 :=
  ⟨issues _ (by decide +kernel), issues _ (by decide +kernel), by decide⟩

/-- A range whose only page a held line of core 0 has bytes on: a view line of slot 0 whose base page is not present. -/
def heldRange : State :=
  { range with mem := { range.mem with merge := [{ line with space := 1, line := 2 ^ 49 }] },
               hub := { range.hub with vquota := range.hub.vquota.set 0 0x100000#32, ptroot := range.hub.ptroot.set 0 0x4003#64 },
               eng := { range.eng with views := [(0, { words := [dbl (2 ^ 40), 0x8E00010200#64, 0x100000020#64, 0x100000001#64, 0x100000001#64], asid := 0 })] } }
theorem witness_PageChanges :
    (∃ u reqs, Acts range (.pgattr (reg 10 4 6 8 0 0)) u 0 reqs ∧ (reqs.length = 1 ∧ ∀ r ∈ reqs,
      (range.drainWhere fun _ => true).heldOn (range.rangePages 0 (r.a.toNat + r.b.toNat) (r.b.toNat / 65536 + 1) r.a.toNat) = false)) ∧
    (∃ u reqs, Acts heldRange (.pgattr (reg 10 4 6 8 0 0)) u 0 reqs ∧ (reqs.length = 1 ∧ ∀ r ∈ reqs,
      heldRange.pgattrBad r.a.toNat r.b.toNat r.c.toNat 0 (heldRange.rangePages 0 (r.a.toNat + r.b.toNat) (r.b.toNat / 65536 + 1) r.a.toNat) = none ∧
      (heldRange.drainWhere fun _ => true).heldOn (heldRange.rangePages 0 (r.a.toNat + r.b.toNat) (r.b.toNat / 65536 + 1) r.a.toNat) = true)) :=
  ⟨acts _ _ (by decide +kernel), acts _ _ (by decide +kernel)⟩
/-- The four checks of `pgattr` at their boundaries, over one page at VA 0 of 65,536 bytes. -/
def onePage (e : Option (Nat × Pte)) : List RangePage := [(0, 65536, e)]
theorem witness_AttributeChecks :
    (([(0, 65536), (1, 65536), (0, 0), (65536, 65536)] : List (Nat × Nat)).map fun (a, n) =>
      decide (a % 65536 = 0 ∧ n % 65536 = 0 ∧ n ≠ 0) && (onePage none).all fun p => decide (a ≤ p.1 ∧ p.1 + p.2.1 ≤ a + n))
      = [true, false, false, false] ∧
    (nth range.hub.ptroot 0 0#64).getLsbD 0 = true ∧ (2 ≠ 3 ∧ 2 = 2 ∧ range.clusterDropped 127 = false) ∧ pteTier 0x80FB#128 ≠ 3 ∧ pteTier 0xC80FB#128 = 3 ∧
    (range.mem.phys.wf = true ∧ ¬(pteCst 0x80FB#128 = 1 ∧ pteOwner 0x80FB#128 = 0) ∧ (pteCst 0x80FB#128 = 0 ∧ pteOwner 0x80FB#128 = 0) ∧
      ([0, 1, 2, 3, 4, 5, 6, 7, 8, 9, 10, 11, 12, 13, 14, 15] : List Nat).all (fun i => range.fdtFrame (0x8000 + i) == none)) := by decide +kernel
/-- Tables of four levels: VA 0 a leaf of a frame with `refs` references, VA 65,536 absent. -/
def shares (lo hi refs : Nat) : State :=
  let s := pages4 lo hi 0x19#8
  { s with mem := { s.mem with phys := s.mem.phys.pokeNum (0x40000 + 8 * hi) 8 refs }, hub := { s.hub with fdtOn := true } }
def isAbsent (w : Walked) (at_ : Nat) : Bool := match w with | .absent a 3 _ => a == at_ | _ => false
theorem witness_SharedAndReleased :
    (isLeaf ((shares 0x80BB 7 1).walk 0 0) (fun e => pteTier e != 1 && pteTier e != 3 && !pteX e && pteU e && !ptePin e && (pteFrame e == 7)) = true ∧
      isAbsent ((shares 0x80BB 7 1).walk 0 65536) 0x10010 = true ∧ fdtRcnt ((shares 0x80BB 7 1).fdt 7) = 1 ∧ (shares 0x80BB 7 1).fdtAt 7 = 0x40038 ∧
      (shares 0x80BB 7 1).mem.phys.wf = true ∧ (shares 0x80BB 7 1).mem.merge = [] ∧
      ([0, 1, 2, 3, 4, 5, 6, 7, 8, 9, 10, 11, 12, 13, 14, 15] : List Nat).all (fun i => (shares 0x80BB 7 1).fdtFrame (0x10000 + i) == none &&
        (shares 0x80BB 7 1).fdtFrame (0x10010 + i) == none)) ∧
    fdtRcnt ((shares 0x80BB 7 2).fdt 7) = 2 ∧ fdtRcnt ((shares 0x80BB 7 65535).fdt 7) = 65535 ∧
    isLeaf ((shares 0x480BB 7 1).walk 0 0) (fun e => pteTier e == 1) = true ∧ isLeaf ((shares 0x80FB 7 1).walk 0 0) (fun e => !pteU e || pteX e) = true ∧
    isLeaf ((shares 0xC0BB 7 1).walk 0 0) ptePin = true ∧
    isLeaf ((shares 0x80BB 7 1).walk 0 65536) (fun _ => true) = false ∧ (65536 : Nat) % 65536 = 0 ∧ (1 : Nat) % 65536 ≠ 0 := by decide +kernel


/-- A `vset` whose replay has ended, or has not. -/
def awaiting (l : Table LogEntry) : State := (on viewing fun c => { c with log := l }).changeLane 0 fun l =>
  { l with clause := l.clause.map fun c => { c with await := true } }
def vsetEntry : LogEntry := { serial := 0, word := .vset (reg 10 2 4 0 0 0), reqs := [], path := 0, pc := 0x4000000#64, pos := 1, sb := 7, state := .parked,
                              code := 0x19#8, addr := 0#64, bva := 0#64, mask := 1#32, active := 1#32, guarded := 1#32 }
theorem witness_VsetAwaits :
    (∃ u reqs, Acts (awaiting []) (.vset (reg 10 2 4 0 0 0)) u 0 reqs ∧ (reqs.length = 1 ∧ u.clause.await = true ∧ u.pendingHere u.ctx = false)) ∧
    (∃ u reqs, Acts (awaiting [(3, { vsetEntry with pc := ((viewing.lane 0).clause.map (·.pc)).getD 0#64 })]) (.vset (reg 10 2 4 0 0 0)) u 0 reqs ∧
      (reqs.length = 1 ∧ u.clause.await = true ∧ u.pendingHere u.ctx = true)) ∧
    (∃ u reqs, Acts viewing (.vset (reg 10 2 4 0 0 0)) u 0 reqs ∧ u.clause.await = false) :=
  ⟨acts _ _ (by decide +kernel), acts _ _ (by decide +kernel), acts _ _ (by decide +kernel)⟩
theorem witness_ResetsAfterLoss : State.reset.rel.h0Lost = false ∧
    ({ State.reset with rel := { State.reset.rel with h0Lost := true } } : State).rel.h0Lost = true ∧ State.reset.fdtFrame 0x103 = none := by decide +kernel
/-- Events while a Proof is held, with H0 whole and its recorder running; while a freeze is under way. -/
theorem witness_LaterEvents : (boxes 0#64 (some proof)).proofHeld = true ∧ (boxes 0#64 (some proof)).rel.h0Lost = false ∧
    (((boxes 0#64 (some proof)).rel.galleys.look (hubRecorder 0)).getD Recorder.fresh).stopped = false ∧ freezing.proofHeld = false ∧
    freezing.rel.freezing.isSome = true ∧ frozen.rel.h0Lost = false := ⟨rfl, rfl, rfl, rfl, rfl, rfl⟩
/-- Answers 0 and 3; a record that no parked fault waits for; an entry whose registers from v8 on `rshrink` has freed. -/
theorem witness_BadAnswers :
    ([0, 3].map fun a => ((answered a).eng.faults.find? fun (_, f) => f.queued == some 0).isSome &&
      (answered a).mem.phys.num ((answered a).hub.fqBase.toNat + 32 * (0 % (answered a).fqSize) + 0x18) 8 == a) = [true, true] ∧
    (State.reset.eng.faults.find? fun (_, f) => f.queued == some 0).isNone = true ∧
    ((resolved.ctx? 0).bind fun c => (c.log.look 0).map fun e => ({ e with limit := some 8 } : LogEntry).keeps [.v 0 7 1#32, .v 0 8 1#32] == [.v 0 7 1#32])
      = some true := by decide +kernel
/-- Lanes whose binding alone is ready, and with another. -/
theorem witness_ChooseBind :
    chooseBind { last := 1, yielded := false, run := 7, clause := none, latch := [] } [1] = some (1, 0) ∧
    chooseBind { last := 1, yielded := false, run := 7, clause := none, latch := [] } [0, 1] = some (1, 8) ∧
    (∀ b ∈ [0, 1], b < 8) := by decide
/-- A context with no live slot that holds a page in transit; one whose stores are not done. -/
theorem witness_Retires :
    ((ended.ctx? 0).map fun c => decide (∀ x ∈ ended.eng.transit, x.1 ≠ c.uid)) = some true ∧
    (((ended.ctx? 0).map fun c => ({ ended with mem := { ended.mem with merge := [{ line with stores := [{ off := 1, byte := 7#8, owner := c.uid, priv := true, bad := false }] }] } } : State).storesOf c.uid)) = some true := by
  decide +kernel
/-- The line of a view of 32 words: all its bytes are there; a view of 8 words: its line's other bytes fault. -/
def shortView : State := { paged State.reset with
  hub := { (paged State.reset).hub with vquota := State.reset.hub.vquota.set 0 0x100000#32 },
  eng := { State.reset.eng with views := [(0, { words := [0x60000#64, 0x8E00010200#64, 0x100000008#64, 0x100000001#64, 0x100000001#64], asid := 0 })] } }
theorem witness_ComposedLines :
    ((paged (viewed 0x8E00010200#64)).farView (2 ^ 56 / 2 ^ 44 % 4096) = false ∧
      (((paged (viewed 0x8E00010200#64)).composed (lineRequester 0 0) (2 ^ 56 / 128)).2.map (·.isSome)) = List.replicate 128 true) ∧
    (shortView.composed (lineRequester 0 0) (2 ^ 56 / 128)).2.map (·.isSome) = List.replicate 32 true ++ List.replicate 96 false := by decide +kernel
/-- A down package of the collective's group: which packages a group holds is open (Config.inGroup). -/
theorem witness_CollDown (h : Config.inGroup 0 1 = true) :
    let s := { colls with hub := { colls.hub with peerDom := 2#64, peerDown := colls.hub.peerDown ||| BitVec.ofNat _ 2 } }
    ∃ p ∈ s.collMembers collective, p ≠ s.hub.peerSelf.toNat ∧ s.peerDown p = true := by
  have g : collective.at_ 3 / 2 ^ 16 % 2 ^ 16 = 0 := by decide +kernel
  refine ⟨1, ?_, by decide +kernel, by decide +kernel⟩
  simp only [State.collMembers, g]
  rw [if_neg (by decide +kernel)]
  exact List.mem_filter.2 ⟨by decide +kernel, by simpa using Or.inr h⟩


/-- An `mmas` in progress at the head of the queue: A of 8 by 32 and B of 32 by 8 in BF16, zeros, the metadata words of A at VA 0x2000. -/
def sparseOp : MatOp :=
  { matrixOp with form := .sparse, c := rec_ 0 0x885 32 8 8 0, a := rec_ 0x400 0x800 64 8 32 0x2000, b := rec_ 0x800 0x840 16 32 8 0 }
def sparsePass (word : Nat) : State :=
  let s := paged (scr comp)
  let m : Matrix := { Matrix.fresh with queue := [sparseOp], started := true, mprog := mprogOf 0 0 1 }
  { s with eng := { s.eng with matrices := [(0, m)] }, mem := { s.mem with phys := s.mem.phys.pokeNum 0x2000 4 word } }
theorem witness_SparsePass :
    (sparsePass 0).matrixFree ((sparsePass 0).matrix 0) = true ∧ sparseOp.form = .sparse ∧ (sparsePass 0).matrixPreempted 0 = false ∧
    ((sparsePass 0).ctx? (ctxKey 0 512 0)).isSome = true ∧
    (match (sparsePass 0).metaCheck (sparseOp.requester 0) 0 sparseOp.aDesc 0 0 1 with | (_, .ok (some (0, 0x2000))) => true | _ => false) = true ∧
    (match (sparsePass 0x44444444).metaCheck (sparseOp.requester 0) 0 sparseOp.aDesc 0 0 1 with
      | (s1, .ok none) => (match (s1.walkAhead (sparseOp.requester 0) (sparseOp.ahead (bandRows 8 0 0 1) (bandCols 8 0))).passValues 0 sparseOp
          (bandRows 8 0 0 1) (bandCols 8 0) with | (_, .ok rows) => rows.length == 8 | _ => false)
      | _ => false) = true := by decide +kernel
/-- An element in the store, in both orders; a block of elements that read as they stand; a scale of NaN. -/
theorem witness_DenseValues :
    (matDesc (rec_ 0x400 0x800 64 8 32 0)).space = 1 ∧ (matDesc (rec_ 0x400 0x2800 64 8 32 0)).tr = true ∧ (scr comp).mem.storePoison = [] ∧
    0x400 + 7 * 64 + 31 * 2 + matSize 0 ≤ 2 ^ 24 ∧ (matDesc (rec_ 0x400 0x800 64 8 32 0)).zs = false ∧ (matDesc (rec_ 0x400 0x800 64 8 32 0)).sc = false ∧
    (match (scr comp).matElement (matrixOp.requester 0) 0 (matDesc (rec_ 0x400 0x800 64 8 32 0)) 7 31 with | (_, .ok v) => v == 0 | _ => false) = true ∧
    ((0 : Nat) ≠ 4 ∧ ([(0, 0)] : List (Nat × Nat)) ≠ []) := by decide +kernel


/-- A node that is done but for a gather which still writes its arrival map; and one whose gathers have ended. -/
def closing (x : Option Bool) : State :=
  { noded { Node.blank .kernel with state := .finished } with
    eng := { State.reset.eng with gathers := [(0, [{ gathering [] false 0 with node := 3, isNode := true, closing := x }])] } }
theorem witness_PreemptTraps : ((closing (some false)).closes 3, (closing none).closes 3) = (true, false) ∧
    ((closing (some false)).node? 3).map (fun n => (closing (some false)).nodeDone 3 n && n.engineFail.isNone && n.code == 0#8) = some true ∧
    ((fresh.ctx? 0).map fun c => c.paths.all fun p => p.msparse.isNone && p.start == 0 && p.skip == 0) = some true ∧
    ((held 1 1 0xF).unitOf 0 1 = some 1 ∧ ((held 1 1 0xF).preUnit 1).isNone = true ∧
      ((held 1 1 0xF).work.ctxs.any fun y => (held 1 1 0xF).unitHolds 1 y.2 && !y.2.symbolic && y.2.trap.isSome && y.2.live != 0#32) = true) := by decide +kernel
open Claims in
/-- Codes of each class in FP32, FP16 and BF16; sources and destinations that Table 14.10 allows. -/
theorem witness_FloatCodes :
    (isFinite 0 0x7F7FFFFF ∧ isInfinite 0 0xFF800000 ∧ isNan 0 0x7FC00000 ∧ isSignalling 0 0x7F800001 ∧ ¬isSignalling 0 0x7FC00000) ∧
    (isFinite 1 0x7BFF ∧ isInfinite 1 0xFC00 ∧ isNan 1 0x7E00 ∧ isSignalling 1 0x7C01) ∧ (isFinite 2 0x7F7F ∧ isInfinite 2 0xFF80 ∧ isNan 2 0x7FC0) ∧
    (isFinite 3 0x7E ∧ isFinite 4 0x7B ∧ sourceNan 3 0xFF#64 ∧ sourceNan 4 0x7D#64 ∧ sourceNan 6 0xFF#64 ∧ sourceInfinite 4 0xFC#64) ∧
    (sourceFinite 0 0#64 ∧ sourceFinite 5 63#64 ∧ sourceFinite 6 254#64 ∧ sourceFinite 10 (-1)) ∧ sourceSignals 0 0x7F800001#64 := by
  simp [isFinite, isInfinite, isNan, isSignalling, sourceNan, sourceInfinite, sourceFinite, sourceSignals, floatForm]
theorem witness_ConversionWords : ([(1, 0), (8, 64), (6, 0), (10, 8), (3, 1), (5, 80), (7, 24), (10, 73)] : List (Nat × Nat)).map
    (fun x => cvtOk (reg 10 2 0 0 x.1 x.2)) = List.replicate 8 true := by decide

end Sys2Proof.Tests
end

section
/-! PROOFS. The opcode map of Table 13.10: which codes are opcodes, and what becomes of a body word whose code is none (R252, R253). -/

namespace Sys2Proof.Machine

/-! The opcode of a word, and the codes that a layout takes -/

/-- A code that one of the three layouts names as an opcode (R252). -/
def isOpcode (op : Nat) : Bool := (regOp op).isSome || (immOp op).isSome || (memOp op).isSome

/-- A code that no word of a clause may carry: unassigned, or of a header (R253). -/
def NeverRuns (op : Nat) : Prop := op ∈ Claims.unassignedCodes ∨ 0xF0 ≤ op

theorem opField_toNat (x : Dbl) : (bitsAt x 56 8).toNat = x.toNat / 2 ^ 56 := by
  have hx := x.isLt
  rw [bitsAt, BitVec.extractLsb'_toNat, Nat.shiftRight_eq_div_pow, Nat.mod_eq_of_lt (by omega)]

theorem opField_lt (x : Dbl) : x.toNat / 2 ^ 56 < 256 := by
  have hx := x.isLt
  omega

/-- Table 13.10, code by code: the opcodes are the codes below the headers' that are not marked "—". -/
theorem isOpcode_table : ∀ op < 256, isOpcode op = (decide (op < 0xF0) && !decide (op ∈ Claims.unassignedCodes)) := by
  decide +kernel

theorem isOpcode_of_assigned {op : Nat} (hlt : op < 0xF0) (hop : op ∉ Claims.unassignedCodes) : isOpcode op = true := by
  simp [isOpcode_table op (by omega), hlt, hop]

theorem NeverRuns.not_isOpcode {op : Nat} (h : NeverRuns op) (hlt : op < 256) : isOpcode op = false := by
  rw [isOpcode_table op hlt]
  rcases h with h | h
  · simp [h]
  · simp [Nat.not_lt.2 h]

theorem lt_headerCodes_of_unassigned : ∀ op ∈ Claims.unassignedCodes, op < 0xF0 := by decide

/-! Decoding by the opcode alone -/

/-- A word whose code is no opcode is rejected for that code, whatever its other fields hold. -/
theorem rawDecode_of_not_isOpcode {x : Dbl} (h : isOpcode (x.toNat / 2 ^ 56) = false) :
    rawDecode x = .error (if 0xF0 ≤ x.toNat / 2 ^ 56 then .headerCode else .unassigned (bitsAt x 56 8)) := by
  simp only [isOpcode, Bool.or_eq_false_iff, Option.isSome_eq_false_iff, Option.isNone_iff_eq_none] at h
  obtain ⟨⟨hreg, himm⟩, hmem⟩ := h
  simp only [rawDecode, opField_toNat, hreg, himm, hmem]
  split <;> rfl

/-- A word whose code is an opcode names an instruction, before the checks of R259. -/
theorem rawDecode_of_isOpcode {x : Dbl} (h : isOpcode (x.toNat / 2 ^ 56) = true) : ∃ i, rawDecode x = .ok i := by
  simp only [rawDecode, opField_toNat]
  generalize x.toNat / 2 ^ 56 = op at h
  cases hreg : regOp op with
  | some f => exact ⟨_, rfl⟩
  | none =>
    cases himm : immOp op with
    | some f => exact ⟨_, rfl⟩
    | none =>
      cases hmem : memOp op with
      | some f => exact ⟨_, rfl⟩
      | none => simp [isOpcode, hreg, himm, hmem] at h

theorem decode_unpaired_of_rawDecode_error {x : Dbl} {e : DecodeError} (k : Cls) (h : rawDecode x = .error e) :
    decode k false x = .error e := by
  simp [decode, h]

theorem decode_of_unassigned (k : Cls) {x : Dbl} (h : x.toNat / 2 ^ 56 ∈ Claims.unassignedCodes) :
    decode k false x = .error (.unassigned (BitVec.ofNat 8 (x.toNat / 2 ^ 56))) := by
  have hno : isOpcode (x.toNat / 2 ^ 56) = false := NeverRuns.not_isOpcode (.inl h) (opField_lt x)
  have hlow := lt_headerCodes_of_unassigned _ h
  have hop : bitsAt x 56 8 = BitVec.ofNat 8 (x.toNat / 2 ^ 56) := by rw [← opField_toNat, BitVec.ofNat_toNat, BitVec.setWidth_eq]
  have hraw := rawDecode_of_not_isOpcode hno
  rw [if_neg (Nat.not_le.2 hlow), hop] at hraw
  exact decode_unpaired_of_rawDecode_error k hraw

theorem decode_of_headerCode (k : Cls) {x : Dbl} (h : 0xF0 ≤ x.toNat / 2 ^ 56) : decode k false x = .error .headerCode := by
  have hraw := rawDecode_of_not_isOpcode (NeverRuns.not_isOpcode (.inr h) (opField_lt x))
  rw [if_pos h] at hraw
  exact decode_unpaired_of_rawDecode_error k hraw

theorem NeverRuns.decode_error {x : Dbl} (h : NeverRuns (x.toNat / 2 ^ 56)) (k : Cls) : ∃ e, decode k false x = .error e := by
  rcases h with h | h
  · exact ⟨_, decode_of_unassigned k h⟩
  · exact ⟨_, decode_of_headerCode k h⟩

theorem rawDecode_of_assigned {op : Nat} (hlt : op < 0xF0) (hop : op ∉ Claims.unassignedCodes) :
    ∃ i, rawDecode (BitVec.ofNat 64 (op * 2 ^ 56)) = .ok i := by
  apply rawDecode_of_isOpcode
  rw [BitVec.toNat_ofNat, Nat.mod_eq_of_lt (by omega), Nat.mul_div_cancel _ (by decide)]
  exact isOpcode_of_assigned hlt hop

/-! A word that does not decode: at the scan, and on a lane -/

/-- A body word inside the frame that does not decode fails the scan at its own address (R259). -/
theorem scanBody_of_decode_error {m : Memory} {h : Header} {k : Cls} {limit a j : Nat} {e : DecodeError} (n : Nat) (ha : a < limit)
    (he : decode k (h.paired j) (m.dbl a) = .error e) : scanBody m h k limit (n + 1) a j = some a := by
  simp [scanBody, Nat.not_le.2 ha, he]

theorem State.nextWord_of_decode_error {s : State} {cluster lane : Nat} {cl : Clause} {c : Ctx} {h : Header} {x : Dbl} {e : DecodeError}
    (hclause : (s.lane (laneKey cluster lane)).clause = some cl) (hctx : s.ctx? (ctxKey cluster lane cl.bind) = some c)
    (hheader : parseHeader cl.header = some h) (hword : cl.words[cl.pos - 1]? = some x) (he : decode c.cls (h.paired cl.pos) x = .error e) :
    s.nextWord cluster lane = .undecodable x := by
  simp only [State.nextWord, hclause, hctx, hheader, hword, he]

theorem laneMove_of_undecodable {s : State} {cluster lane : Nat} {x : Dbl} (hrun : s.stalled = false)
    (hnext : s.nextWord cluster lane = .undecodable x) : laneMove s cluster lane = .refused (.notDecodable x) := by
  simp [laneMove, hrun, hnext]

/-- A lane's step looks at the lane as it stands: taking the move off the agenda changes neither its clause nor whether the package runs. -/
theorem step_of_undecodable {s : State} {cluster lane : Nat} {r : List Move} {x : Dbl} (hagenda : s.agenda = .lane cluster lane :: r)
    (hrun : s.stalled = false) (hnext : s.nextWord cluster lane = .undecodable x) : step s = .refused (.notDecodable x) := by
  have hmove : step s = laneMove { s with agenda := r } cluster lane := by simp only [step, hagenda]
  exact hmove.trans (laneMove_of_undecodable hrun hnext)

/-! The obligation -/

/-- Settles O28: Table 13.10 read code by code says which codes have an opcode; decoding, the scan and the step of a lane follow from the
code alone. -/
theorem unassignedCodesNeverRun : Obligations.UnassignedCodesNeverRun := by
  unfold Obligations.UnassignedCodesNeverRun
  refine ⟨by decide, fun k x => decode_of_unassigned k, fun k x => decode_of_headerCode k, fun n => rawDecode_of_assigned, ?scan, ?step⟩
  case scan =>
    intro m h k limit n a j ha hpair hcode
    obtain ⟨e, he⟩ := NeverRuns.decode_error hcode k
    exact scanBody_of_decode_error n ha (by rw [hpair]; exact he)
  case step =>
    intro s cluster lane r cl c h x hrun hclause hctx hheader hword hpair hcode hagenda
    obtain ⟨e, he⟩ := NeverRuns.decode_error hcode c.cls
    exact step_of_undecodable hagenda hrun
      (State.nextWord_of_decode_error hclause hctx hheader hword (by rw [hpair]; exact he))

end Sys2Proof.Machine
end

section
/-! PROOFS. `fclass`, `fmin` and `fmax`: the fields of an FP32 code, its class, and the order of codes (R294, R295). -/

namespace Sys2Proof.Machine

open Sys2Proof.Safety

/-! A computed word: what it writes and raises, and what its rules fix -/

/-- Outside a trunk or limb a word that a pure function computes writes its results slot by slot and raises their flags together (R36). -/
theorem runsAs_of_issueAlu {i : Instr} {f : Args → Res} (h : ∀ s, exec i s = s.issueAlu i f) : Claims.RunsAs i f := by
  intro s u hissues hconcrete
  rw [h, State.issueAlu, State.issueWord_next _ hissues]
  simp [aluBody, hconcrete, doneWith, List.flatMap_map, List.foldl_map]

/-- A chain of checks answers no rule only past its first check. -/
theorem check_passed {p : Prop} [Decidable p] {e : BadWord} {r : Option BadWord} : (if p then some e else r) = none ↔ ¬p ∧ r = none := by
  split <;> simp [*]

/-- A word that breaks no rule is accepted in its CLASS, and its modifiers and formats are accepted there. -/
theorem Spec.accepts_of_bad_none {k : Cls} {sp : Spec} {d a b c : BitVec 8} {gp sb : BitVec 3} {gn : BitVec 1} {ma mb mc : Bool}
    (h : sp.bad k d a b c gp gn sb ma mb mc = none) :
    (if k = .vector then sp.c0 else sp.c1) = true ∧ sp.m = true ∧ (if k = .vector then sp.f0 else sp.f1) = true := by
  simp only [Spec.bad, check_passed, Bool.not_eq_true', Bool.not_eq_false] at h
  obtain ⟨hcls, -, -, hmod, hfmt, -⟩ := h
  exact ⟨hcls, hmod, hfmt⟩

/-- FMT and MOD of a well-formed `fclass` (R295); it is no word of the compositor. -/
theorem fclass_fmt_mod_zero {w : RegWord} {k : Cls} (h : (Instr.fclass w).wf k = true) : w.fmt = 0#4 ∧ w.mod = 0#7 := by
  simp only [Instr.wf, Option.isNone_iff_eq_none, Instr.bad, Instr.layout, Instr.spec] at h
  obtain ⟨hcls, hmod, hfmt⟩ := Spec.accepts_of_bad_none h
  cases k with
  | compositor => simp [Spec.plain, Spec.vec] at hcls
  | vector =>
    simp only [Spec.plain, RegWord.modIn, RegWord.fmtIn, if_true] at hmod hfmt
    have hmask : w.mod &&& ~~~0#7 = w.mod := by rw [BitVec.not_zero, BitVec.and_allOnes]
    rw [hmask] at hmod
    exact ⟨by simpa [← BitVec.toNat_inj] using hfmt, by simpa using hmod⟩

/-! The fields of an FP32 code as whole numbers (Table 9.1) -/

theorem exponent_toNat (z : Word) : (z.extractLsb' 23 8).toNat = z.toNat / 2 ^ 23 % 256 := by
  rw [BitVec.extractLsb'_toNat, Nat.shiftRight_eq_div_pow]

theorem fraction_toNat (z : Word) : (z.extractLsb' 0 23).toNat = z.toNat % 2 ^ 23 := by
  rw [BitVec.extractLsb'_toNat, Nat.shiftRight_zero]

theorem magnitude_toNat (z : Word) : (z.extractLsb' 0 31).toNat = z.toNat % 2 ^ 31 := by
  rw [BitVec.extractLsb'_toNat, Nat.shiftRight_zero]

theorem exponent_eq_iff (z : Word) (e : BitVec 8) : z.extractLsb' 23 8 = e ↔ z.toNat / 2 ^ 23 % 256 = e.toNat := by
  rw [← BitVec.toNat_inj, exponent_toNat]

theorem fraction_eq_iff (z : Word) (f : BitVec 23) : z.extractLsb' 0 23 = f ↔ z.toNat % 2 ^ 23 = f.toNat := by
  rw [← BitVec.toNat_inj, fraction_toNat]

theorem getLsbD_eq_toNat_bit (z : Word) (j : Nat) : z.getLsbD j = decide (z.toNat / 2 ^ j % 2 = 1) := by
  rw [BitVec.getLsbD, Nat.testBit_eq_decide_div_mod_eq]

theorem fraction_quietBit (z : Word) : (z.extractLsb' 0 23).getLsbD 22 = z.getLsbD 22 := by simp

/-! NaNs (Table 9.2) -/

/-- A code is a NaN; a signalling one. -/
def NanCode (z : Word) : Prop := z.extractLsb' 23 8 = 255#8 ∧ z.extractLsb' 0 23 ≠ 0#23
def Signals (z : Word) : Prop := NanCode z ∧ z.getLsbD 22 = false

theorem isNan32_iff (z : Word) : isNan32 z.toNat = true ↔ NanCode z := by
  have hz := z.isLt
  simp only [isNan32, NanCode, decide_eq_true_eq, ne_eq, exponent_eq_iff, fraction_eq_iff, BitVec.toNat_ofNat]
  omega

theorem isSnan32_iff (z : Word) : isSnan32 z.toNat = true ↔ Signals z := by
  rw [isSnan32, Bool.and_eq_true, isNan32_iff, Signals, getLsbD_eq_toNat_bit, decide_eq_false_iff_not, beq_iff_eq, ← ne_eq, Nat.mod_two_ne_one]

/-! The class of a code (R295) -/

/-- The class is that of the low 32 bits. -/
theorem floatClass_low (n : Nat) : floatClass (n % 2 ^ 32) = floatClass n := by
  have hsign : n % 2 ^ 32 / 2 ^ 31 % 2 = n / 2 ^ 31 % 2 := by omega
  have hexp : n % 2 ^ 32 / 2 ^ 23 % 256 = n / 2 ^ 23 % 256 := by omega
  have hfrac : n % 2 ^ 32 % 2 ^ 23 = n % 2 ^ 23 := by omega
  have hmag : n % 2 ^ 32 % 2 ^ 31 = n % 2 ^ 31 := by omega
  have hquiet : n % 2 ^ 32 / 2 ^ 22 % 2 = n / 2 ^ 22 % 2 := by omega
  unfold floatClass isSnan32 isNan32
  rw [hsign, hexp, hfrac, hmag, hquiet]

/-- The class read off exponent, fraction, sign and quiet bit. -/
theorem floatClass_toNat (z : Word) : floatClass z.toNat =
    if z.extractLsb' 23 8 = 255#8 then
      if z.extractLsb' 0 23 = 0#23 then (if z.getLsbD 31 then 4 else 512) else (if z.getLsbD 22 then 2 else 1)
    else if z.extractLsb' 23 8 = 0#8 then
      if z.extractLsb' 0 23 = 0#23 then (if z.getLsbD 31 then 32 else 64) else (if z.getLsbD 31 then 16 else 128)
    else if z.getLsbD 31 then 8 else 256 := by
  have hmax : z.toNat / 2 ^ 23 % 256 = 255 ↔ z.extractLsb' 23 8 = 255#8 := (exponent_eq_iff z 255#8).symm
  have hmin : z.toNat / 2 ^ 23 % 256 = 0 ↔ z.extractLsb' 23 8 = 0#8 := (exponent_eq_iff z 0#8).symm
  have hfrac : z.toNat % 2 ^ 23 = 0 ↔ z.extractLsb' 0 23 = 0#23 := (fraction_eq_iff z 0#23).symm
  have hsign : (z.toNat / 2 ^ 31 % 2 == 1) = z.getLsbD 31 := (getLsbD_eq_toNat_bit z 31).symm
  simp only [floatClass, hsign, isSnan32_iff, Signals, NanCode]
  simp only [hmax, hmin, hfrac, ne_eq]
  by_cases he : z.extractLsb' 23 8 = 255#8
  · by_cases hf : z.extractLsb' 0 23 = 0#23 <;> cases hq : z.getLsbD 22 <;> simp [he, hf]
  · by_cases hz : z.extractLsb' 23 8 = 0#8 <;> simp [he, hz]

/-- `fclass` sees the low 32 bits of its operand and raises no flag. -/
theorem fclassOp_eq (w : RegWord) (x : Args) :
    fclassOp w x = { val := BitVec.ofNat 64 (floatClass (x.a.setWidth 32 : Word).toNat), flags := 0#32 } := by
  rw [BitVec.toNat_setWidth, floatClass_low]; rfl

theorem fclassNamesOneClass : Claims.FclassNamesOneClass := by
  refine ⟨fun w k => fclass_fmt_mod_zero, fun w => runsAs_of_issueAlu fun _ => rfl, ?_⟩
  intro w x
  simp only [fclassOp_eq, floatClass_toNat, fraction_quietBit]
  generalize (x.a.setWidth 32 : Word) = a
  refine ⟨trivial, ?snan, ?qnan, ?negInf, ?negNormal, ?negSubnormal, ?negZero, ?posZero, ?posSubnormal, ?posNormal, ?posInf⟩
  case snan => intro he hf hq; simp only [he, hf, hq, Bool.false_eq_true, if_true, if_false]
  case qnan =>
    intro he hq
    have hf : a.extractLsb' 0 23 ≠ 0#23 := by
      intro hzero
      rw [← fraction_quietBit, hzero] at hq
      contradiction
    simp [he, hf, hq]
  case negInf => intro he hf hs; simp [he, hf, hs]
  case negNormal => intro he hz hs; simp [he, hz, hs]
  case negSubnormal => intro hz hf hs; simp [hz, hf, hs]
  case negZero => rintro rfl; decide
  case posZero => rintro rfl; decide
  case posSubnormal => intro hz hf hs; simp only [hz, hf, hs, BitVec.reduceEq, Bool.false_eq_true, if_true, if_false]
  case posNormal => intro he hz hs; simp only [he, hz, hs, Bool.false_eq_true, if_false]
  case posInf => intro he hf hs; simp only [he, hf, hs, Bool.false_eq_true, if_true, if_false]

/-! Subnormals under FTZ (R172) -/

/-- A code as an operand under FTZ: a subnormal is a zero of its sign. -/
def flushed (ftz : Bool) (z : Word) : Word := if ftz = true ∧ z.extractLsb' 23 8 = 0#8 then z &&& 0x80000000#32 else z

theorem signOnly_toNat (z : Word) : (z &&& 0x80000000#32).toNat = z.toNat / 2 ^ 31 % 2 * 2 ^ 31 := by
  rw [BitVec.toNat_and, ← Nat.toNat_testBit]
  exact Nat.and_two_pow z.toNat 31

theorem flush32_toNat (ftz : Bool) (z : Word) : flush32 ftz z.toNat = (flushed ftz z).toNat := by
  have hexp : z.toNat / 2 ^ 23 % 256 = 0 ↔ z.extractLsb' 23 8 = 0#8 := (exponent_eq_iff z 0#8).symm
  rw [flush32, flushed, Nat.mod_eq_of_lt z.isLt]
  simp only [hexp]
  split
  · rw [signOnly_toNat]
  · rfl

theorem flushed_of_nan {z : Word} (ftz : Bool) (h : NanCode z) : flushed ftz z = z := by
  simp [flushed, h.1]

theorem nanCode_flushed (ftz : Bool) (z : Word) : NanCode (flushed ftz z) ↔ NanCode z := by
  rw [flushed]
  split
  · rename_i hz
    have hzero : (z &&& 0x80000000#32).extractLsb' 23 8 = 0#8 := by
      rw [exponent_eq_iff, signOnly_toNat, BitVec.toNat_ofNat]; omega
    simp [NanCode, hz.2, hzero]
  · rfl

theorem signals_flushed (ftz : Bool) (z : Word) : Signals (flushed ftz z) ↔ Signals z := by
  by_cases hnan : NanCode z
  · rw [flushed_of_nan ftz hnan]
  · simp [Signals, nanCode_flushed, hnan]

/-! The order of codes (R294) -/

/-- The place of a code that is no NaN in the order, −0 just below +0. -/
def codeKey (z : Word) : Int := if z.getLsbD 31 then -((z.extractLsb' 0 31).toNat : Int) - 1 else (z.extractLsb' 0 31).toNat

theorem orderKey_toNat (z : Word) : orderKey z.toNat = codeKey z := by
  have hz := z.isLt
  simp only [orderKey, codeKey, getLsbD_eq_toNat_bit, magnitude_toNat, decide_eq_true_eq]
  split <;> split <;> omega

/-- No two codes share a place in the order. -/
theorem codeKey_injective {a b : Word} (h : codeKey a = codeKey b) : a = b := by
  have ha := a.isLt
  have hb := b.isLt
  rw [← orderKey_toNat, ← orderKey_toNat] at h
  simp only [orderKey] at h
  apply BitVec.eq_of_toNat_eq
  split at h <;> split at h <;> omega

/-! The lesser and the greater of two codes (R294) -/

theorem isNan32_flushed (ftz : Bool) (z : Word) : isNan32 (flushed ftz z).toNat = isNan32 z.toNat := by
  rw [Bool.eq_iff_iff, isNan32_iff, isNan32_iff, nanCode_flushed]

theorem isSnan32_flushed (ftz : Bool) (z : Word) : isSnan32 (flushed ftz z).toNat = isSnan32 z.toNat := by
  rw [Bool.eq_iff_iff, isSnan32_iff, isSnan32_iff, signals_flushed]

section
variable (wantMax ftz : Bool) (a b : Word)

/-- The four cases of R294, and INV for a signalling NaN in each. -/
theorem floatMinMax_toNat : floatMinMax wantMax ftz a.toNat b.toNat =
    (if isNan32 a.toNat ∧ isNan32 b.toNat then 0x7FC00000
      else if isNan32 a.toNat then (flushed ftz b).toNat
      else if isNan32 b.toNat then (flushed ftz a).toNat
      else if wantMax = decide (codeKey (flushed ftz b) ≤ codeKey (flushed ftz a)) then (flushed ftz a).toNat else (flushed ftz b).toNat,
     flagIf (isSnan32 a.toNat || isSnan32 b.toNat) flagInv) := by
  simp only [floatMinMax, isNan32_flushed, isSnan32_flushed, flush32_toNat, orderKey_toNat, ge_iff_le, canonicalNan]
  split_ifs <;> rfl

variable {a b}

theorem floatMinMax_of_nans (ha : NanCode a) (hb : NanCode b) : (floatMinMax wantMax ftz a.toNat b.toNat).1 = (0x7FC00000#32).toNat := by
  simp [floatMinMax_toNat, isNan32_iff, ha, hb]

theorem floatMinMax_of_left_nan (ha : NanCode a) (hb : ¬NanCode b) : (floatMinMax wantMax ftz a.toNat b.toNat).1 = (flushed ftz b).toNat := by
  simp [floatMinMax_toNat, isNan32_iff, ha, hb]

theorem floatMinMax_of_right_nan (ha : ¬NanCode a) (hb : NanCode b) : (floatMinMax wantMax ftz a.toNat b.toNat).1 = (flushed ftz a).toNat := by
  simp [floatMinMax_toNat, isNan32_iff, ha, hb]

/-- The lesser of two numbers: on equal keys the codes are the same, so it does not matter which is taken. -/
theorem floatMin_of_numbers (ha : ¬NanCode a) (hb : ¬NanCode b) : (floatMinMax false ftz a.toNat b.toNat).1 =
    (if codeKey (flushed ftz a) ≤ codeKey (flushed ftz b) then flushed ftz a else flushed ftz b).toNat := by
  simp only [floatMinMax_toNat, isNan32_iff, ha, hb, and_self, if_false, eq_comm (a := false), decide_eq_false_iff_not, not_le]
  rcases lt_trichotomy (codeKey (flushed ftz a)) (codeKey (flushed ftz b)) with hlt | heq | hgt
  · rw [if_pos hlt, if_pos hlt.le]
  · rw [codeKey_injective heq, ite_self, ite_self]
  · rw [if_neg hgt.not_gt, if_neg hgt.not_ge]

theorem floatMax_of_numbers (ha : ¬NanCode a) (hb : ¬NanCode b) : (floatMinMax true ftz a.toNat b.toNat).1 =
    (if codeKey (flushed ftz b) ≤ codeKey (flushed ftz a) then flushed ftz a else flushed ftz b).toNat := by
  simp only [floatMinMax_toNat, isNan32_iff, ha, hb, and_self, if_false, eq_comm (a := true), decide_eq_true_eq]
  split <;> rfl

theorem floatMinMax_flags_of_signals (h : Signals a ∨ Signals b) : (floatMinMax wantMax ftz a.toNat b.toNat).2 = 1#32 := by
  have hs : (isSnan32 a.toNat || isSnan32 b.toNat) = true := by rwa [Bool.or_eq_true, isSnan32_iff, isSnan32_iff]
  rw [floatMinMax_toNat, hs]; rfl

theorem floatMinMax_flags_of_quiet (ha : ¬Signals a) (hb : ¬Signals b) : (floatMinMax wantMax ftz a.toNat b.toNat).2 = 0#32 := by
  have hs : (isSnan32 a.toNat || isSnan32 b.toNat) = false := by
    rw [← Bool.not_eq_true, Bool.or_eq_true, isSnan32_iff, isSnan32_iff, not_or]
    exact ⟨ha, hb⟩
  rw [floatMinMax_toNat, hs]; rfl

end

/-! The words on 32-bit operands -/

theorem word_setWidth_toNat (z : Word) : (z.setWidth 64 : Dbl).toNat = z.toNat :=
  BitVec.toNat_setWidth_of_le (by decide)

theorem Res.of_val_word {c : Coded} {z : Word} (h : c.1 = z.toNat) : (Res.of c).val = z.setWidth 64 := by
  rw [Res.of, h, BitVec.ofNat_toNat]

theorem floatMinMaxFollowOrder : Claims.FloatMinMaxFollowOrder := by
  refine ⟨fun w => ⟨runsAs_of_issueAlu fun _ => rfl, runsAs_of_issueAlu fun _ => rfl⟩,
    fun v => ⟨runsAs_of_issueAlu fun _ => rfl, runsAs_of_issueAlu fun _ => rfl⟩, ?immediate, ?results⟩
  case immediate =>
    intro v w x hftz
    simp only [fminImmOp, fminOp, fmaxImmOp, fmaxOp, hftz, word_setWidth_toNat, and_self]
  case results =>
    intro w a b c d k x
    have hmin : fminOp w x = Res.of (floatMinMax false w.ftz a.toNat b.toNat) := by simp only [fminOp, x, word_setWidth_toNat]
    have hmax : fmaxOp w x = Res.of (floatMinMax true w.ftz a.toNat b.toNat) := by simp only [fmaxOp, x, word_setWidth_toNat]
    rw [hmin, hmax]
    exact ⟨fun ha hb => ⟨Res.of_val_word (floatMinMax_of_nans false _ ha hb), Res.of_val_word (floatMinMax_of_nans true _ ha hb)⟩,
      fun ha hb => ⟨Res.of_val_word (floatMinMax_of_left_nan false _ ha hb), Res.of_val_word (floatMinMax_of_left_nan true _ ha hb)⟩,
      fun ha hb => ⟨Res.of_val_word (floatMinMax_of_right_nan false _ ha hb), Res.of_val_word (floatMinMax_of_right_nan true _ ha hb)⟩,
      fun ha hb => ⟨Res.of_val_word (floatMin_of_numbers _ ha hb), Res.of_val_word (floatMax_of_numbers _ ha hb)⟩,
      fun h => ⟨floatMinMax_flags_of_signals false _ h, floatMinMax_flags_of_signals true _ h⟩,
      fun ha hb => ⟨floatMinMax_flags_of_quiet false _ ha hb, floatMinMax_flags_of_quiet true _ ha hb⟩⟩

/-! The obligation -/

/-- Settles O29: the class is read off the fields of the code; `fmin` and `fmax` are the four cases of R294, where codes of one place in the
order are the same code. -/
theorem floatClassAndOrder : Obligations.FloatClassAndOrder := ⟨fclassNamesOneClass, floatMinMaxFollowOrder⟩

end Sys2Proof.Machine
end

section
/-! PROOFS. `idiv` and `irem`: how an operand reads in its type, and the four rows of Table 15.5 (R312, R313). -/

namespace Sys2Proof.Machine

/-! An operand of an integer type, and a result of one (Table 13.7) -/

/-- FMT names an integer type of `n` bits. -/
structure IntWidth (w : RegWord) (n : Nat) : Prop where
  bits : typeBits w.fmt.toNat = n
  width : w.width = n

theorem intWidth_32 {w : RegWord} (h : w.fmt = 8#4 ∨ w.fmt = 9#4) : IntWidth w 32 := by
  rcases h with h | h <;> exact ⟨by rw [h]; rfl, by rw [RegWord.width, h]; rfl⟩

theorem intWidth_64 {w : RegWord} (h : w.fmt = 10#4) : IntWidth w 64 := ⟨by rw [h]; rfl, by rw [RegWord.width, h]; rfl⟩

theorem asInt_unsigned (z : Dbl) : asInt 9 z = (z.setWidth 32).toNat := by
  rw [asInt, if_pos rfl, BitVec.toNat_setWidth]

theorem sextNat_toNat (z : Dbl) (n : Nat) : sextNat z.toNat n = (z.setWidth n).toInt := by
  rw [sextNat, BitVec.toInt_eq_toNat_cond, BitVec.toNat_setWidth]
  cases n with
  | zero => simp [Nat.mod_one]
  | succ m => simp only [Nat.pow_succ, Nat.add_sub_cancel, Nat.mul_comm 2, Nat.mul_lt_mul_right Nat.two_pos]

section
variable {t n : Nat}

theorem asInt_signed (ht : t ≠ 9) (hn : typeBits t = n) (z : Dbl) : asInt t z = (z.setWidth n).toInt := by
  rw [asInt, if_neg ht, sextNat_toNat, hn]

theorem asInt_eq_zero_iff (hn : typeBits t = n) (z : Dbl) : asInt t z = 0 ↔ z.setWidth n = 0#n := by
  by_cases ht : t = 9
  · subst ht hn
    rw [asInt_unsigned, Int.natCast_eq_zero]
    exact BitVec.toNat_inj (y := 0#32)
  · rw [asInt_signed ht hn, ← BitVec.toInt_inj, BitVec.toInt_zero]

theorem wrapNat_eq_ofInt (y : Int) (n : Nat) : wrapNat y n = (BitVec.ofInt n y).toNat := by
  rw [wrapNat, BitVec.toNat_ofInt]

theorem wrapNat_toNat (z : BitVec n) : wrapNat z.toNat n = z.toNat := by
  rw [wrapNat_eq_ofInt, BitVec.ofInt_natCast, BitVec.ofNat_toNat, BitVec.setWidth_eq]

theorem wrapNat_toInt (z : BitVec n) : wrapNat z.toInt n = z.toNat := by
  rw [wrapNat_eq_ofInt, BitVec.ofInt_toInt]

theorem wrapNat_asInt (hn : typeBits t = n) (z : Dbl) : wrapNat (asInt t z) n = (z.setWidth n).toNat := by
  by_cases ht : t = 9
  · subst ht hn
    rw [asInt_unsigned]
    exact wrapNat_toNat _
  · rw [asInt_signed ht hn, wrapNat_toInt]

/-- A value within the range of its type is neither clamped nor cut, with and without SAT. -/
theorem narrowInt_of_fits {y : Int} (sat : Bool) (hlo : intMin t ≤ y) (hhi : y ≤ intMax t) :
    narrowInt t sat y = (wrapNat y (typeBits t), 0#32) := by
  rw [narrowInt, if_neg fun h => h.2.not_ge hlo, if_neg fun h => h.2.not_ge hhi]

theorem narrowInt_unsigned (sat : Bool) (z : Word) : narrowInt 9 sat z.toNat = (z.toNat, 0#32) := by
  have hlt : z.toNat < 2 ^ 32 := z.isLt
  rw [narrowInt_of_fits sat (by simp [intMin]) (by simp only [intMax, if_true]; omega)]
  exact congrArg (·, 0#32) (wrapNat_toNat z)

theorem narrowInt_signed (ht : t ≠ 9) (hn : typeBits t = n) (sat : Bool) (z : BitVec n) :
    narrowInt t sat z.toInt = (z.toNat, 0#32) := by
  have hlo : -2 ^ (n - 1) ≤ z.toInt := z.le_toInt
  have hhi : z.toInt < 2 ^ (n - 1) := z.toInt_lt
  rw [narrowInt_of_fits sat, hn, wrapNat_toInt]
  · rw [intMin, if_neg ht, hn]; push_cast; exact hlo
  · rw [intMax, if_neg ht, hn]; push_cast [Nat.one_le_two_pow]; omega

end

theorem Res.of_toNat {n : Nat} (z : BitVec n) (f : Word) : Res.of (z.toNat, f) = { val := z.setWidth 64, flags := f } := by
  rw [Res.of, BitVec.ofNat_toNat]

theorem Res.ok_toNat {n : Nat} (z : BitVec n) : Res.ok z.toNat = { val := z.setWidth 64, flags := 0#32 } := Res.of_toNat z 0#32

/-! The rows of Table 15.5 -/

section
variable {w : RegWord} {t n : Nat}

theorem divFlag_asInt (hw : IntWidth w n) (z : Dbl) : divFlag (asInt w.fmt.toNat z) = if z.setWidth n = 0#n then 1#32 else 2#32 := by
  simp only [divFlag, asInt_eq_zero_iff hw.bits, flagInv, flagDz]

theorem idivOp_by_zero (hw : IntWidth w n) {x : Args} (hb : x.b.setWidth n = 0#n) :
    idivOp w x = { val := BitVec.ofNat 64 (2 ^ n - 1), flags := if x.a.setWidth n = 0#n then 1#32 else 2#32 } := by
  rw [idivOp, if_pos ((asInt_eq_zero_iff hw.bits _).mpr hb), divFlag_asInt hw, hw.width]

theorem iremOp_by_zero (hw : IntWidth w n) {x : Args} (hb : x.b.setWidth n = 0#n) :
    iremOp w x = { val := (x.a.setWidth n).setWidth 64, flags := if x.a.setWidth n = 0#n then 1#32 else 2#32 } := by
  rw [iremOp, if_pos ((asInt_eq_zero_iff hw.bits _).mpr hb), divFlag_asInt hw, hw.width, wrapNat_asInt hw.bits, BitVec.ofNat_toNat]

theorem idivOp_of_nonzero (hw : IntWidth w n) {x : Args} (hb : x.b.setWidth n ≠ 0#n) :
    idivOp w x = Res.of (narrowInt w.fmt.toNat w.sat ((asInt w.fmt.toNat x.a).tdiv (asInt w.fmt.toNat x.b))) := by
  rw [idivOp, if_neg fun h => hb ((asInt_eq_zero_iff hw.bits _).mp h)]

theorem iremOp_of_nonzero (hw : IntWidth w n) {x : Args} (hb : x.b.setWidth n ≠ 0#n) :
    iremOp w x = Res.ok (wrapNat ((asInt w.fmt.toNat x.a).tmod (asInt w.fmt.toNat x.b)) n) := by
  rw [iremOp, if_neg fun h => hb ((asInt_eq_zero_iff hw.bits _).mp h), hw.width]

theorem idivOp_unsigned (h : w.fmt = 9#4) {x : Args} (hb : (x.b.setWidth 32 : Word) ≠ 0#32) :
    idivOp w x = { val := ((x.a.setWidth 32 : Word) / x.b.setWidth 32).setWidth 64, flags := 0#32 } := by
  have ht : w.fmt.toNat = 9 := by rw [h]; rfl
  rw [idivOp_of_nonzero (intWidth_32 (.inr h)) hb, ht, asInt_unsigned, asInt_unsigned, ← Int.ofNat_tdiv, ← BitVec.toNat_udiv,
    narrowInt_unsigned, Res.of_toNat]

theorem iremOp_unsigned (h : w.fmt = 9#4) {x : Args} (hb : (x.b.setWidth 32 : Word) ≠ 0#32) :
    iremOp w x = { val := ((x.a.setWidth 32 : Word) % x.b.setWidth 32).setWidth 64, flags := 0#32 } := by
  have ht : w.fmt.toNat = 9 := by rw [h]; rfl
  rw [iremOp_of_nonzero (intWidth_32 (.inr h)) hb, ht, asInt_unsigned, asInt_unsigned, ← Int.ofNat_tmod, ← BitVec.toNat_umod,
    wrapNat_toNat, Res.ok_toNat]

section
variable (hw : IntWidth w n) (ht : w.fmt.toNat ≠ 9) {x : Args} (hb : x.b.setWidth n ≠ 0#n)
include hw ht hb

theorem idivOp_signed_of_toInt :
    idivOp w x = Res.of (narrowInt w.fmt.toNat w.sat ((x.a.setWidth n).toInt.tdiv (x.b.setWidth n).toInt)) := by
  rw [idivOp_of_nonzero hw hb, asInt_signed ht hw.bits, asInt_signed ht hw.bits]

theorem idivOp_signed (hfits : x.a.setWidth n ≠ BitVec.intMin n ∨ x.b.setWidth n ≠ -1#n) :
    idivOp w x = { val := ((x.a.setWidth n).sdiv (x.b.setWidth n)).setWidth 64, flags := 0#32 } := by
  rw [idivOp_signed_of_toInt hw ht hb, ← BitVec.toInt_sdiv_of_ne_or_ne _ _ hfits, narrowInt_signed ht hw.bits, Res.of_toNat]

theorem iremOp_signed : iremOp w x = { val := ((x.a.setWidth n).srem (x.b.setWidth n)).setWidth 64, flags := 0#32 } := by
  rw [iremOp_of_nonzero hw hb, asInt_signed ht hw.bits, asInt_signed ht hw.bits, ← BitVec.toInt_srem, wrapNat_toInt, Res.ok_toNat]

end

/-! The most negative value by −1: the quotient 2^(n-1) is one more than the largest value of its type. -/

theorem toInt_neg_one (hn : 0 < n) : (-1#n).toInt = -1 := by
  rw [BitVec.neg_one_eq_allOnes, BitVec.toInt_allOnes, if_pos hn]

theorem intMin_tdiv_neg_one (hn : 0 < n) : (BitVec.intMin n).toInt.tdiv (-1#n).toInt = 2 ^ (n - 1) := by
  rw [toInt_neg_one hn, BitVec.toInt_intMin_of_pos hn, Int.neg_tdiv_neg, Int.tdiv_one]

theorem intMin_srem_neg_one (hn : 0 < n) : (BitVec.intMin n).srem (-1#n) = 0#n := by
  rw [← BitVec.toInt_inj, BitVec.toInt_srem, toInt_neg_one hn, Int.tmod_neg, Int.tmod_one, BitVec.toInt_zero]

theorem ofInt_two_pow_pred (hn : 0 < n) : BitVec.ofInt n (2 ^ (n - 1)) = BitVec.intMin n := by
  rw [← BitVec.toInt_inj, BitVec.toInt_ofInt, ← intMin_tdiv_neg_one hn, ← BitVec.toInt_sdiv, BitVec.intMin_sdiv_neg_one]

theorem narrowInt_wraps_above (hbits : typeBits t = n) (hn : 0 < n) : narrowInt t false (2 ^ (n - 1)) = ((BitVec.intMin n).toNat, 0#32) := by
  rw [narrowInt, if_neg (by simp), if_neg (by simp), hbits, wrapNat_eq_ofInt, ofInt_two_pow_pred hn]

theorem narrowInt_clamps_above (ht : t ≠ 9) (hbits : typeBits t = n) : narrowInt t true (2 ^ (n - 1)) = ((BitVec.intMax n).toNat, 32#32) := by
  have hmax : intMax t = (BitVec.intMax n).toInt := by
    rw [intMax, if_neg ht, hbits, BitVec.toInt_intMax]; push_cast [Nat.one_le_two_pow]; rfl
  have habove : intMax t < 2 ^ (n - 1) := hmax ▸ BitVec.toInt_lt
  have hmin : ¬(2 ^ (n - 1) : Int) < intMin t := by
    have hpos : (0 : Int) < 2 ^ (n - 1) := by positivity
    rw [intMin, if_neg ht, hbits]; push_cast; omega
  rw [narrowInt, if_neg fun h => hmin h.2, if_pos ⟨rfl, habove⟩, hmax, hbits, wrapNat_toInt, flagSat]

theorem division_overflows (hw : IntWidth w n) (ht : w.fmt.toNat ≠ 9) (hn : 0 < n) {x : Args} (ha : x.a.setWidth n = BitVec.intMin n)
    (hb : x.b.setWidth n = -1#n) :
    iremOp w x = { val := 0#64, flags := 0#32 } ∧ (w.sat = false → idivOp w x = { val := (BitVec.intMin n).setWidth 64, flags := 0#32 }) ∧
    (w.sat = true → idivOp w x = { val := (BitVec.intMax n).setWidth 64, flags := 32#32 }) := by
  have hne : x.b.setWidth n ≠ 0#n := by
    intro h
    have hzero := congrArg BitVec.toInt (hb.symm.trans h)
    rw [toInt_neg_one hn, BitVec.toInt_zero] at hzero
    exact absurd hzero (by decide)
  have hdiv := idivOp_signed_of_toInt hw ht hne
  rw [ha, hb, intMin_tdiv_neg_one hn] at hdiv
  refine ⟨?_, fun hsat => ?_, fun hsat => ?_⟩
  · rw [iremOp_signed hw ht hne, ha, hb, intMin_srem_neg_one hn, BitVec.setWidth_zero]
  · rw [hdiv, hsat, narrowInt_wraps_above hw.bits hn, Res.of_toNat]
  · rw [hdiv, hsat, narrowInt_clamps_above ht hw.bits, Res.of_toNat]

end

/-! The obligation -/

/-- Settles O32: in its type each operand is a whole number, so that the rows of Table 15.5 are those of truncated division; only the most
negative value by −1 leaves the range. -/
theorem divisionFollowsTable : Obligations.DivisionFollowsTable := by
  have notUnsigned {w : RegWord} (h : w.fmt = 8#4 ∨ w.fmt = 10#4) : w.fmt.toNat ≠ 9 := by rcases h with h | h <;> rw [h] <;> decide
  refine ⟨fun w => ⟨rfl, rfl, runsAs_of_issueAlu fun _ => rfl, runsAs_of_issueAlu fun _ => rfl⟩, ?zero32, ?zero64, ?over32, ?over64, ?other⟩
  case zero32 => exact fun w x hfmt hb => ⟨idivOp_by_zero (intWidth_32 hfmt) hb, iremOp_by_zero (intWidth_32 hfmt) hb⟩
  case zero64 =>
    intro w x hfmt hb
    rw [← BitVec.setWidth_eq x.b] at hb
    have hrow := And.intro (idivOp_by_zero (intWidth_64 hfmt) hb) (iremOp_by_zero (intWidth_64 hfmt) hb)
    simp only [BitVec.setWidth_eq] at hrow
    exact hrow
  case over32 =>
    exact fun w x hfmt ha hb => division_overflows (intWidth_32 (.inl hfmt)) (notUnsigned (.inl hfmt)) (by decide) ha hb
  case over64 =>
    intro w x hfmt ha hb
    rw [← BitVec.setWidth_eq x.a] at ha
    rw [← BitVec.setWidth_eq x.b] at hb
    exact division_overflows (intWidth_64 hfmt) (notUnsigned (.inr hfmt)) (by decide) ha hb
  case other =>
    refine fun w x => ⟨fun hfmt hb => ⟨idivOp_unsigned hfmt hb, iremOp_unsigned hfmt hb⟩, fun hfmt hb hover => ?_, fun hfmt hb hover => ?_⟩
    · have hw := intWidth_32 (.inl hfmt)
      have ht := notUnsigned (.inl hfmt)
      exact ⟨idivOp_signed hw ht hb (not_and_or.mp hover), iremOp_signed hw ht hb⟩
    · have hw := intWidth_64 hfmt
      have ht := notUnsigned (.inr hfmt)
      rw [← BitVec.setWidth_eq x.b] at hb
      rw [← BitVec.setWidth_eq x.a, ← BitVec.setWidth_eq x.b] at hover
      have hrow := And.intro (idivOp_signed hw ht hb (not_and_or.mp hover)) (iremOp_signed hw ht hb)
      simp only [BitVec.setWidth_eq] at hrow
      exact hrow

end Sys2Proof.Machine
end

section
/-! PROOFS. `nop` and `yield`: words without operands, each with one encoding, that change no more than the place of their lane in a clause,
its preference for another binding, and, where the clause ends, the place of its path (R239, R342, R382). -/

namespace Sys2Proof.Machine

open Sys2Proof.Safety

/-! The one word of a form without operands -/

/-- The fields of a register form that names no operand, guard, scoreboard or modifier (Table 13.2). -/
def RegWord.bare : RegWord :=
  { d := 0#8, a := 0#8, b := 0#8, c := 0#8, mod := 0#7, gp := 7#3, gn := 0#1, sb := 7#3, lu := 0#3, ru := 0#3, fmt := 0#4 }

/-- Rules of a word of fixed latency that takes neither operands nor a guard. -/
structure Bare (sp : Spec) : Prop where
  d : sp.d = .none
  a : sp.a = .none
  b : sp.b = .none
  c : sp.c = .none
  guard : sp.guard = false
  var : sp.var = false

theorem fmtIn_zero {w : RegWord} : w.fmtIn [0] = true ↔ w.fmt = 0#4 := by
  simp [RegWord.fmtIn, ← BitVec.toNat_inj]

theorem modIn_zero {w : RegWord} : w.modIn 0#7 = true ↔ w.mod = 0#7 := by
  rw [RegWord.modIn, BitVec.not_zero, BitVec.and_allOnes, beq_iff_eq]

/-- Operands A, B and C carry every last-use and reuse bit (R245). -/
theorem marks_zero : ∀ lu ru : BitVec 3, (lu.getLsbD 2 || ru.getLsbD 2) = false → (lu.getLsbD 1 || ru.getLsbD 1) = false →
    (lu.getLsbD 0 || ru.getLsbD 0) = false → lu = 0#3 ∧ ru = 0#3 := by decide

theorem guard_of_not_guardBad {sp : Spec} (hguard : sp.guard = false) {gp : BitVec 3} {gn : BitVec 1} :
    guardBad sp gp gn = false → gp = 7#3 ∧ gn = 0#1 := by
  rw [guardBad, hguard]
  revert gp gn
  decide

theorem scoreboard_of_not_sbBad {sp : Spec} (hvar : sp.var = false) {sb : BitVec 3} : sbBad sp sb = false → sb = 7#3 := by
  rw [sbBad, hvar]
  revert sb
  decide

/-- Where nothing is named, the checks of R242 to R245 leave one value to each field but FMT and MOD. -/
theorem Bare.fields_of_bad_none {sp : Spec} (hbare : Bare sp) {k : Cls} {d a b c : BitVec 8} {gp sb : BitVec 3} {gn : BitVec 1}
    {ma mb mc : Bool} (h : sp.bad k d a b c gp gn sb ma mb mc = none) :
    (d = 0#8 ∧ a = 0#8 ∧ b = 0#8 ∧ c = 0#8) ∧ (gp = 7#3 ∧ gn = 0#1 ∧ sb = 7#3) ∧ ma = false ∧ mb = false ∧ mc = false := by
  simp only [Spec.bad, check_passed, hbare.d, hbare.a, hbare.b, hbare.c, Opd.ok, Opd.readsV, Bool.not_eq_true] at h
  obtain ⟨-, hoperands, -, -, -, hguard, hboard, hmarks, -⟩ := h
  obtain ⟨hgp, hgn⟩ := guard_of_not_guardBad hbare.guard hguard
  exact ⟨by simpa [and_assoc] using hoperands, ⟨hgp, hgn, scoreboard_of_not_sbBad hbare.var hboard⟩, by simpa [and_assoc] using hmarks⟩

theorem eq_bare_of_bad_none {sp : Spec} (hbare : Bare sp) {k : Cls} {w : RegWord} (hmod : sp.m = w.modIn 0#7)
    (hfmt : (if k = .vector then sp.f0 else sp.f1) = w.fmtIn [0])
    (h : sp.bad k w.d w.a w.b w.c w.gp w.gn w.sb (w.lu.getLsbD 2 || w.ru.getLsbD 2) (w.lu.getLsbD 1 || w.ru.getLsbD 1)
      (w.lu.getLsbD 0 || w.ru.getLsbD 0) = none) : w = RegWord.bare := by
  obtain ⟨⟨hd, ha, hb, hc⟩, ⟨hgp, hgn, hsb⟩, hma, hmb, hmc⟩ := hbare.fields_of_bad_none h
  obtain ⟨-, hm, hf⟩ := Spec.accepts_of_bad_none h
  obtain ⟨hlu, hru⟩ := marks_zero _ _ hma hmb hmc
  have hmod0 : w.mod = 0#7 := modIn_zero.1 (hmod ▸ hm)
  have hfmt0 : w.fmt = 0#4 := fmtIn_zero.1 (hfmt ▸ hf)
  cases w
  subst hd ha hb hc hmod0 hgp hgn hsb hlu hru hfmt0
  rfl

theorem bare_nop (w : RegWord) : Bare (Instr.nop w).rules := ⟨rfl, rfl, rfl, rfl, rfl, rfl⟩
theorem bare_yield (w : RegWord) : Bare (Instr.yield w).rules := ⟨rfl, rfl, rfl, rfl, rfl, rfl⟩

theorem eq_bare_of_wf_nop {w : RegWord} {k : Cls} (h : (Instr.nop w).wf k = true) : w = RegWord.bare :=
  eq_bare_of_bad_none (bare_nop w) rfl (by cases k <;> rfl) (Option.isNone_iff_eq_none.1 h)

/-- `yield` stands in clauses of CLASS 0 alone, where its FMT is checked. -/
theorem eq_bare_of_wf_yield {w : RegWord} {k : Cls} (h : (Instr.yield w).wf k = true) : w = RegWord.bare := by
  have hbad : (Instr.yield w).bad k = none := Option.isNone_iff_eq_none.1 h
  have hcls : (if k = .vector then true else false) = true := (Spec.accepts_of_bad_none hbad).1
  have hvector : k = .vector := by simpa using hcls
  subst hvector
  exact eq_bare_of_bad_none (bare_yield w) rfl rfl hbad

/-! Such a word marks no register -/

theorem Bare.lastUses_nil {i : Instr} (h : Bare i.rules) {w : RegWord} (hlayout : i.layout = .reg w) (u : Issuer) : u.lastUses i = [] := by
  simp [Issuer.lastUses, Instr.lastUses, hlayout, h.a, h.b, h.c, Opd.vregs]

theorem Bare.reuses_nil {i : Instr} (h : Bare i.rules) {w : RegWord} (hlayout : i.layout = .reg w) (u : Issuer) : u.reuses i = [] := by
  simp [Issuer.reuses, Instr.reuses, hlayout, h.a, h.b, h.c, Opd.vregs]

theorem Bare.useBits_eq {i : Instr} (h : Bare i.rules) {w : RegWord} (hlayout : i.layout = .reg w) (s : State) (u : Issuer) :
    s.useBits u i = s :=
  State.useBits_none (h.lastUses_nil hlayout u) (h.reuses_nil hlayout u)

/-! A change of one lane and of its context -/

/-- The states differ in the context at `key` and in its lane at most. -/
structure State.DiffersAt (s t : State) (key : Nat) : Prop where
  lanes : ∀ k, k ≠ key / 8 → t.lane k = s.lane k
  ctxs : ∀ k, k ≠ key → t.ctx? k = s.ctx? k
  near : s.Near t

theorem State.DiffersAt.trans {s t r : State} {key : Nat} (h : s.DiffersAt t key) (g : t.DiffersAt r key) : s.DiffersAt r key where
  lanes k hk := (g.lanes k hk).trans (h.lanes k hk)
  ctxs k hk := (g.ctxs k hk).trans (h.ctxs k hk)
  near := h.near.trans g.near

theorem State.changeLane_differsAt (s : State) (key : Nat) (f : Lane → Lane) : s.DiffersAt (s.changeLane (key / 8) f) key where
  lanes _ hk := State.changeLane_lane_other _ _ hk
  ctxs _ _ := rfl
  near := State.changeLane_near _ _ _

theorem State.endClause_differsAt (s : State) (u : Issuer) (pc : Dbl) (w : Wait) : s.DiffersAt (s.endClause u pc w) u.key where
  lanes _ hk := State.endClause_lane_other hk
  ctxs _ hk := State.endClause_ctx_other hk
  near := State.endClause_near _ _ _ _

/-- What lies outside the tables of contexts and lanes is as it was. -/
theorem State.Near.kept {s t : State} (h : s.Near t) : t.mem = s.mem ∧ t.hub = s.hub ∧ t.eng = s.eng ∧ t.rel = s.rel ∧ t.out = s.out ∧
    t.work.nodes = s.work.nodes ∧ t.work.groups = s.work.groups ∧ t.work.gangs = s.work.gangs := by
  obtain ⟨hmem, hhub, heng, hrel, hout, -, -, -, -, -, hnodes, hgroups, hgangs, -⟩ := h.fields
  exact ⟨hmem, hhub, heng, hrel, hout, hnodes, hgroups, hgangs⟩

/-! Committing no write and no flag -/

theorem raiseFlags_zero (x : Word) : raiseFlags x 0#32 = x := by simp [raiseFlags]

theorem Stage.add_nothing (c : Ctx) (g : Stage) : g.add c [] 0#32 = g := by simp [Stage.add, raiseFlags_zero]

theorem State.raise_nothing_ctx (s : State) (key k : Nat) : (s.raise key 0#32).ctx? k = s.ctx? k := by
  by_cases hk : k = key
  · subst hk
    simp [State.raise, raiseFlags_zero]
  · exact State.changeCtx_ctx_other _ _ hk

section
variable (s : State) (u : Issuer) (k : Nat)

theorem State.commitWord_nothing_ctx : (s.commitWord u [] 0#32).ctx? k = s.ctx? k := by
  unfold State.commitWord
  split
  · rfl
  · rw [State.raise_nothing_ctx, State.commitNone_ctx]

theorem State.commitWord_nothing_lane : (s.commitWord u [] 0#32).lane k = s.lane k := by
  unfold State.commitWord
  split
  · by_cases hk : k = u.key / 8
    · subst hk
      simp [Stage.add_nothing, latchAfter]
    · exact State.changeLane_lane_other _ _ hk
  · exact State.commitNone_lane s u.key k

theorem State.commitWord_nothing_near : s.Near (s.commitWord u [] 0#32) := by
  unfold State.commitWord
  split
  · exact State.changeLane_near _ _ _
  · exact (State.commitNone_near s _).trans (State.changeCtx_near _ _ _)

end

theorem State.commitWord_nothing_differsAt (s : State) (u : Issuer) : s.DiffersAt (s.commitWord u [] 0#32) u.key where
  lanes k _ := State.commitWord_nothing_lane s u k
  ctxs k _ := State.commitWord_nothing_ctx s u k
  near := State.commitWord_nothing_near s u

/-! The clause goes on, or ends, with no result -/

/-- The lane takes the next word of its clause. -/
def Lane.toNextWord (l : Lane) : Lane := { l with clause := l.clause.map fun c => { c with pos := c.pos + 1, await := false } }

theorem State.advance_of_next {s : State} {u : Issuer} (h : u.clause.pos < u.clause.words.length) :
    s.advance u = s.changeLane (u.key / 8) Lane.toNextWord :=
  if_pos h

theorem State.advance_of_last {s : State} {u : Issuer} (h : u.clause.words.length ≤ u.clause.pos) :
    s.advance u = s.endClause u u.clause.after .none :=
  if_neg (Nat.not_lt.2 h)

/-- The state after a word without result that ends its clause. -/
def State.endsWithNothing (s : State) (u : Issuer) : State := (s.commitWord u [] 0#32).endClause u u.clause.after .none

theorem State.endsWithNothing_differsAt (s : State) (u : Issuer) : s.DiffersAt (s.endsWithNothing u) u.key :=
  (State.commitWord_nothing_differsAt s u).trans (State.endClause_differsAt _ u _ _)

theorem State.endsWithNothing_lane (s : State) (u : Issuer) : (s.endsWithNothing u).lane (u.key / 8)
    = { s.lane (u.key / 8) with clause := none, yielded := (s.lane (u.key / 8)).yielded || u.hdr.yield } := by
  rw [State.endsWithNothing, State.endClause_lane, State.commitWord_nothing_lane]

/-- Outside a trunk or limb nothing is staged, so that the path's place is all that changes in the context. -/
theorem State.endsWithNothing_ctx {s : State} {u : Issuer} (hctx : s.ctx? u.key = some u.ctx)
    (hclause : (s.lane (u.key / 8)).clause = some u.clause) (hstage : u.clause.stage = none) :
    (s.endsWithNothing u).ctx? u.key
      = some { (u.ctx.changePath u.path.id (u.endPath u.clause.after .none)) with joined := none } := by
  have hlane : ((s.commitWord u [] 0#32).lane (u.key / 8)).clause = some u.clause := by rw [State.commitWord_nothing_lane, hclause]
  rw [State.endsWithNothing, State.endClause_ctx hlane hstage, State.commitWord_nothing_ctx, hctx]
  rfl

theorem IssuedBy.stage_none {s : State} {i : Instr} {u : Issuer} (h : IssuedBy s i u) (hconcrete : u.symbolic = false) :
    u.clause.stage = none := by
  simpa [hconcrete] using h.stage

/-! What the two words answer -/

theorem Issuer.sguard_always {u : Issuer} {i : Instr} (hgp : i.guard.1 = 7#3) (hgn : i.guard.2 = 0#1) : u.sguard i = .uni true := by
  rw [Issuer.sguard, hgp, hgn]
  rfl

/-- A trunk or limb computes `nop` once, over no operand. -/
theorem Sym.alu_nop (v : Sym) (w : RegWord) : v.alu (.nop w) (nopOp w) = some ([], 0#32) := rfl

theorem aluBody_nop (s : State) (u : Issuer) (m : Word) : aluBody (.nop RegWord.bare) (nopOp RegWord.bare) s u m = (s, .done) := by
  unfold aluBody
  split
  · rw [Issuer.sguard_always rfl rfl, Sym.alu_nop]
    rfl
  · have hwrites : ∀ t r, u.resultAt (.nop RegWord.bare) t r = [] := fun _ _ => rfl
    have hflags : ∀ x, (nopOp RegWord.bare x).flags = 0#32 := fun _ => rfl
    simp [hwrites, hflags, List.foldl_map, Ending.done]

theorem exec_nop {s : State} {u : Issuer} (h : Issues s (.nop RegWord.bare) u) :
    exec (.nop RegWord.bare) s = .next ((s.commitWord u [] 0#32).advance u) := by
  have hexec : exec (.nop RegWord.bare) s = s.issueWord (.nop RegWord.bare) (aluBody (.nop RegWord.bare) (nopOp RegWord.bare)) := rfl
  have hsettle : s.settle u (.nop RegWord.bare) .done = ((s.useBits u (.nop RegWord.bare)).commitWord u [] 0#32).advance u := rfl
  rw [hexec, State.issueWord_next _ h, aluBody_nop, hsettle, (bare_nop _).useBits_eq rfl]

/-- The lane treats its clause as one with YIELD = 1 (R57, R382). -/
def State.markYielded (s : State) (u : Issuer) : State := s.changeLane (u.key / 8) fun l => { l with yielded := true }

theorem exec_yield {s : State} {w : RegWord} {u : Issuer} (h : Issues s (.yield w) u) :
    exec (.yield w) s = .next ((s.markYielded u).endsWithNothing u) := by
  have hexec : exec (.yield w) s = s.issueWord (.yield w) yieldBody := rfl
  rw [hexec, State.issueWord_next _ h]
  simp only [yieldBody, State.settle, (bare_yield w).useBits_eq rfl, State.endsWithNothing, State.markYielded]

theorem State.markYielded_endsWithNothing_differsAt (s : State) (u : Issuer) : s.DiffersAt ((s.markYielded u).endsWithNothing u) u.key :=
  (State.changeLane_differsAt s u.key _).trans (State.endsWithNothing_differsAt _ u)

theorem State.markYielded_endsWithNothing_lane (s : State) (u : Issuer) :
    ((s.markYielded u).endsWithNothing u).lane (u.key / 8) = { s.lane (u.key / 8) with clause := none, yielded := true } := by
  rw [State.endsWithNothing_lane, State.markYielded, State.changeLane_lane, Bool.true_or]

/-! The obligations -/

/-- Settles O26: a well-formed `nop` is the one word without operands, so that it writes, raises and marks nothing, and what is left is the
place of its lane in the clause. -/
theorem nopChangesNothing : Obligations.NopChangesNothing := by
  unfold Obligations.NopChangesNothing
  refine ⟨?word, ⟨RegWord.bare, by decide⟩, ?next, ?last⟩
  case word =>
    intro k w hwf
    obtain rfl := eq_bare_of_wf_nop hwf
    exact ⟨by decide, rfl, rfl, rfl, rfl, rfl⟩
  case next =>
    intro s w u k hissues hwf hpos
    obtain rfl := eq_bare_of_wf_nop hwf
    have hclause := (State.issuing_spec hissues.issuer).clause
    have hexec := exec_nop hissues
    rw [State.advance_of_next hpos] at hexec
    have hlane : ((s.commitWord u [] 0#32).changeLane (u.key / 8) Lane.toNextWord).lane (u.key / 8) = (s.lane (u.key / 8)).toNextWord := by
      rw [State.changeLane_lane, State.commitWord_nothing_lane]
    have hdiff := (State.commitWord_nothing_differsAt s u).trans (State.changeLane_differsAt _ u.key Lane.toNextWord)
    exact ⟨_, hexec, by rw [hlane, Lane.toNextWord, hclause]; rfl, by rw [hlane, Lane.toNextWord], by rw [hlane, Lane.toNextWord], hdiff.lanes,
      State.commitWord_nothing_ctx s u, hdiff.near.kept⟩
  case last =>
    intro s w u k hissues hwf hconcrete hpos
    obtain rfl := eq_bare_of_wf_nop hwf
    have hissued := State.issuing_spec hissues.issuer
    have hexec := exec_nop hissues
    rw [State.advance_of_last hpos] at hexec
    have hdiff := State.endsWithNothing_differsAt s u
    exact ⟨s.endsWithNothing u, hexec, by rw [State.endsWithNothing_lane],
      State.endsWithNothing_ctx hissued.ctx hissued.clause (hissued.stage_none hconcrete), hdiff.lanes, hdiff.ctxs, hdiff.near.kept⟩

/-- Settles O27: `yield` sets the mark that the end of a clause with YIELD = 1 sets, and ends its clause with no result, in a trunk or limb as
outside them. -/
theorem yieldEndsClause : Obligations.YieldEndsClause := by
  unfold Obligations.YieldEndsClause
  refine ⟨?word, ⟨RegWord.bare, by decide⟩, ?concrete, ?symbolic⟩
  case word =>
    intro k w hwf
    obtain rfl := eq_bare_of_wf_yield hwf
    exact ⟨by decide, rfl, rfl, rfl, rfl, rfl⟩
  case concrete =>
    intro s w u k hissues hwf hconcrete
    have hissued := State.issuing_spec hissues.issuer
    have hlane := State.markYielded_endsWithNothing_lane s u
    have hdiff := State.markYielded_endsWithNothing_differsAt s u
    have hclause : ((s.markYielded u).lane (u.key / 8)).clause = some u.clause := by
      rw [State.markYielded, State.changeLane_lane]
      exact hissued.clause
    exact ⟨_, exec_yield hissues, by rw [hlane], by rw [hlane], by rw [hlane],
      State.endsWithNothing_ctx hissued.ctx hclause (hissued.stage_none hconcrete), hdiff.lanes, hdiff.ctxs, hdiff.near.kept⟩
  case symbolic =>
    intro s w u hissues _
    have hlane := State.markYielded_endsWithNothing_lane s u
    have hdiff := State.markYielded_endsWithNothing_differsAt s u
    exact ⟨_, exec_yield hissues, by rw [hlane], by rw [hlane], hdiff.lanes, hdiff.ctxs, hdiff.near.kept⟩

end Sys2Proof.Machine
end
